-- ==== Sys2Proof/Word.lean ====
section
/-!
DEFINITION. The word types of the MK9T and the sparse table type that its state is written in.
-/
namespace Sys2Proof

/-- A 64-bit register or bus word. -/
abbrev Word := BitVec 64
/-- One byte of memory. -/
abbrev Byte := BitVec 8
/-- A 2048-bit vector register (R7). -/
abbrev Vec := BitVec 2048
/-- A predicate: one bit for each byte of a vector (R7). -/
abbrev PredBits := BitVec 256
/-- A sparse table: key and value pairs with keys strictly rising and no pair equal to the table's
default. The operations and the canonical form are in `Machine/Table.lean`. -/
abbrev Tbl (α : Type) := List (Nat × α)

end Sys2Proof
end

