-- ==== Sys2Proof/Syntax.lean ====
section
/-!
DEFINITION. The abstract syntax: operand forms of both instruction levels (R9), and `Instr`, one constructor for
each row of spec/opcode_table.json: the slot instructions of the core ISA (R148), the graph-code instructions
(R282, R301) and the device's own steps.
-/
namespace Sys2Proof

/-- Element types and their 4-bit codes in table order (R33). -/
inductive ElemType where
  | i8 | i16 | i32 | i64 | n8 | n16 | n32 | n64
  | f8e4 | f8e5 | f16 | bf16 | f32 | f64 | dx8 | dx4
  deriving DecidableEq, Repr

/-- Rounding-mode codes 0 to 6 (R44). -/
inductive RMode where
  | rne | rz | ru | rd | rna | sr | dyn
  deriving DecidableEq, Repr

/-- Source selectors of a g field (R135). -/
inductive GSrc where
  | reg (n : Fin 32) | que (k : Fin 16) | li (k : Fin 6) | lc | pcb | long (w : Word) | const (k : Fin 64)
  deriving DecidableEq, Repr

/-- Source selectors of a v field (R135). -/
inductive VSrc where
  | reg (n : Fin 32) | que (k : Fin 16) | strm (k : Fin 8) | long (w : Word) | const (k : Fin 64)
  deriving DecidableEq, Repr

/-- Destination selectors of a g field (R136). -/
inductive GDst where
  | reg (n : Fin 32) | que
  deriving DecidableEq, Repr

/-- Destination selectors of a v field (R136). -/
inductive VDst where
  | reg (n : Fin 32) | que | strm (k : Fin 8)
  deriving DecidableEq, Repr

/-- PE, PN and PIX of a slot word (R134). -/
inductive Pred where
  | always | on (neg : Bool) (p : Fin 8)
  deriving DecidableEq, Repr

/-- Ordering annotations (R92). -/
inductive Ann where
  | plain | aq | rl | ar
  deriving DecidableEq, Repr

/-- Scope codes 0 to 5 (R91). -/
inductive Scope where
  | stream | core | clu | dev | pod | sys
  deriving DecidableEq, Repr

/-- Condition codes of CMP and BRC (R157). -/
inductive Cond where
  | eq | ne | lt | le | gt | ge | tst | ntst
  deriving DecidableEq, Repr

/-- Condition codes of VCMP (R209). -/
inductive VCond where
  | eq | ne | lt | le | gt | ge | tst | ntst | un | ord
  deriving DecidableEq, Repr

/-! ### Payloads of the S slot (R152) -/

/-- Two-source scalar operations. -/
structure SBin where
  t : ElemType
  sat : Bool
  d : GDst
  a : GSrc
  b : GSrc
  pr : Pred
  deriving DecidableEq, Repr

/-- One-source scalar operations. -/
structure SUn where
  t : ElemType
  d : GDst
  a : GSrc
  pr : Pred
  deriving DecidableEq, Repr

structure SCmp where
  c : Cond
  t : ElemType
  d : GDst
  a : GSrc
  b : GSrc
  pr : Pred
  deriving DecidableEq, Repr

structure SSel where
  t : ElemType
  d : GDst
  a : GSrc
  b : GSrc
  c : GSrc
  pr : Pred
  deriving DecidableEq, Repr

/-- BFX: a field of `len1 + 1` bits at `pos` (R156). -/
structure SBfx where
  t : ElemType
  d : GDst
  a : GSrc
  pos : BitVec 6
  len1 : BitVec 6
  pr : Pred
  deriving DecidableEq, Repr

structure SBfi where
  t : ElemType
  d : GDst
  a : GSrc
  b : GSrc
  pos : BitVec 6
  len1 : BitVec 6
  pr : Pred
  deriving DecidableEq, Repr

structure SBrc where
  c : Cond
  t : ElemType
  a : GSrc
  b : GSrc
  disp : BitVec 15
  pr : Pred
  deriving DecidableEq, Repr

/-- PMASK.and, or, andn, xor. -/
structure PBin where
  d : Fin 8
  a : Fin 8
  b : Fin 8
  deriving DecidableEq, Repr

/-! ### Payloads of the A slot (R173 to R197) -/

/-- HOFF and HNAR. -/
structure HArith where
  d : Fin 16
  a : Fin 16
  b : GSrc
  pr : Pred
  deriving DecidableEq, Repr

/-- Fields that HGET reads, codes 0 to 8 (R180). -/
inductive HField where
  | cur | low | high | rights | gran | oid | tag | lo64 | hi64
  deriving DecidableEq, Repr

structure ALd where
  t : ElemType
  cls : BitVec 4
  d : GDst
  h : Fin 16
  b : GSrc
  ann : Ann
  scope : Scope
  tok : Fin 8
  scl : BitVec 3
  pr : Pred
  deriving DecidableEq, Repr

structure ASt where
  t : ElemType
  cls : BitVec 4
  h : Fin 16
  b : GSrc
  c : GSrc
  ann : Ann
  scope : Scope
  scl : BitVec 3
  pr : Pred
  deriving DecidableEq, Repr

structure ALdh where
  cls : BitVec 4
  d : Fin 16
  h : Fin 16
  b : GSrc
  ann : Ann
  scope : Scope
  tok : Fin 8
  scl : BitVec 3
  pr : Pred
  deriving DecidableEq, Repr

structure ASth where
  cls : BitVec 4
  h : Fin 16
  b : GSrc
  c : Fin 16
  ann : Ann
  scope : Scope
  scl : BitVec 3
  pr : Pred
  deriving DecidableEq, Repr

/-- VLD (displacement) and VLDS (stride; SCL 0). -/
structure AVld where
  t : ElemType
  cls : BitVec 4
  d : VDst
  h : Fin 16
  b : GSrc
  tok : Fin 8
  scl : BitVec 3
  pr : Pred
  deriving DecidableEq, Repr

structure AVst where
  t : ElemType
  cls : BitVec 4
  h : Fin 16
  b : GSrc
  c : VSrc
  scl : BitVec 3
  pr : Pred
  deriving DecidableEq, Repr

structure AGth where
  t : ElemType
  cls : BitVec 4
  d : VDst
  h : Fin 16
  b : VSrc
  tok : Fin 8
  scl : BitVec 3
  pr : Pred
  deriving DecidableEq, Repr

structure ASct where
  t : ElemType
  cls : BitVec 4
  h : Fin 16
  b : VSrc
  c : VSrc
  scl : BitVec 3
  pr : Pred
  deriving DecidableEq, Repr

structure AAtom where
  t : ElemType
  cls : BitVec 4
  d : GDst
  h : Fin 16
  b : GSrc
  c : GSrc
  ann : Ann
  scope : Scope
  tok : Fin 8
  far : Bool
  pr : Pred
  deriving DecidableEq, Repr

structure AProbe where
  cls : BitVec 4
  d : GDst
  h : Fin 16
  b : GSrc
  tok : Fin 8
  pr : Pred
  deriving DecidableEq, Repr

structure ASbind where
  write : Bool
  k : Fin 8
  h : Fin 16
  b : GSrc
  gc : Fin 29
  cls : BitVec 4
  deriving DecidableEq, Repr

structure ALdres where
  d : GDst
  h : Fin 16
  b : GSrc
  tok : Fin 8
  scl : BitVec 3
  pr : Pred
  deriving DecidableEq, Repr

/-! ### Payloads of the V slots (R205) -/

structure VBin where
  t : ElemType
  rm : RMode
  sat : Bool
  d : VDst
  a : VSrc
  b : VSrc
  pr : Pred
  deriving DecidableEq, Repr

structure VTri where
  t : ElemType
  rm : RMode
  sat : Bool
  d : VDst
  a : VSrc
  b : VSrc
  c : VSrc
  pr : Pred
  deriving DecidableEq, Repr

structure VUn where
  t : ElemType
  rm : RMode
  sat : Bool
  d : VDst
  a : VSrc
  pr : Pred
  deriving DecidableEq, Repr

structure VCmpW where
  t : ElemType
  c : VCond
  d : Fin 8
  a : VSrc
  b : VSrc
  pr : Pred
  deriving DecidableEq, Repr

structure VSelW where
  t : ElemType
  d : VDst
  a : VSrc
  b : VSrc
  neg : Bool
  p : Fin 8
  deriving DecidableEq, Repr

structure VBcastW where
  t : ElemType
  d : VDst
  a : GSrc
  pr : Pred
  deriving DecidableEq, Repr

structure VExtW where
  t : ElemType
  d : GDst
  a : VSrc
  b : GSrc
  deriving DecidableEq, Repr

structure VInsW where
  t : ElemType
  d : VDst
  a : VSrc
  b : GSrc
  c : GSrc
  deriving DecidableEq, Repr

/-- VCVT to `t` from `s`; C is read only by a narrowing form (R212). -/
structure VCvtW where
  t : ElemType
  s : ElemType
  part : BitVec 3
  rm : RMode
  sat : Bool
  d : VDst
  a : VSrc
  c : Option VSrc
  pr : Pred
  deriving DecidableEq, Repr

structure VClmulW where
  hi : Bool
  d : VDst
  a : VSrc
  b : VSrc
  pr : Pred
  deriving DecidableEq, Repr

/-- Operations of VRED and VSCAN (R218). -/
inductive RedOp where
  | add | max | min
  deriving DecidableEq, Repr

structure VRedW where
  op : RedOp
  t : ElemType
  rm : RMode
  sat : Bool
  d : VDst
  a : VSrc
  pr : Pred
  deriving DecidableEq, Repr

structure VScanW where
  op : RedOp
  inc : Bool
  t : ElemType
  rm : RMode
  sat : Bool
  d : VDst
  a : VSrc
  pr : Pred
  deriving DecidableEq, Repr

structure VCmprW where
  t : ElemType
  d : VDst
  a : VSrc
  c : GDst
  pr : Pred
  deriving DecidableEq, Repr

/-- VSHUF patterns 0 to 6 (R223). -/
inductive ShufPat where
  | ziplo | ziphi | uzpev | uzpod | rot | rev | splat
  deriving DecidableEq, Repr

structure VShufW where
  t : ElemType
  pat : ShufPat
  k : BitVec 9
  d : VDst
  a : VSrc
  b : Option VSrc
  pr : Pred
  deriving DecidableEq, Repr

structure VDxpW where
  t : ElemType
  s : ElemType
  part : BitVec 6
  rm : RMode
  d : VDst
  a : VSrc
  c : VSrc
  deriving DecidableEq, Repr

structure VDxuW where
  t : ElemType
  s : ElemType
  part : BitVec 6
  rm : RMode
  sat : Bool
  d : VDst
  a : VSrc
  b : VSrc
  deriving DecidableEq, Repr

/-! ### Payloads of the M slot (R230) -/

structure MMmaW where
  t : ElemType
  bx : Bool
  d : Fin 8
  a : Fin 16
  b : Fin 16
  c : GSrc
  pr : Pred
  deriving DecidableEq, Repr

structure MMmasW where
  t : ElemType
  bx : Bool
  n64 : Bool
  d : Fin 8
  a : Fin 8
  b : Fin 16
  c : GSrc
  pr : Pred
  deriving DecidableEq, Repr

structure MMdxW where
  dx4 : Bool
  ps : Bool
  a : Fin 16
  b : Fin 16
  c : GSrc
  pr : Pred
  deriving DecidableEq, Repr

structure MMscaW where
  dx4 : Bool
  ps : Bool
  d : Fin 8
  a : VSrc
  b : VSrc
  c : VSrc
  pr : Pred
  deriving DecidableEq, Repr

/-- Source kinds of MDRAIN (R240). -/
inductive DrainKind where
  | f32 | i32 | f64
  deriving DecidableEq, Repr

structure MMdrainW where
  out : ElemType
  kind : DrainKind
  rm : RMode
  sat : Bool
  d : Fin 8
  h : Fin 16
  c : GSrc
  pr : Pred
  deriving DecidableEq, Repr

/-- MLDACC and MSTACC. -/
structure MMoveW where
  d : Fin 8
  h : Fin 16
  c : GSrc
  pr : Pred
  deriving DecidableEq, Repr

/-! ### Payloads of the X slot (R250, R267) -/

/-- XTRN and XPRM: `wc` is the width code, `order` the order code σ (R251). -/
structure XPermW where
  wc : BitVec 2
  cls : BitVec 4
  d : Fin 16
  a : Fin 16
  b : GSrc
  c : GSrc
  tok : Fin 8
  order : Fin 6
  pr : Pred
  deriving DecidableEq, Repr

/-- Bank types BT 0 to 5 (R253). -/
inductive BankType where
  | f32 | i32 | f16 | bf16 | dxw | n64
  deriving DecidableEq, Repr

structure XBopW where
  bt : BankType
  cls : BitVec 4
  a : Fin 16
  b : GSrc
  c : Fin 16
  tok : Fin 8
  pr : Pred
  deriving DecidableEq, Repr

/-- XBFEN; no range means ALL. -/
structure XBfenW where
  d : GDst
  a : Option (Fin 16)
  tok : Fin 8
  pr : Pred
  deriving DecidableEq, Repr

/-- XEVP; the cluster operand is used on a sequencer only. -/
structure XEvpW where
  d : Fin 16
  a : GSrc
  tok : Fin 8
  kinds : BitVec 3
  pr : Pred
  deriving DecidableEq, Repr

/-- XINV, XWB and XPREF (`tok` unused by XPREF). -/
structure XRangeW where
  cls : BitVec 4
  h : Fin 16
  b : GSrc
  c : GSrc
  tok : Fin 8
  pr : Pred
  deriving DecidableEq, Repr

structure XCometW where
  cls : BitVec 4
  a : Fin 16
  b : Fin 16
  c : GSrc
  tok : Fin 8
  pr : Pred
  deriving DecidableEq, Repr

/-! ### Graph code (R280, R282, R301) -/

/-- A value operand: shape register or 30-bit immediate (R280). -/
inductive GVal where
  | z (k : Fin 64) | imm (v : BitVec 30)
  deriving DecidableEq, Repr

/-- A descriptor index. -/
abbrev Desc := BitVec 16
/-- An attribute word index. -/
abbrev Attr := BitVec 30

/-- Conditions of JIF, FL 0 to 5 (R290). -/
inductive GCond where
  | eq | ne | lt | le | gt | ge
  deriving DecidableEq, Repr

/-- SHOP operations, FL 0 to 13 (R287). -/
inductive ShOp where
  | add | sub | mul | divf | divc | mod | min | max | shl | shr | and | or | alup | mov
  deriving DecidableEq, Repr

/-- Tiers of TALLOC, FL 0 to 2 (R296). -/
inductive Tier where
  | fast | capacity | bank
  deriving DecidableEq, Repr

/-- ELTW operation codes (R313). -/
inductive EltOp where
  | add | sub | mul | div | max | min
  | neg | abs | exp2 | log2 | tanh | sigm | rcp | rsqrt | relu | silu | gelu
  deriving DecidableEq, Repr

/-- Operand b of ELTW: a descriptor or an attribute constant. -/
inductive EltB where
  | none | desc (d : Desc) | attr (x : Attr)
  deriving DecidableEq, Repr

/-- SCATTER modes, FL[1:0] (R301). -/
inductive ScatMode where
  | store | add | max | min
  deriving DecidableEq, Repr

/-- COLL's fields beside its kind: EXACT, the operation, the root rank, dst and src (R301). -/
structure CollW where
  exact : Bool
  op : RedOp
  root : BitVec 12
  dst : Desc
  src : Desc
  deriving DecidableEq, Repr

structure AttnW where
  causal : Bool
  o : Desc
  q : Desc
  k : Desc
  v : Desc
  scale : Attr
  mask : Option Desc
  deriving DecidableEq, Repr

structure NormW where
  rms : Bool
  axis : BitVec 3
  dst : Desc
  src : Desc
  eps : Attr
  gamma : Option Desc
  beta : Option Desc
  deriving DecidableEq, Repr

/-! ### The device's own steps -/

/-- The two moments of a token-delivered result: its access performs (R94), and its value lands (R177). -/
inductive LandPhase where
  | perform | land
  deriving DecidableEq, Repr

/-- Who makes a privileged register access (R361, R430). -/
inductive Master where
  | fw | os | host
  deriving DecidableEq, Repr

/-- A comet: the eight header words and the payload bytes (R329). -/
structure Comet where
  hdr : List Word
  payload : List Byte
  deriving DecidableEq, Repr

/-- Where an arriving comet comes from: the fabric, this device's loop-back (R354), or a port's park (R335). -/
inductive CometSrc where
  | fabric (c : Comet) | loop (k : Nat) | parked (k : Nat)
  deriving DecidableEq, Repr

/-- An inbound access: read of n bytes, write of bytes, or an atomic of R189 (R436). -/
inductive InOp where
  | read (n : Nat) | write (bs : List Byte) | atom (op : Fin 8) (t : ElemType) (b c : Word)
  deriving DecidableEq, Repr

/-- The path of an inbound request (R435): BAR2 byte address, or a peer or partition naming an exported entry. -/
inductive InPath where
  | bar0 (off : Nat) | bar2 (addr : Nat) | bar4 (off : Nat)
  | peer (part : Fin 4) (ent : Nat) (off : Nat) (dev : BitVec 10) (pod : BitVec 11) (tag : Option Nat)
  deriving DecidableEq, Repr

/-- RISC-V modes of a control core: firmware, and the device OS with its user processes (R355, R360). -/
inductive HartMode where
  | m | s | u
  deriving DecidableEq, Repr

/-- A control core (R360) in the mode it runs in. -/
structure Hart where
  id : Fin 8
  mode : HartMode
  deriving DecidableEq, Repr

/-- What a control core does (R360): a RISC-V access, or a change of what its address map holds: firmware sets the length of the OS
carve-out, the runtime places granule k of the fast-tier aperture on granule g of partition p, S-mode grants or withdraws U-mode's
mapping of a 4 KiB page of the privileged register space (R356). -/
inductive HartOp where
  | load (n : Nat) | store (bs : List Byte) | atom (op : Fin 8) (t : ElemType) (c : Word) | fence
  | carve (n : Nat) | place (k : Nat) (p : Fin 4) (g : Nat) | grant (page : Nat) (on : Bool)
  deriving DecidableEq, Repr

/-- Outcomes of a training attempt (R444). -/
inductive TrainResult where
  | all | low | high | fail
  deriving DecidableEq, Repr

/-- Sensors of R461. -/
inductive Sensor where
  | dieTemp (d : Fin 2) | ioTemp | hbmTemp (s : Fin 8) | power | life | cecnt | uecnt | port (k : Fin 18) | boot
  deriving DecidableEq, Repr

/-- A microcode patch (R327): store bundles as eight words each, operator-table entries, and the signature. -/
structure Patch where
  bundles : List (Nat × List Word)
  entries : List (Nat × Word)
  sig : List Byte
  deriving DecidableEq, Repr

/-- A detected hardware fault (R423, R424): unit, place, severity, location, object, the engine or the control core's hart that used
it, and for an arithmetic check the slot position and the destination vector register. -/
structure ErrorW where
  unit : BitVec 8
  place : BitVec 8
  sev : BitVec 8
  loc : Word
  obj : Option (BitVec 10 × BitVec 20)
  eng : Option Nat
  hart : Option (Fin 8)
  slot : BitVec 4
  dst : Option (Fin 32)
  deriving DecidableEq, Repr

/-- The instructions and steps of spec/opcode_table.json, in its order. -/
inductive Instr where
  -- S slot: integer operations (R153 to R157)
  | add (x : SBin) | sub (x : SBin) | mul (x : SBin) | mulh (x : SBin) | div (x : SBin) | rem (x : SBin)
  | and (x : SBin) | or (x : SBin) | xor (x : SBin) | andn (x : SBin)
  | shl (x : SBin) | shr (x : SBin) | sar (x : SBin) | clz (x : SUn) | popc (x : SUn)
  | min (x : SBin) | max (x : SBin) | cmp (x : SCmp) | sel (x : SSel) | mov (x : SUn) | bfx (x : SBfx) | bfi (x : SBfi)
  -- S slot: control (R159 to R164)
  | br (disp : BitVec 15) (pr : Pred) | brc (x : SBrc) | jmp (a : GSrc) (pr : Pred)
  | callRelative (d : GDst) (disp : BitVec 15) (pr : Pred) | callAbsolute (d : GDst) (a : GSrc) (pr : Pred)
  | ret (a : GSrc) (pr : Pred) | loop (a : GSrc) (len : BitVec 12) | loopp (a : GSrc) (depth : BitVec 3) (len : BitVec 12)
  | lbrk (pr : Pred) | lend
  -- S slot: predicates, slack, service calls, traps, CSRs (R158, R165 to R171)
  | pmaskFirst (t : ElemType) (d : Fin 8) (a : GSrc) | pmaskAnd (x : PBin) | pmaskOr (x : PBin) | pmaskAndn (x : PBin)
  | pmaskXor (x : PBin) | pmaskNot (d : Fin 8) (a : Fin 8) | pmaskIns (d : Fin 8) (a : GSrc) (k : Fin 4)
  | pmaskGet (d : GDst) (a : Fin 8) (k : Fin 4)
  | slack (n : BitVec 4) | send (port : Fin 16) (a b c : GSrc) | recv (d : GDst) (port : Fin 16)
  | trapi (code : BitVec 15) (pr : Pred) | csrr (d : GDst) (csr : BitVec 12) (pr : Pred)
  | csrw (a : GSrc) (csr : BitVec 12) (pr : Pred)
  -- A slots (R178 to R197)
  | hoff (x : HArith) | hnarRights (x : HArith) | hnarLow (x : HArith) | hnarHigh (x : HArith)
  | hget (f : HField) (d : GDst) (a : Fin 16) (pr : Pred)
  | ld (x : ALd) | st (x : ASt) | ldh (x : ALdh) | sth (x : ASth)
  | vld (x : AVld) | vst (x : AVst) | vlds (x : AVld) | vsts (x : AVst) | vgth (x : AGth) | vsct (x : ASct)
  | atomAdd (x : AAtom) | atomMin (x : AAtom) | atomMax (x : AAtom) | atomAnd (x : AAtom) | atomOr (x : AAtom)
  | atomXor (x : AAtom) | atomXchg (x : AAtom) | atomCas (x : AAtom)
  | fence (mask : BitVec 16) (scope : Scope) (pr : Pred) | probe (x : AProbe) | probeMissTarget (x : AProbe) (disp : BitVec 12)
  | sbind (x : ASbind) | sflush (k : Option (Fin 8)) (unb : Bool) (tok : Fin 8) | ldres (x : ALdres) | ldresW (x : ALdres)
  -- V slots (R206 to R225)
  | vadd (x : VBin) | vsub (x : VBin) | vmul (x : VBin) | vfma (x : VTri) | vfms (x : VTri) | vmin (x : VBin) | vmax (x : VBin)
  | vabs (x : VUn) | vneg (x : VUn) | vand (x : VBin) | vor (x : VBin) | vxor (x : VBin) | vshl (x : VBin) | vshr (x : VBin)
  | vsar (x : VBin) | vcmp (x : VCmpW) | vsel (x : VSelW) | vmov (x : VUn) | vbcast (x : VBcastW) | vext (x : VExtW)
  | vins (x : VInsW) | vcvt (x : VCvtW) | vrint (x : VUn) | vdot (x : VTri) | vclmul (x : VClmulW)
  | vrcp (x : VUn) | vrsq (x : VUn) | vexp2 (x : VUn) | vlog2 (x : VUn) | vtanh (x : VUn) | vsigm (x : VUn)
  | vred (x : VRedW) | vscan (x : VScanW) | vcmpr (x : VCmprW) | vexpd (x : VUn) | vperm (x : VBin) | vshuf (x : VShufW)
  | vdxp (x : VDxpW) | vdxpScale (x : VDxpW) | vdxu (x : VDxuW) | vpcnt (x : VUn)
  -- M slot (R234 to R242)
  | mma (x : MMmaW) | mmas (x : MMmasW) | sparseMask (e : Nat) | mmdx (x : MMdxW) | planeSetLands (e : Nat) (ps : Bool)
  | msca (x : MMscaW) | mzero (d : Fin 8) (pr : Pred) | mdrain (x : MMdrainW) | longDrainRowPerforms (e : Nat)
  | mldacc (x : MMoveW) | mstacc (x : MMoveW) | mstat (d : GDst) (acc : Fin 8) (clr : Bool) (pr : Pred)
  -- X slot (R251 to R266)
  | xtrn (x : XPermW) | xprm (x : XPermW) | permuteJobLands (e : Nat)
  | rowz (x : XBopW) | rowcp (x : XBopW) | rowxf (x : XBopW) | badd (x : XBopW) | bmax (x : XBopW) | bmin (x : XBopW)
  | baxpy (x : XBopW) | bcnt (x : XBopW) | bankCommandPerforms (id : Nat) | xbfen (x : XBfenW) | xbfenComplete (id : Nat)
  | xbar (n : Fin 16) | barrierComplete (g : Nat) | xevt (a b : GSrc) (pr : Pred) | xevpPoll (x : XEvpW) | xevpWait (x : XEvpW)
  | xtokSet (tok : Fin 8) (a : GSrc) (pr : Pred) | xtokAdd (tok : Fin 8) (a : GSrc) (pr : Pred)
  | xcway (n : Fin 9) (a : GSrc) (tok : Fin 8) (pr : Pred) | xinv (x : XRangeW) | xwb (x : XRangeW) | xpref (x : XRangeW)
  | xcomet (x : XCometW)
  -- X slot, sequencer only (R268 to R276)
  | qdld (d : GDst) (a : GSrc) (k : BitVec 6) (tok : Fin 8) (pr : Pred)
  | qdldHandle (d : Fin 16) (a : GSrc) (k : BitVec 6) (tok : Fin 8) (pr : Pred)
  | qdst (a b : GSrc) (k : BitVec 6) (pr : Pred) | qdstHandle (a : GSrc) (h : Fin 16) (k : BitVec 6) (pr : Pred)
  | qdimRd (d : GDst) (z : Fin 64) (pr : Pred) | qdimTiles (d : GDst) (z : Fin 64) (b : GSrc) (pr : Pred)
  | qdimWr (z : Fin 64) (a : GSrc) (pr : Pred)
  | ralc (d : GDst) (a b : GSrc) (clu : Fin 16) (tok : Fin 8) (pr : Pred) | rfre (a : GSrc) (clu : Fin 16) (tok : Fin 8) (pr : Pred)
  | gang (cls : BitVec 4) (d : GDst) (h : Fin 16) (b : GSrc) (tok : Fin 8) (pr : Pred) | gangListed (id : Nat)
  | hscbReader (a b : GSrc) (pr : Pred) | hscbWriter (a b : GSrc) (pr : Pred)
  | hwaitRd (a : GSrc) (tok : Fin 8) (pr : Pred) | hwaitWr (a : GSrc) (tok : Fin 8) (pr : Pred) | hwaitComplete (id : Nat)
  | bcnx (d : GDst) (k : BitVec 4) (tok : Fin 8) (pr : Pred) | bcnxJmp (a : GSrc) (pr : Pred)
  | utrap (detail : BitVec 12) (a b c : GSrc) (pr : Pred)
  | qyldEnd (pr : Pred) | qyldYield (pr : Pred) | qyldRepeat (pr : Pred)
  | hmint (d : Fin 16) (a : Fin 32) (tok : Fin 8) (pr : Pred) | otinv (a : GSrc) (tok : Fin 8) (pr : Pred)
  | qctxKeep | qctxDrop
  -- graph code: control, shape and descriptor instructions (R282)
  | graphNop | halt (e : BitVec 16) | graphJmp (d : BitVec 16) | jif (c : GCond) (d : BitVec 16) (a b : GVal)
  | loopb (skip : BitVec 16) (n : GVal) (idx : Option (Fin 64)) | loope | callg (d : BitVec 16) | retg | yield
  | signal (w : Desc) (n : GVal) | waite (w : Desc) (n : GVal) | shld (z : Fin 64) (d : Desc) (k : GVal)
  | shop (op : ShOp) (z : Fin 64) (a b : GVal) | shrd (f : Fin 4) (z : Fin 64) (d : Desc) (j : GVal)
  | tdef (d : Desc) (x : Attr) | tview (dst src : Desc) (offs : List GVal) | tsetd (pack : Bool) (d : Desc) (es : List GVal)
  | talloc (tier : Tier) (d : Desc) | tfree (d : Desc) | tpin (pin : Bool) (d : Desc) (p u : GVal)
  | tres (wait : Bool) (z : Fin 64) (n : GVal)
  -- graph code: operators (R301)
  | fuse (elide : Bool) (n : BitVec 16) | copy (dst src : Desc) | convert (rm : RMode) (sat : Bool) (dst src : Desc) (seed : GVal)
  | permute (dst src : Desc) (x : Attr) | matmul (acc : Bool) (rm : RMode) (c a b : Desc) | attn (x : AttnW)
  | softmax (axis : BitVec 3) (dst src : Desc) | norm (x : NormW) | eltw (sat : Bool) (op : EltOp) (dst a : Desc) (b : EltB)
  | reduce (op : RedOp) (keep : Bool) (mask : BitVec 8) (dst src : Desc)
  | gather (zero : Bool) (axis : BitVec 3) (dst data index : Desc)
  | scatter (mode : ScatMode) (skip : Bool) (axis : BitVec 3) (dst index update : Desc)
  | routeDispatch (y x e cnt : Desc) | routeCombine (x y e w : Desc)
  | topk (small : Bool) (k : BitVec 16) (values indices src : Desc) | fft (inv norm : Bool) (dst src : Desc)
  | allreduce (x : CollW) | reducescatter (x : CollW) | allgather (x : CollW) | alltoall (x : CollW) | broadcast (x : CollW)
  | reshard (dst src : Desc)
  -- results, visibility, engines (R139, R177, R94, R85, R196, R78, R80)
  | resultCommit (e : Nat) (sec : Bool) | tokenResultLands (id : Nat) (ph : LandPhase) | writeVisible (id : Nat) (dev : Bool)
  | streamFetch (e : Nat) (k : Fin 8) | sflushComplete (e : Nat) (i : Nat) | fillComplete (clu : Nat) (i : Nat)
  | cqgo (cls : BitVec 4) (x : Word) | copyJobStart (id : Nat) | copyRowLands (id : Nat) (n : Nat)
  | serviceRequestTaken (ctx : Nat) (port : Fin 16) | serviceReply (g : Nat) (member : Nat) (sec : Bool) (port : Fin 16) (v : Word)
  -- tasks, gangs and contexts (R15 to R30, R377, R390 to R392, R419)
  | taskEnd (e : Nat) | gangAdmission (g : Nat) | cohortAdmission (g : Nat) | gangRetire (g : Nat)
  | preemptionRequest (g : Nat) | taskSave (e : Nat) | preemptionOverdue (g : Nat) | gangRestore (g : Nat)
  | taskPark (e : Nat) | parkedAccessPerforms (id : Nat) | parkedTaskRestore (g : Nat) (member : Nat)
  | contextDispatch (q : Fin 4) | contextSwitch (q : Fin 4) | contextWake (c : Nat) | contextStopped (c : Nat)
  -- comets and collectives (R332 to R349)
  | cometPost (id : Nat) | cometArrival (c : CometSrc) | switchMulticast (k : Nat) | collectiveComplete (i : Nat)
  | collectiveTimeout (i : Nat) | slotRelease (plane slot : Nat)
  -- memory and Orrery (R87, R88, R398 to R426)
  | scrub (clu granule : Nat) | l2Prefetcher (clu : Nat) | remoteDecay (p : Fin 4) | otsync (p : Fin 4) (ctx : BitVec 10)
  | fetch (p : Fin 4) | evict (p : Fin 4) | move (p : Fin 4) | demandFetch (p : Fin 4) | migrationLineCopy (p : Fin 4)
  | waitHintRetry (id : Nat) | yoYoRetry (id : Nat) | trapRecordWrite (p : Fin 4) | errorDetected (x : ErrorW) | patrol (x : ErrorW)
  | pageRetirement (p : Fin 4) (fg : Nat)
  -- submission (R357, R378 to R385)
  | serviceThreadWake (t : Nat) | submit (q : Fin 64) (dmwr : Bool) (rec : List Word) | go (q : Fin 64) | qresetSkip (q : Fin 64)
  | qresetDiscard (q : Fin 64) | ncons (q : Fin 64) (v : Word) | launch (q : Fin 64) | feed (q : Fin 64) | signalRecord (q : Fin 64)
  | cancel (q : Fin 64)
  -- privileged writes, microcode (R361, R373, R375, R327, R328)
  | ctximg (c : Nat) (v : Word) | partcfg (m : Master) (v : Word) | privilegedRegisterWrite (m : Master) (addr : Nat) (v : Word)
  | microcodePatch (p : Fin 4) (x : Patch) | patchAdoption (q : Fin 4) | xopRegister (p : Fin 4) (opc : BitVec 8) (nwmask : BitVec 16) (image : List (List Word))
  -- host, peers and links (R434 to R444)
  | inboundRequest (p : InPath) (op : InOp) | completionTimeout (id : Nat) | replayLimit (k : Fin 18) | trainEnd (k : Fin 18) (r : TrainResult)
  | connectionFailure (e : Fin 8)
  -- boot, firmware and management (R450 to R462)
  | mainSideReset | bootStage2 | bootStage3 | bootStage4 | powerLoss | requestUpdate | firmwareData (off : Nat) (bs : List Byte)
  | transferComplete | verifyComplete | applyComplete | activateFirmware (raise : Bool) | wyrst (m : Master) (v : Word)
  | spdmRequest (index : Nat) | getSensorReading (x : Sensor) | imageKeyInstall (i : Fin 8) (key : Option (List Byte))
  | controlCoreAccess (hart : Hart) (addr : Nat) (op : HartOp) | pcieLinkChange (speed : BitVec 4) (width : BitVec 5) (flit : Bool)
  | ethernetLinkChange (e : Fin 8) (up : Bool) | cacheWritebackComplete (id : Nat) | wayLendComplete (id : Nat)
  | debugFrameWrite (clu frame off : Nat) (bs : List Byte) | lifeEstimateUpdate (months : BitVec 16)
  deriving DecidableEq, Repr

end Sys2Proof
end

