-- ==== Sys2Proof/Config.lean ====
section
/-!
DEFINITION. What an implementation fixes and the spec leaves open: the free values. Each is a constant with no
body, so that no proof can see its value. The machine applies `freeWord` to the plain counter `State.free`.
-/
namespace Sys2Proof.Config

/-- Special functions whose f32 value is free within a bound (R216). -/
inductive Special where
  | rcp | rsq | exp2 | log2 | tanh | sigm
  deriving DecidableEq, Repr

/-- A fresh 64-bit free value for each value of the counter. -/
opaque freeWord : Nat → BitVec 64
/-- A fresh 2048-bit free value for each value of the counter. -/
opaque freeVec : Nat → BitVec 2048
/-- The fixed unpublished f32 value of a special function (R216); the machine holds it to the bound of R216. -/
opaque special32 : Special → BitVec 32 → BitVec 32
/-- The bytes of an FFT result before its normalisation, a fixed function of the direction, format and source bytes (R317). -/
opaque fftByte : Bool → ElemType → List (BitVec 8) → Nat → BitVec 8
/-- The granules of the staging region that an operator asks for where the spec gives no size (R325): opcode, largest task count
of a gang on the cluster, footprints of the operands. -/
opaque stageNeed : Nat → Nat → List Nat → Nat
/-- The byte that a target outside the device returns for an access (R432): counter and bus address. -/
opaque extByte : Nat → Nat → BitVec 8
/-- Where the runtime keeps the device's collective table, in units of 64 bytes of shared bank memory (R333). -/
opaque collTable : BitVec 20
/-- SHA3-256 of a byte string (R278, R451 to R454, R460): named by the spec and not described there. -/
opaque sha3 : List (BitVec 8) → BitVec 256
/-- ML-DSA-44 verification of key, digest and signature (R327, R451 to R459). -/
opaque mldsaVerify : List (BitVec 8) → BitVec 256 → List (BitVec 8) → Bool
/-- ML-DSA-44 signature made by the device marker key over a digest (R452). -/
opaque markerSign : BitVec 256 → List (BitVec 8)
/-- The device marker key's public part (R452). -/
opaque markerKey : List (BitVec 8)
/-- The digest of the root key fused into the I/O die (R451). -/
opaque rootDigest : BitVec 256
/-- Bernatik's key for microcode patches (R327). -/
opaque patchKey : List (BitVec 8)
/-- A sensor's reading for each value of the counter (R461). -/
opaque sensor : Sensor → Nat → BitVec 64
/-- A slot's image header (R454): the spec gives what it holds and not where. `bytes` is its length up to the signature. -/
structure SlotHeader where
  magic : BitVec 32
  svn : BitVec 32
  bytes : Nat
  comps : List (Nat × Nat × Nat × BitVec 256)
  sig : List (BitVec 8)
  deriving DecidableEq, Repr, Inhabited

/-- The header that the first bytes of a slot hold: components as (type, offset, length, digest) (R454). -/
opaque slotHeader : List (BitVec 8) → SlotHeader
/-- ML-DSA-44 signature made by the device identity key (R460). -/
opaque identitySign : BitVec 256 → List (BitVec 8)
/-- The measurement of the boot ROM (R460, index 1). -/
opaque bootRom : BitVec 256

end Sys2Proof.Config
end

