-- ==== Sys2Proof/WellFormed.lean ====
section
/-!
DEFINITION. Which instruction terms are well formed: the conditions of R147 that concern the operands of one slot
instruction, each reported by its reason code, and the encodable range of graph-code terms (R280 to R282, R301).
-/
namespace Sys2Proof

/-- The kinds of bundle (R131, R149): primary or secondary of a compute core, or a sequencer's. -/
inductive Kind where
  | prim | sec | seq
  deriving DecidableEq, Repr

namespace ElemType

/-- Type code (R33). -/
def code : ElemType → Nat
  | i8 => 0 | i16 => 1 | i32 => 2 | i64 => 3 | n8 => 4 | n16 => 5 | n32 => 6 | n64 => 7
  | f8e4 => 8 | f8e5 => 9 | f16 => 10 | bf16 => 11 | f32 => 12 | f64 => 13 | dx8 => 14 | dx4 => 15

/-- w(t) in bits (R33). -/
def width : ElemType → Nat
  | i8 | n8 | f8e4 | f8e5 | dx8 => 8
  | i16 | n16 | f16 | bf16 => 16
  | i32 | n32 | f32 => 32
  | i64 | n64 | f64 => 64
  | dx4 => 4

/-- N(t), the number of elements in a vector (R7). -/
def lanes (t : ElemType) : Nat := 2048 / t.width

/-- The integer types I (R204). -/
def isInt : ElemType → Bool
  | i8 | i16 | i32 | i64 | n8 | n16 | n32 | n64 => true
  | f8e4 | f8e5 | f16 | bf16 | f32 | f64 | dx8 | dx4 => false

/-- The signed integer types. -/
def isSigned : ElemType → Bool
  | i8 | i16 | i32 | i64 => true
  | n8 | n16 | n32 | n64 | f8e4 | f8e5 | f16 | bf16 | f32 | f64 | dx8 | dx4 => false

/-- The float types F (R204). -/
def isF : ElemType → Bool
  | f16 | bf16 | f32 | f64 => true
  | i8 | i16 | i32 | i64 | n8 | n16 | n32 | n64 | f8e4 | f8e5 | dx8 | dx4 => false

/-- The float types F8 (R204). -/
def isF8 : ElemType → Bool
  | f8e4 | f8e5 => true
  | i8 | i16 | i32 | i64 | n8 | n16 | n32 | n64 | f16 | bf16 | f32 | f64 | dx8 | dx4 => false

/-- The dual-exponent types (R39). -/
def isDx : ElemType → Bool
  | dx8 | dx4 => true
  | i8 | i16 | i32 | i64 | n8 | n16 | n32 | n64 | f16 | bf16 | f32 | f64 | f8e4 | f8e5 => false

/-- The types of the special functions (R205). -/
def isSpec : ElemType → Bool
  | f16 | bf16 | f32 => true
  | i8 | i16 | i32 | i64 | n8 | n16 | n32 | n64 | f8e4 | f8e5 | f64 | dx8 | dx4 => false

/-- Targets that permit SR (R44). -/
def srOk : ElemType → Bool
  | f16 | bf16 | f8e4 | f8e5 | dx8 | dx4 => true
  | i8 | i16 | i32 | i64 | n8 | n16 | n32 | n64 | f32 | f64 => false

end ElemType

/-- One reason code unless the condition holds. -/
def need (c : Bool) (reason : Nat) : List Nat := if c then [] else [reason]

/-- R137: a constant-table entry is legal in type t. -/
def constOk (t : ElemType) (k : Fin 64) : Bool :=
  !t.isDx && !(t.isInt && 56 ≤ k.val) && !(t == .i8 && k.val == 55)

/-- R135 for a g source read as t: the secondary stream has g0 to g15 and q0 to q7. -/
def GSrc.reasons (k : Kind) (t : ElemType) : GSrc → List Nat
  | .reg n => need (k != .sec || n.val < 16) 6
  | .que n => need (k != .sec || n.val < 8) 6
  | .const e => need (constOk t e) 14
  | .li _ | .lc | .pcb | .long _ => []

/-- R135 for a v source read as t. -/
def VSrc.reasons (t : ElemType) : VSrc → List Nat
  | .const e => need (constOk t e) 14
  | .reg _ | .que _ | .strm _ | .long _ => []

/-- R136 for a g destination. -/
def GDst.reasons (k : Kind) : GDst → List Nat
  | .reg n => need (k != .sec || n.val < 16) 6
  | .que => []

/-- R136: a v destination without write streams (R185). -/
def VDst.noStrm : VDst → List Nat
  | .strm _ => [6]
  | .reg _ | .que => []

/-- R134: no predicate in a secondary bundle. -/
def Pred.reasons (k : Kind) : Pred → List Nat
  | .always => []
  | .on _ _ => need (k != .sec) 13

/-- R174, R249: the secondary stream has w0 to w3. -/
def tokReasons (k : Kind) (tok : Fin 8) : List Nat := need (k != .sec || tok.val < 4) 6

/-- R198, R250, R267: the form exists for the bundle's kind. -/
def avail (k : Kind) (p s q : Bool) : List Nat :=
  need (match k with | .prim => p | .sec => s | .seq => q) 11

/-- R44, R199: a rounding code on an operation that rounds; SR only where `sr`. -/
def rmReasons (rounds sr : Bool) (m : RMode) : List Nat :=
  if rounds then need (m != .sr || sr) 15 else need (m == .rne) 5

/-- R92: the annotation is accepted and no annotation has scope code 0. -/
def annReasons (aq rl : Bool) (a : Ann) (s : Scope) : List Nat :=
  (match a with
    | .plain => need (s == .stream) 5
    | .aq => need aq 5
    | .rl => need rl 5
    | .ar => need (aq && rl) 5)

def SBin.reasons (k : Kind) (satOk : Bool) (tb : Option ElemType) (x : SBin) : List Nat :=
  need x.t.isInt 5 ++ need (satOk || !x.sat) 5 ++ x.d.reasons k ++ x.a.reasons k x.t ++ x.b.reasons k (tb.getD x.t)
    ++ x.pr.reasons k

def SUn.reasons (k : Kind) (x : SUn) : List Nat :=
  need x.t.isInt 5 ++ x.d.reasons k ++ x.a.reasons k x.t ++ x.pr.reasons k

def bfOk (t : ElemType) (pos len1 : BitVec 6) : List Nat := need (pos.toNat + len1.toNat + 1 ≤ t.width) 5

def HArith.reasons (k : Kind) (x : HArith) : List Nat := x.b.reasons k .i64 ++ x.pr.reasons k

def AVld.reasons (k : Kind) (scl0 : Bool) (x : AVld) : List Nat :=
  avail k true false false ++ need (x.t != .dx4) 5 ++ x.d.noStrm ++ x.b.reasons k .i64
    ++ need (!scl0 || x.scl == 0) 6 ++ tokReasons k x.tok ++ x.pr.reasons k

def AVst.reasons (k : Kind) (scl0 : Bool) (x : AVst) : List Nat :=
  avail k true false false ++ need (x.t != .dx4) 5 ++ x.b.reasons k .i64 ++ x.c.reasons x.t
    ++ need (!scl0 || x.scl == 0) 6 ++ x.pr.reasons k

/-- The signed type of width w(t), in which a gather's index is read (R186). -/
def ElemType.index : ElemType → ElemType
  | i8 | n8 | f8e4 | f8e5 | dx8 | dx4 => .i8
  | i16 | n16 | f16 | bf16 => .i16
  | i32 | n32 | f32 => .i32
  | i64 | n64 | f64 => .i64

/-- The unsigned type of width w(t) (R208, R222). -/
def ElemType.unsignedOf : ElemType → ElemType
  | i8 | n8 | f8e4 | f8e5 | dx8 | dx4 => .n8
  | i16 | n16 | f16 | bf16 => .n16
  | i32 | n32 | f32 => .n32
  | i64 | n64 | f64 => .n64

/-- R188, R92. -/
def AAtom.reasons (k : Kind) (f32Ok : Bool) (x : AAtom) : List Nat :=
  need (match x.t with | .i32 | .n32 | .i64 | .n64 => true | .f32 => f32Ok | _ => false) 5
    ++ annReasons true true x.ann x.scope ++ x.d.reasons k ++ x.c.reasons k x.t ++ tokReasons k x.tok ++ x.pr.reasons k

def vAvail (k : Kind) : List Nat := avail k true false false

/-- Arithmetic of R205 on I and F. -/
def VBin.arith (k : Kind) (x : VBin) : List Nat :=
  vAvail k ++ need (x.t.isInt || x.t.isF) 5 ++ rmReasons x.t.isF false x.rm ++ x.a.reasons x.t ++ x.b.reasons x.t
    ++ x.pr.reasons k

/-- Two-source operations that do not round, on the types `ok`, with B read as `tb`. -/
def VBin.plain (k : Kind) (ok satOk : Bool) (tb : ElemType) (x : VBin) : List Nat :=
  vAvail k ++ need ok 5 ++ need (x.rm == .rne) 5 ++ need (satOk || !x.sat) 5 ++ x.a.reasons x.t ++ x.b.reasons tb
    ++ x.pr.reasons k

def VTri.fused (k : Kind) (x : VTri) : List Nat :=
  vAvail k ++ need x.t.isF 5 ++ rmReasons true false x.rm ++ x.a.reasons x.t ++ x.b.reasons x.t ++ x.c.reasons x.t
    ++ x.pr.reasons k

/-- The accumulator type and group size of VDOT (R214). -/
def dotAcc : ElemType → Option (ElemType × Nat)
  | .i8 => some (.i32, 4) | .n8 => some (.n32, 4) | .i16 => some (.i32, 2)
  | .f8e4 | .f8e5 => some (.f32, 4) | .f16 | .bf16 => some (.f32, 2)
  | _ => none

def VTri.dot (k : Kind) (x : VTri) : List Nat :=
  vAvail k ++ (match dotAcc x.t with
    | some (ta, _) => rmReasons (!x.t.isInt) false x.rm ++ x.c.reasons ta
    | none => [5])
    ++ x.a.reasons x.t ++ x.b.reasons x.t ++ x.pr.reasons k

def VUn.reasons (k : Kind) (ok rounds satOk : Bool) (x : VUn) : List Nat :=
  vAvail k ++ need ok 5 ++ rmReasons rounds false x.rm ++ need (satOk || !x.sat) 5 ++ x.a.reasons x.t ++ x.pr.reasons k

/-- Types of VCVT (R212). -/
def ElemType.cvtOk (t : ElemType) : Bool := t.isInt || t.isF || t.isF8

def VCvtW.reasons (k : Kind) (x : VCvtW) : List Nat :=
  vAvail k ++ need (x.t.cvtOk && x.s.cvtOk && x.t != x.s) 5
    ++ need (x.part.toNat < max x.t.width x.s.width / min x.t.width x.s.width) 5
    ++ (if x.t.isInt && x.s.isInt then need (x.rm == .rne) 5 else rmReasons true x.t.srOk x.rm)
    ++ x.a.reasons x.s
    ++ (match x.c with
        | some c => need (decide (x.t.width < x.s.width)) 6 ++ c.reasons x.t
        | none => need (!decide (x.t.width < x.s.width)) 6)
    ++ x.pr.reasons k

/-- CLS rule of VRED and VSCAN (R218). -/
def redReasons (op : RedOp) (t : ElemType) (rm : RMode) (sat : Bool) : List Nat :=
  match op with
  | .add => rmReasons t.isF false rm
  | .max | .min => need (rm == .rne && !sat) 5

def VRedW.reasons (k : Kind) (x : VRedW) : List Nat :=
  vAvail k ++ need (x.t.isInt || x.t.isF || (x.t.isF8 && x.op != .add)) 5 ++ redReasons x.op x.t x.rm x.sat
    ++ x.a.reasons x.t ++ x.pr.reasons k

def VScanW.reasons (k : Kind) (x : VScanW) : List Nat :=
  vAvail k ++ need (x.t.isInt || x.t.isF) 5 ++ redReasons x.op x.t x.rm x.sat ++ x.a.reasons x.t ++ x.pr.reasons k

def VCond.typeOk (t : ElemType) : VCond → Bool
  | .eq | .ne | .lt | .le | .gt | .ge => t.isInt || t.isF
  | .tst | .ntst => t.isInt
  | .un | .ord => t.isF

def ShufPat.usesK : ShufPat → Bool
  | .rot | .splat => true
  | .ziplo | .ziphi | .uzpev | .uzpod | .rev => false

def ShufPat.usesB : ShufPat → Bool
  | .rev | .splat => false
  | .ziplo | .ziphi | .uzpev | .uzpod | .rot => true

def VShufW.reasons (k : Kind) (x : VShufW) : List Nat :=
  vAvail k ++ need (x.t != .dx4) 5 ++ need (if x.pat.usesK then x.k.toNat < x.t.lanes else x.k == 0) 5
    ++ x.a.reasons x.t
    ++ (match x.b with | some b => need x.pat.usesB 6 ++ b.reasons x.t | none => need (!x.pat.usesB) 6)
    ++ x.pr.reasons k

def VDxpW.reasons (k : Kind) (scale : Bool) (x : VDxpW) : List Nat :=
  vAvail k ++ need (x.t.isDx && x.s.isSpec) 5
    ++ need (if scale then x.part.toNat < 128 / (x.s.lanes / 32) else x.part.toNat < x.s.width / x.t.width) 5
    ++ x.a.reasons x.s ++ x.c.reasons (if scale then .n16 else x.t)

def VDxuW.reasons (k : Kind) (x : VDxuW) : List Nat :=
  vAvail k ++ need (x.t.isSpec && x.s.isDx) 5 ++ need (x.part.toNat < x.t.width / x.s.width) 5
    ++ rmReasons true x.t.srOk x.rm ++ x.a.reasons x.s ++ x.b.reasons .n16

/-- MDRAIN conversions (R240). -/
def MMdrainW.reasons (k : Kind) (x : MMdrainW) : List Nat :=
  vAvail k
    ++ (match x.kind, x.out with
      | .f32, .f32 | .i32, .i32 => need (x.rm == .rne && !x.sat) 5
      | .f32, .bf16 | .f32, .f16 | .f32, .f8e4 | .f32, .f8e5 => []
      | .i32, .i16 | .i32, .i8 => need (x.rm == .rne) 5
      | .i32, .f32 => need (!x.sat) 5 ++ rmReasons true false x.rm
      | .f64, .f64 => need (x.rm == .rne && !x.sat) 5 ++ need (x.d.val % 2 == 0) 5
      | .f64, .f32 => rmReasons true false x.rm ++ need (x.d.val % 2 == 0) 5
      | _, _ => [5])
    ++ x.c.reasons k .n64 ++ x.pr.reasons k

def MMoveW.reasons (k : Kind) (x : MMoveW) : List Nat := vAvail k ++ x.c.reasons k .n64 ++ x.pr.reasons k

/-- A C operand without a read port (R229). -/
def VSrc.noReg : VSrc → List Nat
  | .reg _ | .long _ => [6]
  | .que _ | .strm _ | .const _ => []

/-- R253: legal command and bank-type pairs. -/
def bankTypeOk (op : Nat) : BankType → Bool
  | .f32 => op ≤ 6
  | .i32 => 3 ≤ op && op ≤ 5
  | .f16 | .bf16 => 3 ≤ op && op ≤ 6
  | .dxw => op == 3
  | .n64 => op == 7

/-- XBOP (R250, R253); `op` is the command code. -/
def XBopW.reasons (k : Kind) (op : Nat) (x : XBopW) : List Nat :=
  avail k true true false ++ need (bankTypeOk op x.bt) 5 ++ need (op != 0 || x.c.val == 0) 6
    ++ need (op == 7 || x.tok.val == 0) 6 ++ tokReasons k x.tok ++ x.b.reasons k .n64 ++ x.pr.reasons k

def XPermW.reasons (k : Kind) (trn : Bool) (x : XPermW) : List Nat :=
  avail k true true false ++ need (!trn || x.order.val == 0) 6 ++ tokReasons k x.tok ++ x.b.reasons k .n64
    ++ x.c.reasons k .n64 ++ x.pr.reasons k

/-- A cluster operand: used on a sequencer only (R250). -/
def cluOperand (k : Kind) (a : GSrc) : List Nat :=
  if k = .seq then a.reasons k .n64 else need (a == .reg 0) 6

def XRangeW.reasons (k : Kind) (hasTok : Bool) (x : XRangeW) : List Nat :=
  tokReasons k x.tok ++ need (hasTok || x.tok.val == 0) 6 ++ x.b.reasons k .i64 ++ x.c.reasons k .n64 ++ x.pr.reasons k

def XEvpW.reasons (k : Kind) (x : XEvpW) : List Nat :=
  need (x.kinds != 0) 5 ++ cluOperand k x.a ++ tokReasons k x.tok ++ x.pr.reasons k

def qOnly (k : Kind) : List Nat := avail k false false true

/-- R170: which CSR numbers a stream may read. -/
def csrReadOk (k : Kind) (n : Nat) : Bool :=
  match k with
  | .prim => n ≤ 4 || (8 ≤ n && n ≤ 10) || n == 12 || n == 13 || (16 ≤ n && n ≤ 23)
  | .sec => n ≤ 3 || (8 ≤ n && n ≤ 10) || n == 12 || n == 13 || (16 ≤ n && n ≤ 19)
  | .seq => n ≤ 4 || (8 ≤ n && n ≤ 10) || n == 12 || n == 13 || (16 ≤ n && n ≤ 23) || n == 32 || n == 33

/-- R170: which CSR numbers a stream may write. -/
def csrWriteOk (k : Kind) (n : Nat) : Bool := n ≤ 2 || (k == .seq && (n == 32 || n == 33))

/-- A value operand names what its word can hold; every value does. -/
def sbinI (k : Kind) (x : SBin) : List Nat := x.reasons k false none

/-- The reasons of R147 that a slot instruction's operands give in a bundle of kind k; empty when it is legal there.
Terms that are not slot instructions have none. -/
def Instr.reasons (k : Kind) : Instr → List Nat
  | .add x | .sub x | .mul x | .div x => x.reasons k true none
  | .mulh x | .rem x | .and x | .or x | .xor x | .andn x | .min x | .max x => sbinI k x
  | .shl x => x.reasons k true (some .n64)
  | .shr x | .sar x => x.reasons k false (some .n64)
  | .clz x | .popc x | .mov x => x.reasons k
  | .cmp x => need x.t.isInt 5 ++ x.d.reasons k ++ x.a.reasons k x.t ++ x.b.reasons k x.t ++ x.pr.reasons k
  | .sel x => need x.t.isInt 5 ++ x.d.reasons k ++ x.a.reasons k x.t ++ x.b.reasons k x.t ++ x.c.reasons k x.t ++ x.pr.reasons k
  | .bfx x => need x.t.isInt 5 ++ bfOk x.t x.pos x.len1 ++ x.d.reasons k ++ x.a.reasons k x.t ++ x.pr.reasons k
  | .bfi x => need x.t.isInt 5 ++ bfOk x.t x.pos x.len1 ++ x.d.reasons k ++ x.a.reasons k x.t ++ x.b.reasons k x.t ++ x.pr.reasons k
  | .br _ pr => pr.reasons k
  | .brc x => need x.t.isInt 5 ++ x.a.reasons k x.t ++ x.b.reasons k x.t ++ x.pr.reasons k
  | .jmp a pr => a.reasons k .n64 ++ pr.reasons k
  | .callRelative d _ pr => d.reasons k ++ pr.reasons k
  | .callAbsolute d a pr => d.reasons k ++ a.reasons k .n64 ++ pr.reasons k
  | .ret a pr => a.reasons k .n64 ++ pr.reasons k
  | .loop a len => a.reasons k .n64 ++ need (len != 0) 5
  | .loopp a depth len => a.reasons k .n64 ++ need (len != 0 && depth != 0) 5 ++ need (k != .sec) 10
  | .lbrk pr => pr.reasons k
  | .lend => []
  | .pmaskFirst t _ a => need (t != .dx4) 5 ++ a.reasons k .n64 ++ need (k != .sec) 13
  | .pmaskAnd _ | .pmaskOr _ | .pmaskAndn _ | .pmaskXor _ | .pmaskNot _ _ => need (k != .sec) 13
  | .pmaskIns _ a _ => a.reasons k .n64 ++ need (k != .sec) 13
  | .pmaskGet d _ _ => d.reasons k ++ need (k != .sec) 13
  | .slack _ => []
  | .send _ a b c => avail k true true false ++ a.reasons k .n64 ++ b.reasons k .n64 ++ c.reasons k .n64
  | .recv d _ => avail k true true false ++ d.reasons k
  | .trapi _ pr => pr.reasons k
  | .csrr d n pr => need (csrReadOk k n.toNat) 5 ++ d.reasons k ++ pr.reasons k
  | .csrw a n pr => need (csrWriteOk k n.toNat) 5 ++ a.reasons k .n64 ++ pr.reasons k
  | .hoff x | .hnarRights x | .hnarLow x | .hnarHigh x => x.reasons k
  | .hget _ d _ pr => d.reasons k ++ pr.reasons k
  | .ld x => need x.t.isInt 5 ++ annReasons true false x.ann x.scope ++ x.d.reasons k ++ x.b.reasons k .i64
      ++ tokReasons k x.tok ++ x.pr.reasons k
  | .st x => need x.t.isInt 5 ++ annReasons false true x.ann x.scope ++ x.b.reasons k .i64 ++ x.c.reasons k x.t ++ x.pr.reasons k
  | .ldh x => annReasons true false x.ann x.scope ++ x.b.reasons k .i64 ++ tokReasons k x.tok ++ x.pr.reasons k
  | .sth x => annReasons false true x.ann x.scope ++ x.b.reasons k .i64 ++ x.pr.reasons k
  | .vld x => x.reasons k false
  | .vlds x => x.reasons k true
  | .vst x => x.reasons k false
  | .vsts x => x.reasons k true
  | .vgth x => avail k true false false ++ need (x.t != .dx4) 5 ++ x.d.noStrm ++ x.b.reasons x.t.index
      ++ tokReasons k x.tok ++ x.pr.reasons k
  | .vsct x => avail k true false false ++ need (x.t != .dx4) 5 ++ x.b.reasons x.t.index ++ x.c.reasons x.t ++ x.pr.reasons k
  | .atomAdd x | .atomMin x | .atomMax x | .atomXchg x => x.reasons k true ++ x.b.reasons k .i64
  | .atomCas x => x.reasons k true ++ x.b.reasons k x.t
  | .atomAnd x | .atomOr x | .atomXor x => x.reasons k false ++ x.b.reasons k .i64
  | .fence _ _ pr => pr.reasons k
  | .probe x | .probeMissTarget x _ => avail k true true false ++ x.d.reasons k ++ x.b.reasons k .i64 ++ tokReasons k x.tok ++ x.pr.reasons k
  | .sbind x => avail k true false false ++ x.b.reasons k .i64
  | .sflush _ _ tok => avail k true false false ++ tokReasons k tok
  | .ldres x | .ldresW x => avail k true true false ++ x.d.reasons k ++ x.b.reasons k .i64 ++ tokReasons k x.tok ++ x.pr.reasons k
  | .vadd x | .vsub x | .vmul x => x.arith k
  | .vfma x | .vfms x => x.fused k
  | .vmin x | .vmax x => x.plain k (x.t.isInt || x.t.isF) false x.t
  | .vabs x | .vneg x => x.reasons k (x.t.isInt || x.t.isF) false x.t.isInt
  | .vand x | .vor x | .vxor x => x.plain k x.t.isInt false x.t
  | .vshl x => x.plain k x.t.isInt true x.t.unsignedOf
  | .vshr x | .vsar x => x.plain k x.t.isInt false x.t.unsignedOf
  | .vcmp x => vAvail k ++ need (x.c.typeOk x.t) 5 ++ x.a.reasons x.t ++ x.b.reasons x.t ++ x.pr.reasons k
  | .vsel x => vAvail k ++ need (x.t != .dx4) 5 ++ x.a.reasons x.t ++ x.b.reasons x.t
  | .vmov x => x.reasons k (x.t != .dx4) false false
  | .vbcast x => vAvail k ++ need (x.t != .dx4) 5 ++ x.a.reasons k x.t ++ x.pr.reasons k
  | .vext x => vAvail k ++ need (x.t != .dx4) 5 ++ x.d.reasons k ++ x.a.reasons x.t ++ x.b.reasons k .n64
  | .vins x => vAvail k ++ need (x.t != .dx4) 5 ++ x.a.reasons x.t ++ x.b.reasons k .n64 ++ x.c.reasons k x.t
  | .vcvt x => x.reasons k
  | .vrint x => x.reasons k x.t.isF true false
  | .vdot x => x.dot k
  | .vclmul x => vAvail k ++ x.a.reasons .n64 ++ x.b.reasons .n64 ++ x.pr.reasons k
  | .vrcp x | .vexp2 x => x.reasons k x.t.isSpec false true
  | .vrsq x | .vlog2 x | .vtanh x | .vsigm x => x.reasons k x.t.isSpec false false
  | .vred x => x.reasons k
  | .vscan x => x.reasons k
  | .vcmpr x => vAvail k ++ need (x.t != .dx4) 5 ++ x.a.reasons x.t ++ x.c.reasons k ++ x.pr.reasons k
  | .vexpd x => x.reasons k (x.t != .dx4) false false
  | .vperm x => x.plain k (x.t != .dx4) false x.t.unsignedOf
  | .vshuf x => x.reasons k
  | .vdxp x => x.reasons k false
  | .vdxpScale x => x.reasons k true
  | .vdxu x => x.reasons k
  | .vpcnt x => x.reasons k x.t.isInt false false
  | .mma x => vAvail k ++ need (match x.t with | .i8 | .f8e4 | .f8e5 | .f16 | .bf16 | .f32 | .f64 => true | _ => false) 5
      ++ need (!x.bx || x.t.isF8) 5 ++ need (x.t != .f64 || x.d.val % 2 == 0) 5 ++ x.c.reasons k .n64 ++ x.pr.reasons k
  | .mmas x => vAvail k ++ need (match x.t with | .i8 | .f8e4 | .f8e5 => true | _ => false) 5
      ++ need (!x.bx || x.t.isF8) 5 ++ need (x.a != x.d) 5 ++ x.c.reasons k .n64 ++ x.pr.reasons k
  | .mmdx x => vAvail k ++ x.c.reasons k .n64 ++ x.pr.reasons k
  | .msca x => vAvail k ++ x.a.reasons .n16 ++ x.b.reasons .n16 ++ x.c.noReg ++ x.c.reasons .n16 ++ x.pr.reasons k
  | .mzero _ pr => vAvail k ++ pr.reasons k
  | .mdrain x => x.reasons k
  | .mldacc x | .mstacc x => x.reasons k
  | .mstat d _ _ pr => vAvail k ++ d.reasons k ++ pr.reasons k
  | .xtrn x => x.reasons k true
  | .xprm x => x.reasons k false
  | .rowz x => x.reasons k 0
  | .rowcp x => x.reasons k 1
  | .rowxf x => x.reasons k 2
  | .badd x => x.reasons k 3
  | .bmax x => x.reasons k 4
  | .bmin x => x.reasons k 5
  | .baxpy x => x.reasons k 6
  | .bcnt x => x.reasons k 7
  | .xbfen x => avail k true true false ++ x.d.reasons k ++ tokReasons k x.tok ++ x.pr.reasons k
  | .xbar _ => avail k true false false
  | .xevt a b pr => avail k true true false ++ a.reasons k .n64 ++ b.reasons k .n64 ++ pr.reasons k
  | .xevpPoll x | .xevpWait x => x.reasons k
  | .xtokSet tok a pr | .xtokAdd tok a pr => tokReasons k tok ++ a.reasons k .n64 ++ pr.reasons k
  | .xcway _ a tok pr => avail k true false true ++ cluOperand k a ++ tokReasons k tok ++ pr.reasons k
  | .xinv x | .xwb x => x.reasons k true
  | .xpref x => need (x.cls == 0) 5 ++ x.reasons k false
  | .xcomet x => avail k true true false ++ x.c.reasons k .i64 ++ tokReasons k x.tok ++ x.pr.reasons k
  | .qdld d a _ _ pr => qOnly k ++ d.reasons k ++ a.reasons k .n64 ++ pr.reasons k
  | .qdldHandle _ a _ _ pr => qOnly k ++ a.reasons k .n64 ++ pr.reasons k
  | .qdst a b _ pr => qOnly k ++ a.reasons k .n64 ++ b.reasons k .n64 ++ pr.reasons k
  | .qdstHandle a _ _ pr => qOnly k ++ a.reasons k .n64 ++ pr.reasons k
  | .qdimRd d _ pr => qOnly k ++ d.reasons k ++ pr.reasons k
  | .qdimTiles d _ b pr => qOnly k ++ d.reasons k ++ b.reasons k .n64 ++ pr.reasons k
  | .qdimWr _ a pr => qOnly k ++ a.reasons k .n64 ++ pr.reasons k
  | .ralc d a b _ _ pr => qOnly k ++ d.reasons k ++ a.reasons k .n64 ++ b.reasons k .n64 ++ pr.reasons k
  | .rfre a _ _ pr => qOnly k ++ a.reasons k .n64 ++ pr.reasons k
  | .gang _ d _ b _ pr => qOnly k ++ d.reasons k ++ b.reasons k .i64 ++ pr.reasons k
  | .hscbReader a b pr | .hscbWriter a b pr => qOnly k ++ a.reasons k .n64 ++ b.reasons k .n64 ++ pr.reasons k
  | .hwaitRd a _ pr | .hwaitWr a _ pr => qOnly k ++ a.reasons k .n64 ++ pr.reasons k
  | .bcnx d _ _ pr => qOnly k ++ d.reasons k ++ pr.reasons k
  | .bcnxJmp a pr => qOnly k ++ a.reasons k .n64 ++ pr.reasons k
  | .utrap _ a b c pr => qOnly k ++ a.reasons k .n64 ++ b.reasons k .n64 ++ c.reasons k .n64 ++ pr.reasons k
  | .qyldEnd pr | .qyldYield pr | .qyldRepeat pr => qOnly k ++ pr.reasons k
  | .hmint _ a _ pr => qOnly k ++ need (1 ≤ a.val && a.val ≤ 0x1E) 6 ++ pr.reasons k
  | .otinv a _ pr => qOnly k ++ a.reasons k .n64 ++ pr.reasons k
  | .qctxKeep | .qctxDrop => qOnly k
  | _ => []

/-- A 30-bit two's-complement immediate or a shape register always fits its operand word (R280); what graph terms must
obey beyond their types is the operand count and the immediates of R282 and R301. -/
def Instr.graphOk : Instr → Bool
  | .loopb skip _ _ => skip != 0
  | .tview _ _ os => os.length ≤ 8
  | .tsetd _ _ es => es.length ≤ 8
  | .fuse _ n => 2 ≤ n.toNat && n.toNat ≤ 8
  | .shop op _ _ b => op != .mov || b == .imm 0
  | .topk _ k _ _ _ => k != 0
  | .convert rm _ _ _ _ => rm != .dyn
  | .matmul _ rm _ _ _ => rm != .dyn
  | .eltw _ op _ _ b =>
    match op with
    | .add | .sub | .mul | .div | .max | .min => b != .none
    | _ => b == .none
  | _ => true

/-- A term is well formed for a bundle of kind k: no reason of R147, and its graph operands are encodable. -/
def Instr.wf (k : Kind) (i : Instr) : Bool := (i.reasons k).isEmpty && i.graphOk

end Sys2Proof
end

