-- ==== Sys2Proof/Decode.lean ====
section
/-!
DEFINITION. The decoder, total on any words: slot words (R133 to R137, R148, R152, R178 to R197, R205, R230, R250, R267),
bundles with their header (R126 to R132, R145, R147) and graph code (R280 to R282, R301); then the encoder.
-/
namespace Sys2Proof

/-! ### Slot words -/

/-- The fields of a slot word (R133) as numbers. -/
structure Raw where
  op : Nat
  mod : Nat
  cls : Nat
  d : Nat
  a : Nat
  b : Nat
  c : Nat
  pe : Nat
  pn : Nat
  pix : Nat
  imm : Nat
  deriving DecidableEq, Repr

/-- The fields of the slot word w (R133). -/
def Raw.ofNat (w : Nat) : Raw :=
  { op := w / 2 ^ 56 % 256, mod := w / 2 ^ 52 % 16, cls := w / 2 ^ 48 % 16, d := w / 2 ^ 41 % 128, a := w / 2 ^ 34 % 128,
    b := w / 2 ^ 27 % 128, c := w / 2 ^ 20 % 128, pe := w / 2 ^ 19 % 2, pn := w / 2 ^ 18 % 2, pix := w / 2 ^ 15 % 8,
    imm := w % 2 ^ 15 }

/-- The slot word with these fields (R133). -/
def Raw.toNat (r : Raw) : Nat :=
  r.op * 2 ^ 56 + r.mod * 2 ^ 52 + r.cls * 2 ^ 48 + r.d * 2 ^ 41 + r.a * 2 ^ 34 + r.b * 2 ^ 27 + r.c * 2 ^ 20
    + r.pe * 2 ^ 19 + r.pn * 2 ^ 18 + r.pix * 2 ^ 15 + r.imm

/-- The slot spaces of R148. -/
inductive Slot where
  | s | a | v | m | x
  deriving DecidableEq, Repr

/-- The slot space of each of the seven positions (R126). -/
def Slot.ofPos : Nat → Slot
  | 0 => .s | 1 | 2 => .a | 3 | 4 => .v | 5 => .m | _ => .x

/-- Classes of selector fields (R133): unused, g and v sources, g and v destinations, h, p, accumulator, stream number,
first geometry register, a fixed code. -/
inductive FC where
  | z | gs | vs | vsNoReg | gd | vd | h | p | acc | sk | geo | greg
  deriving DecidableEq, Repr

/-- R135, R136, R152, R229: the code is legal for the field's class. -/
def FC.legal : FC → Nat → Bool
  | .z, n => n == 0
  | .gs, n | .vs, n => n ≤ 0x38 || 0x40 ≤ n
  | .vsNoReg, n => (0x20 ≤ n && n ≤ 0x37) || 0x40 ≤ n
  | .gd, n => n ≤ 0x20
  | .vd, n => n ≤ 0x20 || (0x30 ≤ n && n ≤ 0x37)
  | .h, n => n < 16
  | .p, n | .acc, n => n < 8
  | .sk, n => 0x30 ≤ n && n ≤ 0x37
  | .geo, n => n ≤ 0x1C
  | .greg, n => 1 ≤ n && n ≤ 0x1E

/-- The field names the long immediate (R131). -/
def FC.isLong : FC → Nat → Bool
  | .gs, n | .vs, n | .vsNoReg, n => n == 0x38
  | _, _ => false

/-- The field reads the named vector file (R132). -/
def FC.readsV : FC → Nat → Bool
  | .vs, n => n < 32
  | _, _ => false

/-- Pred column (R152). -/
inductive PredRule where
  | yes | no | req
  deriving DecidableEq, Repr

/-- What a slot word reads as: the instruction, the classes of its fields, its predicate rule, and the reasons that the
instruction's term does not show. -/
structure Form where
  ins : Instr
  d : FC := .z
  a : FC := .z
  b : FC := .z
  c : FC := .z
  pred : PredRule := .yes
  errs : List Nat := []
  deriving DecidableEq, Repr

/-! Field readers. Each is total; an illegal code is reported by `FC.legal`. -/

def toFin (n : Nat) (h : 0 < n) (x : Nat) : Fin n := ⟨x % n, Nat.mod_lt _ h⟩
def fin8 (x : Nat) : Fin 8 := toFin 8 (by decide) x
def fin16 (x : Nat) : Fin 16 := toFin 16 (by decide) x
def fin32 (x : Nat) : Fin 32 := toFin 32 (by decide) x
def fin64 (x : Nat) : Fin 64 := toFin 64 (by decide) x

/-- Type code (R33). -/
def tyOf : Nat → ElemType
  | 0 => .i8 | 1 => .i16 | 2 => .i32 | 3 => .i64 | 4 => .n8 | 5 => .n16 | 6 => .n32 | 7 => .n64
  | 8 => .f8e4 | 9 => .f8e5 | 10 => .f16 | 11 => .bf16 | 12 => .f32 | 13 => .f64 | 14 => .dx8 | _ => .dx4

/-- Rounding code (R44); code 7 is reported by `rmErr`. -/
def rmOf : Nat → RMode
  | 0 => .rne | 1 => .rz | 2 => .ru | 3 => .rd | 4 => .rna | 5 => .sr | _ => .dyn

def RMode.code : RMode → Nat
  | .rne => 0 | .rz => 1 | .ru => 2 | .rd => 3 | .rna => 4 | .sr => 5 | .dyn => 6

def rmErr (n : Nat) : List Nat := need (n != 7) 15

/-- g source (R135). -/
def gsOf (n : Nat) (li : Word) : GSrc :=
  if n < 0x20 then .reg (fin32 n)
  else if n < 0x30 then .que (fin16 n)
  else if n < 0x36 then .li ⟨(n - 0x30) % 6, Nat.mod_lt _ (by decide)⟩
  else if n = 0x36 then .lc
  else if n = 0x37 then .pcb
  else if n = 0x38 then .long li
  else .const (fin64 n)

def GSrc.code : GSrc → Nat
  | .reg n => n.val | .que n => 0x20 + n.val | .li k => 0x30 + k.val | .lc => 0x36 | .pcb => 0x37 | .long _ => 0x38
  | .const k => 0x40 + k.val

/-- v source (R135). -/
def vsOf (n : Nat) (li : Word) : VSrc :=
  if n < 0x20 then .reg (fin32 n)
  else if n < 0x30 then .que (fin16 n)
  else if n < 0x38 then .strm (fin8 n)
  else if n = 0x38 then .long li
  else .const (fin64 n)

def VSrc.code : VSrc → Nat
  | .reg n => n.val | .que n => 0x20 + n.val | .strm k => 0x30 + k.val | .long _ => 0x38 | .const k => 0x40 + k.val

/-- g destination (R136). -/
def gdOf (n : Nat) : GDst := if n < 0x20 then .reg (fin32 n) else .que

def GDst.code : GDst → Nat
  | .reg n => n.val | .que => 0x20

/-- v destination (R136). -/
def vdOf (n : Nat) : VDst := if n < 0x20 then .reg (fin32 n) else if n < 0x30 then .que else .strm (fin8 n)

def VDst.code : VDst → Nat
  | .reg n => n.val | .que => 0x20 | .strm k => 0x30 + k.val

/-- Predicate (R134). -/
def prOf (r : Raw) : Pred := if r.pe = 0 then .always else .on (r.pn == 1) (fin8 r.pix)

def annOf : Nat → Ann
  | 0 => .plain | 1 => .aq | 2 => .rl | _ => .ar

def Ann.code : Ann → Nat
  | .plain => 0 | .aq => 1 | .rl => 2 | .ar => 3

def scopeOf : Nat → Scope
  | 0 => .stream | 1 => .core | 2 => .clu | 3 => .dev | 4 => .pod | _ => .sys

def Scope.code : Scope → Nat
  | .stream => 0 | .core => 1 | .clu => 2 | .dev => 3 | .pod => 4 | .sys => 5

def condOf : Nat → Cond
  | 0 => .eq | 1 => .ne | 2 => .lt | 3 => .le | 4 => .gt | 5 => .ge | 6 => .tst | _ => .ntst

def Cond.code : Cond → Nat
  | .eq => 0 | .ne => 1 | .lt => 2 | .le => 3 | .gt => 4 | .ge => 5 | .tst => 6 | .ntst => 7

def vcondOf : Nat → VCond
  | 0 => .eq | 1 => .ne | 2 => .lt | 3 => .le | 4 => .gt | 5 => .ge | 6 => .tst | 7 => .ntst | 8 => .un | _ => .ord

def VCond.code : VCond → Nat
  | .eq => 0 | .ne => 1 | .lt => 2 | .le => 3 | .gt => 4 | .ge => 5 | .tst => 6 | .ntst => 7 | .un => 8 | .ord => 9

def redOf : Nat → RedOp
  | 0 => .add | 1 => .max | _ => .min

def RedOp.code : RedOp → Nat
  | .add => 0 | .max => 1 | .min => 2

def hfieldOf : Nat → HField
  | 0 => .cur | 1 => .low | 2 => .high | 3 => .rights | 4 => .gran | 5 => .oid | 6 => .tag | 7 => .lo64 | _ => .hi64

def HField.code : HField → Nat
  | .cur => 0 | .low => 1 | .high => 2 | .rights => 3 | .gran => 4 | .oid => 5 | .tag => 6 | .lo64 => 7 | .hi64 => 8

def patOf : Nat → ShufPat
  | 0 => .ziplo | 1 => .ziphi | 2 => .uzpev | 3 => .uzpod | 4 => .rot | 5 => .rev | _ => .splat

def ShufPat.code : ShufPat → Nat
  | .ziplo => 0 | .ziphi => 1 | .uzpev => 2 | .uzpod => 3 | .rot => 4 | .rev => 5 | .splat => 6

def drainOf : Nat → DrainKind
  | 0 => .f32 | 1 => .i32 | _ => .f64

def DrainKind.code : DrainKind → Nat
  | .f32 => 0 | .i32 => 1 | .f64 => 2

def btOf : Nat → BankType
  | 0 => .f32 | 1 => .i32 | 2 => .f16 | 3 => .bf16 | 4 => .dxw | _ => .n64

def BankType.code : BankType → Nat
  | .f32 => 0 | .i32 => 1 | .f16 => 2 | .bf16 => 3 | .dxw => 4 | .n64 => 5

/-- The unused part of IMM15 is zero (R133). -/
def zImm (r : Raw) : List Nat := need (r.imm == 0) 6
def zMod (r : Raw) : List Nat := need (r.mod == 0) 5
def zCls (r : Raw) : List Nat := need (r.cls == 0) 5
/-- V and M forms: an IMM15 value that the form does not define (R205, R230). -/
def vImm (r : Raw) : List Nat := need (r.imm == 0) 5

/-- CLS of an arithmetic S form: SAT in bit 48 (R151). -/
def satCls (r : Raw) : List Nat := need (r.cls ≤ 1) 5

def sbinF (mk : SBin → Instr) (r : Raw) (li : Word) : Form :=
  { ins := mk ⟨tyOf r.mod, r.cls % 2 == 1, gdOf r.d, gsOf r.a li, gsOf r.b li, prOf r⟩,
    d := .gd, a := .gs, b := .gs, errs := satCls r ++ zImm r }

def sunF (mk : SUn → Instr) (r : Raw) (li : Word) : Form :=
  { ins := mk ⟨tyOf r.mod, gdOf r.d, gsOf r.a li, prOf r⟩, d := .gd, a := .gs, errs := zCls r ++ zImm r }

def pbinF (mk : PBin → Instr) (r : Raw) : Form :=
  { ins := mk ⟨fin8 r.d, fin8 r.a, fin8 r.b⟩, d := .p, a := .p, b := .p, pred := .no, errs := zCls r ++ zImm r }

/-- PMASK by MOD (R158). -/
def pmaskF (r : Raw) (li : Word) : Option Form :=
  match r.mod with
  | 0 => some { ins := .pmaskFirst (tyOf r.cls) (fin8 r.d) (gsOf r.a li), d := .p, a := .gs, pred := .no, errs := zImm r }
  | 1 => some (pbinF .pmaskAnd r)
  | 2 => some (pbinF .pmaskOr r)
  | 3 => some (pbinF .pmaskAndn r)
  | 4 => some (pbinF .pmaskXor r)
  | 5 => some { ins := .pmaskNot (fin8 r.d) (fin8 r.a), d := .p, a := .p, pred := .no, errs := zCls r ++ zImm r }
  | 6 => some { ins := .pmaskIns (fin8 r.d) (gsOf r.a li) ⟨r.imm % 4, Nat.mod_lt _ (by decide)⟩, d := .p, a := .gs,
                pred := .no, errs := zCls r ++ need (r.imm < 4) 6 }
  | 7 => some { ins := .pmaskGet (gdOf r.d) (fin8 r.a) ⟨r.imm % 4, Nat.mod_lt _ (by decide)⟩, d := .gd, a := .p,
                pred := .no, errs := zCls r ++ need (r.imm < 4) 6 }
  | _ => none

/-- The S slot (R148, R152). -/
def formS (r : Raw) (li : Word) : Option Form :=
  match r.op with
  | 0x01 => some (sbinF .add r li) | 0x02 => some (sbinF .sub r li) | 0x03 => some (sbinF .mul r li)
  | 0x04 => some (sbinF .mulh r li) | 0x05 => some (sbinF .div r li) | 0x06 => some (sbinF .rem r li)
  | 0x07 => some (sbinF .and r li) | 0x08 => some (sbinF .or r li) | 0x09 => some (sbinF .xor r li)
  | 0x0A => some (sbinF .andn r li) | 0x0B => some (sbinF .shl r li) | 0x0C => some (sbinF .shr r li)
  | 0x0D => some (sbinF .sar r li) | 0x0E => some (sunF .clz r li) | 0x0F => some (sunF .popc r li)
  | 0x10 => some (sbinF .min r li) | 0x11 => some (sbinF .max r li)
  | 0x12 => some { ins := .cmp ⟨condOf r.mod, tyOf r.cls, gdOf r.d, gsOf r.a li, gsOf r.b li, prOf r⟩, d := .gd, a := .gs,
                   b := .gs, errs := need (r.mod < 8) 5 ++ zImm r }
  | 0x13 => some { ins := .sel ⟨tyOf r.mod, gdOf r.d, gsOf r.a li, gsOf r.b li, gsOf r.c li, prOf r⟩, d := .gd, a := .gs,
                   b := .gs, c := .gs, errs := zCls r ++ zImm r }
  | 0x14 => some (sunF .mov r li)
  | 0x15 => some { ins := .bfx ⟨tyOf r.mod, gdOf r.d, gsOf r.a li, .ofNat 6 (r.imm / 64), .ofNat 6 r.imm, prOf r⟩, d := .gd,
                   a := .gs, errs := zCls r ++ need (r.imm < 4096) 6 }
  | 0x16 => some { ins := .bfi ⟨tyOf r.mod, gdOf r.d, gsOf r.a li, gsOf r.b li, .ofNat 6 (r.imm / 64), .ofNat 6 r.imm, prOf r⟩,
                   d := .gd, a := .gs, b := .gs, errs := zCls r ++ need (r.imm < 4096) 6 }
  | 0x20 => some { ins := .br (.ofNat 15 r.imm) (prOf r), errs := zMod r ++ zCls r }
  | 0x21 => some { ins := .brc ⟨condOf r.mod, tyOf r.cls, gsOf r.a li, gsOf r.b li, .ofNat 15 r.imm, prOf r⟩, a := .gs, b := .gs,
                   errs := need (r.mod < 8) 5 }
  | 0x22 => some { ins := .jmp (gsOf r.a li) (prOf r), a := .gs, errs := zMod r ++ zCls r ++ zImm r }
  | 0x23 => if r.mod = 0 then
              some { ins := .callRelative (gdOf r.d) (.ofNat 15 r.imm) (prOf r), d := .gd, errs := zCls r }
            else if r.mod = 1 then
              some { ins := .callAbsolute (gdOf r.d) (gsOf r.a li) (prOf r), d := .gd, a := .gs, errs := zCls r ++ zImm r }
            else none
  | 0x24 => some { ins := .ret (gsOf r.a li) (prOf r), a := .gs, errs := zMod r ++ zCls r ++ zImm r }
  | 0x25 => some { ins := .loop (gsOf r.a li) (.ofNat 12 r.imm), a := .gs, pred := .no,
                   errs := zMod r ++ zCls r ++ need (r.imm < 4096) 6 }
  | 0x26 => some { ins := .loopp (gsOf r.a li) (.ofNat 3 (r.imm / 4096)) (.ofNat 12 r.imm), a := .gs, pred := .no,
                   errs := zMod r ++ zCls r }
  | 0x27 => some { ins := .lbrk (prOf r), errs := zMod r ++ zCls r ++ zImm r }
  | 0x28 => pmaskF r li
  | 0x29 => some { ins := .slack (.ofNat 4 r.imm), pred := .no, errs := zMod r ++ zCls r ++ need (r.imm < 16) 6 }
  | 0x2A => some { ins := .send (fin16 r.imm) (gsOf r.a li) (gsOf r.b li) (gsOf r.c li), a := .gs, b := .gs, c := .gs,
                   pred := .no, errs := zMod r ++ zCls r ++ need (r.imm < 16) 6 }
  | 0x2B => some { ins := .recv (gdOf r.d) (fin16 r.imm), d := .gd, pred := .no,
                   errs := zMod r ++ zCls r ++ need (r.imm < 16) 6 }
  | 0x2C => some { ins := .trapi (.ofNat 15 r.imm) (prOf r), errs := zMod r ++ zCls r }
  | 0x2D => some { ins := .csrr (gdOf r.d) (.ofNat 12 r.imm) (prOf r), d := .gd,
                   errs := zMod r ++ zCls r ++ need (r.imm < 4096) 6 }
  | 0x2E => some { ins := .csrw (gsOf r.a li) (.ofNat 12 r.imm) (prOf r), a := .gs,
                   errs := zMod r ++ zCls r ++ need (r.imm < 4096) 6 }
  | _ => none

/-! Layout M of IMM15 (R173). -/

def mAnn (r : Raw) : Nat := r.imm / 2 ^ 13
def mScope (r : Raw) : Nat := r.imm / 2 ^ 10 % 8
def mTok (r : Raw) : Fin 8 := fin8 (r.imm / 2 ^ 7)
def mScl (r : Raw) : BitVec 3 := .ofNat 3 (r.imm / 2 ^ 4)
/-- [3:0] are res0; SCOPE 6 and 7 are reserved (R174). -/
def mErr (r : Raw) : List Nat := need (r.imm % 16 == 0) 6 ++ need (mScope r < 6) 5
/-- No annotation accepted: ANN and SCOPE zero (R92). -/
def mPlain (r : Raw) : List Nat := need (r.imm / 2 ^ 10 == 0) 5 ++ need (r.imm % 16 == 0) 6
def mNoTok (r : Raw) : List Nat := need (r.imm / 2 ^ 7 % 8 == 0) 6

def harithF (mk : HArith → Instr) (r : Raw) (li : Word) : Form :=
  { ins := mk ⟨fin16 r.d, fin16 r.a, gsOf r.b li, prOf r⟩, d := .h, a := .h, b := .gs, errs := zCls r ++ zImm r }

def vldF (mk : AVld → Instr) (r : Raw) (li : Word) : Form :=
  { ins := mk ⟨tyOf r.mod, .ofNat 4 r.cls, vdOf r.d, fin16 r.a, gsOf r.b li, mTok r, mScl r, prOf r⟩,
    d := .vd, a := .h, b := .gs, errs := mPlain r }

def vstF (mk : AVst → Instr) (r : Raw) (li : Word) : Form :=
  { ins := mk ⟨tyOf r.mod, .ofNat 4 r.cls, fin16 r.a, gsOf r.b li, vsOf r.c li, mScl r, prOf r⟩,
    a := .h, b := .gs, c := .vs, errs := mPlain r ++ mNoTok r }

/-- ATOM by MOD (R188). -/
def atomF (r : Raw) (li : Word) : Option Form :=
  let mk : Option (AAtom → Instr) := match r.mod with
    | 0 => some .atomAdd | 1 => some .atomMin | 2 => some .atomMax | 3 => some .atomAnd | 4 => some .atomOr
    | 5 => some .atomXor | 6 => some .atomXchg | 7 => some .atomCas | _ => none
  mk.map fun k =>
    { ins := k ⟨tyOf (r.imm % 16), .ofNat 4 r.cls, gdOf r.d, fin16 r.a, gsOf r.b li, gsOf r.c li, annOf (mAnn r),
        scopeOf (mScope r), mTok r, r.imm / 64 % 2 == 1, prOf r⟩,
      d := .gd, a := .h, b := .gs, c := .gs, errs := need (r.imm / 16 % 4 == 0) 6 ++ need (mScope r < 6) 5 }

def sbindF (r : Raw) (li : Word) : Form :=
  { ins := .sbind ⟨r.mod % 2 == 1, fin8 r.d, fin16 r.a, gsOf r.b li, ⟨r.c % 29, Nat.mod_lt _ (by decide)⟩, .ofNat 4 r.cls⟩,
    d := .sk, a := .h, b := .gs, c := .geo, pred := .no, errs := need (r.mod < 2) 5 ++ need (r.imm / 2 ^ 10 == 0) 5 ++ zImm r }

def sflushF (r : Raw) : Form :=
  { ins := .sflush (if r.mod % 2 = 1 then none else some (fin8 r.d)) (r.mod / 2 % 2 == 1) (mTok r),
    d := if r.mod % 2 = 1 then .z else .sk, pred := .no,
    errs := need (r.mod < 4) 5 ++ zCls r ++ need (r.imm / 2 ^ 10 == 0) 5 ++ need (r.imm % 2 ^ 7 == 0) 6 }

def ldresF (r : Raw) (li : Word) : Option Form :=
  let x : ALdres := ⟨gdOf r.d, fin16 r.a, gsOf r.b li, mTok r, mScl r, prOf r⟩
  if r.mod ≤ 1 then
    some { ins := if r.mod = 0 then .ldres x else .ldresW x, d := .gd, a := .h, b := .gs,
           errs := zCls r ++ need (r.imm % 16 == 0) 6 }
  else none

/-- The A slots (R148, R178 to R197). -/
def formA (r : Raw) (li : Word) : Option Form :=
  match r.op with
  | 0x01 => some { harithF .hoff r li with errs := zMod r ++ zCls r ++ zImm r }
  | 0x02 => match r.mod with
    | 0 => some (harithF .hnarRights r li) | 1 => some (harithF .hnarLow r li) | 2 => some (harithF .hnarHigh r li)
    | _ => none
  | 0x03 => some { ins := .hget (hfieldOf r.mod) (gdOf r.d) (fin16 r.a) (prOf r), d := .gd, a := .h,
                   errs := need (r.mod ≤ 8) 5 ++ zCls r ++ zImm r }
  | 0x04 => some { ins := .ld ⟨tyOf r.mod, .ofNat 4 r.cls, gdOf r.d, fin16 r.a, gsOf r.b li, annOf (mAnn r),
                     scopeOf (mScope r), mTok r, mScl r, prOf r⟩, d := .gd, a := .h, b := .gs, errs := mErr r }
  | 0x05 => some { ins := .st ⟨tyOf r.mod, .ofNat 4 r.cls, fin16 r.a, gsOf r.b li, gsOf r.c li, annOf (mAnn r),
                     scopeOf (mScope r), mScl r, prOf r⟩, a := .h, b := .gs, c := .gs, errs := mErr r ++ mNoTok r }
  | 0x06 => some { ins := .ldh ⟨.ofNat 4 r.cls, fin16 r.d, fin16 r.a, gsOf r.b li, annOf (mAnn r), scopeOf (mScope r), mTok r,
                     mScl r, prOf r⟩, d := .h, a := .h, b := .gs, errs := zMod r ++ mErr r }
  | 0x07 => some { ins := .sth ⟨.ofNat 4 r.cls, fin16 r.a, gsOf r.b li, fin16 r.c, annOf (mAnn r), scopeOf (mScope r),
                     mScl r, prOf r⟩, a := .h, b := .gs, c := .h, errs := zMod r ++ mErr r ++ mNoTok r }
  | 0x08 => some (vldF .vld r li)
  | 0x09 => some (vstF .vst r li)
  | 0x0A => some (vldF .vlds r li)
  | 0x0B => some (vstF .vsts r li)
  | 0x0C => some { ins := .vgth ⟨tyOf r.mod, .ofNat 4 r.cls, vdOf r.d, fin16 r.a, vsOf r.b li, mTok r, mScl r, prOf r⟩,
                   d := .vd, a := .h, b := .vs, errs := mPlain r }
  | 0x0D => some { ins := .vsct ⟨tyOf r.mod, .ofNat 4 r.cls, fin16 r.a, vsOf r.b li, vsOf r.c li, mScl r, prOf r⟩,
                   a := .h, b := .vs, c := .vs, errs := mPlain r ++ mNoTok r }
  | 0x0E => atomF r li
  | 0x0F => some { ins := .fence (.ofNat 16 (r.cls % 2 * 2 ^ 15 + r.imm)) (scopeOf (r.mod % 8)) (prOf r),
                   errs := need (r.mod < 6) 5 ++ need (r.cls ≤ 1) 5 }
  | 0x10 =>
    let x : AProbe := ⟨.ofNat 4 r.cls, gdOf r.d, fin16 r.a, gsOf r.b li, fin8 (r.imm / 4096), prOf r⟩
    if r.mod = 0 then some { ins := .probe x, d := .gd, a := .h, b := .gs, errs := need (r.imm % 4096 == 0) 6 }
    else if r.mod = 1 then some { ins := .probeMissTarget x (.ofNat 12 r.imm), d := .gd, a := .h, b := .gs }
    else none
  | 0x11 => some (sbindF r li)
  | 0x12 => some (sflushF r)
  | 0x13 => ldresF r li
  | _ => none

def clsRm (r : Raw) : RMode := rmOf (r.cls % 8)
def clsSat (r : Raw) : Bool := r.cls / 8 == 1

def vbinF (mk : VBin → Instr) (r : Raw) (li : Word) : Form :=
  { ins := mk ⟨tyOf r.mod, clsRm r, clsSat r, vdOf r.d, vsOf r.a li, vsOf r.b li, prOf r⟩,
    d := .vd, a := .vs, b := .vs, errs := rmErr (r.cls % 8) ++ vImm r }

def vtriF (mk : VTri → Instr) (r : Raw) (li : Word) : Form :=
  { ins := mk ⟨tyOf r.mod, clsRm r, clsSat r, vdOf r.d, vsOf r.a li, vsOf r.b li, vsOf r.c li, prOf r⟩,
    d := .vd, a := .vs, b := .vs, c := .vs, errs := rmErr (r.cls % 8) ++ vImm r }

def vunF (mk : VUn → Instr) (r : Raw) (li : Word) : Form :=
  { ins := mk ⟨tyOf r.mod, clsRm r, clsSat r, vdOf r.d, vsOf r.a li, prOf r⟩,
    d := .vd, a := .vs, errs := rmErr (r.cls % 8) ++ vImm r }

def vcvtF (r : Raw) (li : Word) : Form :=
  let t := tyOf r.mod
  let s := tyOf (r.imm % 16)
  let narrow := decide (t.width < s.width)
  { ins := .vcvt ⟨t, s, .ofNat 3 (r.imm / 16), clsRm r, clsSat r, vdOf r.d, vsOf r.a li,
      if narrow then some (vsOf r.c li) else none, prOf r⟩,
    d := .vd, a := .vs, c := if narrow then .vs else .z, errs := rmErr (r.cls % 8) ++ need (r.imm < 128) 5 }

def vshufF (r : Raw) (li : Word) : Form :=
  let pat := patOf (r.imm / 4096)
  { ins := .vshuf ⟨tyOf r.mod, pat, .ofNat 9 r.imm, vdOf r.d, vsOf r.a li, if pat.usesB then some (vsOf r.b li) else none, prOf r⟩,
    d := .vd, a := .vs, b := if pat.usesB then .vs else .z,
    errs := zCls r ++ need (r.imm / 4096 < 7 && r.imm / 512 % 8 == 0) 5 }

def vdxpF (r : Raw) (li : Word) : Form :=
  let x : VDxpW := ⟨tyOf r.mod, tyOf (r.imm % 16), .ofNat 6 (r.imm / 16), clsRm r, vdOf r.d, vsOf r.a li, vsOf r.c li⟩
  { ins := if r.imm / 1024 % 2 = 0 then .vdxp x else .vdxpScale x, d := .vd, a := .vs, c := .vs, pred := .no,
    errs := rmErr (r.cls % 8) ++ need (r.cls < 8) 5 ++ need (r.imm < 2048) 5 }

/-- The V slots (R148, R205). -/
def formV (r : Raw) (li : Word) : Option Form :=
  match r.op with
  | 0x01 => some (vbinF .vadd r li) | 0x02 => some (vbinF .vsub r li) | 0x03 => some (vbinF .vmul r li)
  | 0x04 => some (vtriF .vfma r li) | 0x05 => some (vtriF .vfms r li)
  | 0x06 => some (vbinF .vmin r li) | 0x07 => some (vbinF .vmax r li)
  | 0x08 => some (vunF .vabs r li) | 0x09 => some (vunF .vneg r li)
  | 0x0A => some (vbinF .vand r li) | 0x0B => some (vbinF .vor r li) | 0x0C => some (vbinF .vxor r li)
  | 0x0D => some (vbinF .vshl r li) | 0x0E => some (vbinF .vshr r li) | 0x0F => some (vbinF .vsar r li)
  | 0x10 => some { ins := .vcmp ⟨tyOf r.mod, vcondOf (r.imm % 16), fin8 r.d, vsOf r.a li, vsOf r.b li, prOf r⟩, d := .p,
                   a := .vs, b := .vs, errs := zCls r ++ need (r.imm < 10) 5 }
  | 0x11 => some { ins := .vsel ⟨tyOf r.mod, vdOf r.d, vsOf r.a li, vsOf r.b li, r.pn == 1, fin8 r.pix⟩, d := .vd, a := .vs,
                   b := .vs, pred := .req, errs := zCls r ++ vImm r }
  | 0x12 => some (vunF .vmov r li)
  | 0x13 => some { ins := .vbcast ⟨tyOf r.mod, vdOf r.d, gsOf r.a li, prOf r⟩, d := .vd, a := .gs, errs := zCls r ++ vImm r }
  | 0x14 => some { ins := .vext ⟨tyOf r.mod, gdOf r.d, vsOf r.a li, gsOf r.b li⟩, d := .gd, a := .vs, b := .gs, pred := .no,
                   errs := zCls r ++ vImm r }
  | 0x15 => some { ins := .vins ⟨tyOf r.mod, vdOf r.d, vsOf r.a li, gsOf r.b li, gsOf r.c li⟩, d := .vd, a := .vs, b := .gs,
                   c := .gs, pred := .no, errs := zCls r ++ vImm r }
  | 0x16 => some (vcvtF r li)
  | 0x17 => some (vunF .vrint r li)
  | 0x18 => some (vtriF .vdot r li)
  | 0x19 => some { ins := .vclmul ⟨r.imm % 2 == 1, vdOf r.d, vsOf r.a li, vsOf r.b li, prOf r⟩, d := .vd, a := .vs, b := .vs,
                   errs := need (r.mod == 7) 5 ++ zCls r ++ need (r.imm < 2) 5 }
  | 0x20 => some (vunF .vrcp r li) | 0x21 => some (vunF .vrsq r li) | 0x22 => some (vunF .vexp2 r li)
  | 0x23 => some (vunF .vlog2 r li) | 0x24 => some (vunF .vtanh r li) | 0x25 => some (vunF .vsigm r li)
  | 0x28 => some { ins := .vred ⟨redOf (r.imm % 4), tyOf r.mod, clsRm r, clsSat r, vdOf r.d, vsOf r.a li, prOf r⟩, d := .vd,
                   a := .vs, errs := rmErr (r.cls % 8) ++ need (r.imm < 3) 5 }
  | 0x29 => some { ins := .vscan ⟨redOf (r.imm % 4), r.imm / 4 % 2 == 1, tyOf r.mod, clsRm r, clsSat r, vdOf r.d, vsOf r.a li,
                     prOf r⟩, d := .vd, a := .vs, errs := rmErr (r.cls % 8) ++ need (r.imm < 8 && r.imm % 4 != 3) 5 }
  | 0x2A => some { ins := .vcmpr ⟨tyOf r.mod, vdOf r.d, vsOf r.a li, gdOf r.c, prOf r⟩, d := .vd, a := .vs, c := .gd,
                   errs := zCls r ++ vImm r }
  | 0x2B => some (vunF .vexpd r li)
  | 0x2C => some (vbinF .vperm r li)
  | 0x2D => some (vshufF r li)
  | 0x2E => some (vdxpF r li)
  | 0x2F => some { ins := .vdxu ⟨tyOf r.mod, tyOf (r.imm % 16), .ofNat 6 (r.imm / 16), clsRm r, clsSat r, vdOf r.d, vsOf r.a li,
                     vsOf r.b li⟩, d := .vd, a := .vs, b := .vs, pred := .no,
                   errs := rmErr (r.cls % 8) ++ need (r.imm < 1024) 5 }
  | 0x30 => some (vunF .vpcnt r li)
  | _ => none

def mmoveF (mk : MMoveW → Instr) (r : Raw) (li : Word) : Form :=
  { ins := mk ⟨fin8 r.d, fin16 r.a, gsOf r.c li, prOf r⟩, d := .acc, a := .h, c := .gs, errs := zMod r ++ zCls r ++ vImm r }

/-- The M slot (R148, R230). -/
def formM (r : Raw) (li : Word) : Option Form :=
  match r.op with
  | 0x01 => some { ins := .mma ⟨tyOf r.mod, r.cls % 2 == 1, fin8 r.d, fin16 r.a, fin16 r.b, gsOf r.c li, prOf r⟩, d := .acc,
                   a := .h, b := .h, c := .gs, errs := need (r.cls < 2) 5 ++ vImm r }
  | 0x02 => some { ins := .mmas ⟨tyOf r.mod, r.cls % 2 == 1, r.cls / 2 % 2 == 1, fin8 r.d, fin8 r.a, fin16 r.b, gsOf r.c li, prOf r⟩,
                   d := .acc, a := .acc, b := .h, c := .gs, errs := need (r.cls < 4) 5 ++ vImm r }
  | 0x03 => some { ins := .mmdx ⟨r.mod % 2 == 1, r.imm % 2 == 1, fin16 r.a, fin16 r.b, gsOf r.c li, prOf r⟩,
                   a := .h, b := .h, c := .gs, errs := need (14 ≤ r.mod) 5 ++ zCls r ++ need (r.imm < 2) 5 }
  | 0x04 => some { ins := .msca ⟨r.mod % 2 == 1, r.imm % 2 == 1, fin8 r.d, vsOf r.a li, vsOf r.b li, vsOf r.c li, prOf r⟩,
                   d := .acc, a := .vs, b := .vs, c := .vsNoReg, errs := need (14 ≤ r.mod) 5 ++ zCls r ++ need (r.imm < 2) 5 }
  | 0x05 => some { ins := .mzero (fin8 r.d) (prOf r), d := .acc, errs := zMod r ++ zCls r ++ vImm r }
  | 0x06 => some { ins := .mdrain ⟨tyOf r.mod, drainOf (r.imm % 4), clsRm r, clsSat r, fin8 r.d, fin16 r.a, gsOf r.c li, prOf r⟩,
                   d := .acc, a := .h, c := .gs, errs := rmErr (r.cls % 8) ++ need (r.imm < 3) 5 }
  | 0x07 => some (mmoveF .mldacc r li)
  | 0x08 => some (mmoveF .mstacc r li)
  | 0x09 => some { ins := .mstat (gdOf r.d) (fin8 (r.imm % 8)) (r.imm / 8 % 2 == 1) (prOf r), d := .gd,
                   errs := zMod r ++ zCls r ++ need (r.imm < 16) 5 }
  | _ => none

/-- Token of an X form in [9:7] with nothing else in IMM15 (R249). -/
def xTok (r : Raw) : List Nat := need (r.imm / 2 ^ 10 == 0 && r.imm % 2 ^ 7 == 0) 6

def xpermF (trn : Bool) (r : Raw) (li : Word) : Form :=
  let x : XPermW := ⟨.ofNat 2 r.mod, .ofNat 4 r.cls, fin16 r.d, fin16 r.a, gsOf r.b li, gsOf r.c li, mTok r,
    ⟨r.imm % 8 % 6, Nat.mod_lt _ (by decide)⟩, prOf r⟩
  { ins := if trn then .xtrn { x with order := 0 } else .xprm x, d := .h, a := .h, b := .gs, c := .gs,
    errs := need (r.mod < 4) 5 ++ need (r.imm / 2 ^ 10 == 0 && r.imm / 8 % 16 == 0) 6
      ++ (if trn then need (r.imm % 8 == 0) 6 else need (r.imm % 8 < 6) 5) }

/-- XBOP by MOD (R253). -/
def xbopF (r : Raw) (li : Word) : Option Form :=
  let mk : Option (XBopW → Instr) := match r.mod with
    | 0 => some .rowz | 1 => some .rowcp | 2 => some .rowxf | 3 => some .badd | 4 => some .bmax | 5 => some .bmin
    | 6 => some .baxpy | 7 => some .bcnt | _ => none
  mk.map fun k =>
    { ins := k ⟨btOf (r.imm / 2 ^ 12), .ofNat 4 r.cls, fin16 r.a, gsOf r.b li, fin16 r.c, mTok r, prOf r⟩,
      a := .h, b := .gs, c := .h,
      errs := need (r.imm / 2 ^ 12 < 6) 5 ++ need (r.imm / 2 ^ 10 % 4 == 0 && r.imm % 2 ^ 7 == 0) 6 }

def xrangeF (mk : XRangeW → Instr) (r : Raw) (li : Word) : Form :=
  { ins := mk ⟨.ofNat 4 r.cls, fin16 r.a, gsOf r.b li, gsOf r.c li, mTok r, prOf r⟩, a := .h, b := .gs, c := .gs,
    errs := zMod r ++ xTok r }

/-- The X slot, forms open to kernels (R148, R250). -/
def formX (r : Raw) (li : Word) : Option Form :=
  match r.op with
  | 0x01 => some (xpermF true r li)
  | 0x02 => some (xpermF false r li)
  | 0x03 => xbopF r li
  | 0x04 => some { ins := .xbfen ⟨gdOf r.d, if r.mod % 2 = 1 then none else some (fin16 r.a), mTok r, prOf r⟩, d := .gd,
                   a := if r.mod % 2 = 1 then .z else .h,
                   errs := need (r.mod < 2) 5 ++ zCls r ++ need (r.imm / 2 ^ 10 % 8 == 6) 5
                     ++ need (r.imm / 2 ^ 13 == 0 && r.imm % 2 ^ 7 == 0) 6 }
  | 0x05 => some { ins := .xbar (fin16 r.imm), pred := .no, errs := zMod r ++ zCls r ++ need (r.imm < 16) 6 }
  | 0x06 => some { ins := .xevt (gsOf r.a li) (gsOf r.b li) (prOf r), a := .gs, b := .gs, errs := zMod r ++ zCls r ++ zImm r }
  | 0x07 =>
    let x : XEvpW := ⟨fin16 r.d, gsOf r.a li, mTok r, .ofNat 3 r.imm, prOf r⟩
    if r.mod ≤ 1 then
      some { ins := if r.mod = 0 then .xevpPoll x else .xevpWait x, d := .h, a := .gs,
             errs := zCls r ++ need (r.imm / 2 ^ 10 == 0 && r.imm / 8 % 16 == 0) 6 }
    else none
  | 0x08 => if r.mod ≤ 1 then
      some { ins := if r.mod = 0 then .xtokSet (mTok r) (gsOf r.a li) (prOf r) else .xtokAdd (mTok r) (gsOf r.a li) (prOf r),
             a := .gs, errs := zCls r ++ xTok r }
    else none
  | 0x09 => some { ins := .xcway ⟨r.imm % 16 % 9, Nat.mod_lt _ (by decide)⟩ (gsOf r.a li) (mTok r) (prOf r), a := .gs,
                   errs := zMod r ++ zCls r ++ need (r.imm % 16 ≤ 8) 5 ++ need (r.imm / 2 ^ 10 == 0 && r.imm / 16 % 8 == 0) 6 }
  | 0x0A => some (xrangeF .xinv r li)
  | 0x0B => some (xrangeF .xwb r li)
  | 0x0C => some (xrangeF .xpref r li)
  | 0x0D => some { ins := .xcomet ⟨.ofNat 4 r.cls, fin16 r.a, fin16 r.b, gsOf r.c li, mTok r, prOf r⟩, a := .h, b := .h,
                   c := .gs, errs := zMod r ++ xTok r }
  | _ => none

/-- Word index of QDLD and QDST with its token (R267). -/
def qWordErr (r : Raw) (tok : Bool) : List Nat :=
  need (r.imm / 2 ^ 10 == 0 && r.imm / 64 % 2 == 0) 6 ++ need (tok || r.imm / 2 ^ 7 == 0) 6

/-- The X slot, sequencer-only forms (R267). -/
def formQ (r : Raw) (li : Word) : Option Form :=
  match r.op with
  | 0xC0 =>
    if r.mod = 0 then some { ins := .qdld (gdOf r.d) (gsOf r.a li) (.ofNat 6 r.imm) (mTok r) (prOf r), d := .gd, a := .gs,
                             errs := zCls r ++ qWordErr r true }
    else if r.mod = 1 then some { ins := .qdldHandle (fin16 r.d) (gsOf r.a li) (.ofNat 6 r.imm) (mTok r) (prOf r), d := .h,
                                  a := .gs, errs := zCls r ++ qWordErr r true }
    else none
  | 0xC1 =>
    if r.mod = 0 then some { ins := .qdst (gsOf r.a li) (gsOf r.b li) (.ofNat 6 r.imm) (prOf r), a := .gs, b := .gs,
                             errs := zCls r ++ qWordErr r false }
    else if r.mod = 1 then some { ins := .qdstHandle (gsOf r.a li) (fin16 r.b) (.ofNat 6 r.imm) (prOf r), a := .gs, b := .h,
                                  errs := zCls r ++ qWordErr r false }
    else none
  | 0xC2 => match r.mod with
    | 0 => some { ins := .qdimRd (gdOf r.d) (fin64 r.imm) (prOf r), d := .gd, errs := zCls r ++ need (r.imm < 64) 6 }
    | 1 => some { ins := .qdimTiles (gdOf r.d) (fin64 r.imm) (gsOf r.b li) (prOf r), d := .gd, b := .gs,
                  errs := zCls r ++ need (r.imm < 64) 6 }
    | 2 => some { ins := .qdimWr (fin64 r.imm) (gsOf r.a li) (prOf r), a := .gs, errs := zCls r ++ need (r.imm < 64) 6 }
    | _ => none
  | 0xC3 => some { ins := .ralc (gdOf r.d) (gsOf r.a li) (gsOf r.b li) (fin16 r.imm) (mTok r) (prOf r), d := .gd, a := .gs,
                   b := .gs, errs := zMod r ++ zCls r ++ need (r.imm / 2 ^ 10 == 0 && r.imm / 16 % 8 == 0) 6 }
  | 0xC4 => some { ins := .rfre (gsOf r.a li) (fin16 r.imm) (mTok r) (prOf r), a := .gs,
                   errs := zMod r ++ zCls r ++ need (r.imm / 2 ^ 10 == 0 && r.imm / 16 % 8 == 0) 6 }
  | 0xC5 => some { ins := .gang (.ofNat 4 r.cls) (gdOf r.d) (fin16 r.a) (gsOf r.b li) (mTok r) (prOf r), d := .gd, a := .h,
                   b := .gs, errs := zMod r ++ xTok r }
  | 0xC6 => if r.mod ≤ 1 then
      some { ins := if r.mod = 0 then .hscbReader (gsOf r.a li) (gsOf r.b li) (prOf r)
               else .hscbWriter (gsOf r.a li) (gsOf r.b li) (prOf r), a := .gs, b := .gs, errs := zCls r ++ zImm r }
    else none
  | 0xC7 => if r.mod ≤ 1 then
      some { ins := if r.mod = 0 then .hwaitRd (gsOf r.a li) (mTok r) (prOf r) else .hwaitWr (gsOf r.a li) (mTok r) (prOf r),
             a := .gs, errs := zCls r ++ xTok r }
    else none
  | 0xC8 =>
    if r.mod = 0 then some { ins := .bcnx (gdOf r.d) (.ofNat 4 r.imm) (mTok r) (prOf r), d := .gd,
                             errs := zCls r ++ need (r.imm / 2 ^ 10 == 0 && r.imm / 16 % 8 == 0) 6 }
    else if r.mod = 1 then some { ins := .bcnxJmp (gsOf r.a li) (prOf r), a := .gs, errs := zCls r ++ zImm r }
    else none
  | 0xC9 => some { ins := .utrap (.ofNat 12 r.imm) (gsOf r.a li) (gsOf r.b li) (gsOf r.c li) (prOf r), a := .gs, b := .gs,
                   c := .gs, errs := zMod r ++ zCls r ++ need (r.imm < 4096) 6 }
  | 0xCA => match r.mod with
    | 0 => some { ins := .qyldEnd (prOf r), errs := zCls r ++ zImm r }
    | 1 => some { ins := .qyldYield (prOf r), errs := zCls r ++ zImm r }
    | 2 => some { ins := .qyldRepeat (prOf r), errs := zCls r ++ zImm r }
    | _ => none
  | 0xCB => some { ins := .hmint (fin16 r.d) (fin32 r.a) (mTok r) (prOf r), d := .h, a := .greg, errs := zMod r ++ zCls r ++ xTok r }
  | 0xCC => some { ins := .otinv (gsOf r.a li) (mTok r) (prOf r), a := .gs, errs := zMod r ++ zCls r ++ xTok r }
  | 0xCD => if r.mod ≤ 1 then
      some { ins := if r.mod = 0 then .qctxKeep else .qctxDrop, pred := .no, errs := zCls r ++ zImm r }
    else none
  | _ => none

/-- The form of a slot word in its slot space; none for an unassigned opcode or MOD (R148). -/
def formOf (sl : Slot) (r : Raw) (li : Word) : Option Form :=
  match sl with
  | .s => formS r li
  | .a => formA r li
  | .v => formV r li
  | .m => formM r li
  | .x => if r.op < 0xC0 then formX r li else formQ r li

/-- R134: predicate fields. -/
def predErr (rule : PredRule) (r : Raw) : List Nat :=
  need (r.pe == 1 || (r.pn == 0 && r.pix == 0)) 13
    ++ (match rule with | .yes => [] | .no => need (r.pe == 0) 13 | .req => need (r.pe == 1) 13)

/-- Every reason of one slot word: its fields, its long-immediate use, and its operands (R147). `recv` says whether the
position is a receiver (R131). -/
def Form.reasons (k : Kind) (recv : Bool) (f : Form) (r : Raw) : List Nat :=
  let longs := (if f.a.isLong r.a then 1 else 0) + (if f.b.isLong r.b then 1 else 0) + (if f.c.isLong r.c then 1 else 0)
  need (longs == 0 || (recv && longs ≤ 1)) 3
    ++ need (f.d.legal r.d && f.a.legal r.a && f.b.legal r.b && f.c.legal r.c) 6
    ++ predErr f.pred r ++ f.errs ++ f.ins.reasons k

/-- The lowest reason code of a list (R147). -/
def lowest : List Nat → Option Nat
  | [] => none
  | n :: l => match lowest l with
    | none => some n
    | some m => some (min n m)

/-- One slot word that is not a NOP: its instruction, or the lowest reason code of R147. -/
def decodeSlot (k : Kind) (sl : Slot) (w : Nat) (li : Option Word) : Except Nat Instr :=
  let r := Raw.ofNat w
  match formOf sl r (li.getD 0) with
  | none => .error 5
  | some f => match lowest (f.reasons k li.isSome r) with
    | none => .ok f.ins
    | some n => .error n

/-! ### Bundles -/

/-- A decoded bundle: header fields (R129) and the instructions of its occupied positions in ascending position. -/
structure Bundle where
  sec : Bool
  ib : Bool
  lend : Bool
  waitm : Nat
  tags : List Nat
  /-- Positions that are neither NOP, surrendered nor receiving are empty (R133). -/
  used : List Nat
  slots : List (Nat × Instr)
  deriving DecidableEq, Repr

/-- Positions that a template surrenders (R131). -/
def surrendered : Nat → List Nat
  | 1 => [1] | 2 => [2] | 3 => [3] | 4 => [4] | 5 => [5] | 6 => [6] | 7 => [1, 3] | 8 => [1, 4] | 9 => [1, 6]
  | 10 => [2, 4] | 11 => [2, 6] | 12 => [3, 6] | 13 => [1, 3, 6] | 14 => [2, 4, 6] | _ => []

/-- R131: templates permitted. -/
def tmplOk (k : Kind) (t : Nat) : Bool :=
  match k with | .prim => t < 15 | .sec => t ≤ 2 | .seq => t ≤ 3

/-- The port selector code of field f (0 A, 1 B, 2 C) of position p (R132); 0 where there is none. -/
def portCode (p f : Nat) : Nat :=
  match p with
  | 1 => if f = 1 then 7 else if f = 2 then 8 else 0
  | 2 => if f = 1 then 9 else if f = 2 then 10 else 0
  | 3 => 1 + f
  | 4 => 4 + f
  | 5 => if f ≤ 1 then 11 + f else 0
  | 6 => 13 + f
  | _ => 0

/-- Control transfers (R128): QYLD is one on a sequencer alone. -/
def Instr.isTransfer (k : Kind) : Instr → Bool
  | .br _ _ | .brc _ | .jmp _ _ | .callRelative _ _ _ | .callAbsolute _ _ _ | .ret _ _ | .lbrk _ | .probeMissTarget _ _ => true
  | .qyldEnd _ | .qyldYield _ | .qyldRepeat _ => k == .seq
  | _ => false

/-- R130: the S slot holds RET, or BR or BRC with a negative displacement. -/
def Instr.permitsIb : Instr → Bool
  | .ret _ _ => true
  | .br d _ => d.msb
  | .brc x => x.disp.msb
  | _ => false

/-- One position of a bundle: word, surrendered or not, its long immediate, its form. -/
structure PosInfo where
  pos : Nat
  w : Nat
  gone : Bool
  li : Option Word
  form : Option Form
  deriving DecidableEq, Repr

def posInfo (tmpl : Nat) (ws : List Nat) (p : Nat) : PosInfo :=
  let gone := (surrendered tmpl).contains p
  let li := if (surrendered tmpl).contains (p + 1) then some (BitVec.ofNat 64 (ws.getD (p + 2) 0)) else none
  let w := ws.getD (p + 1) 0
  { pos := p, w := w, gone := gone, li := li,
    form := if gone || w / 2 ^ 56 % 256 == 0 then none else formOf (Slot.ofPos p) (Raw.ofNat w) (li.getD 0) }

/-- The g source fields that an instruction has under every MOD its opcode assigns, by which a word with a reserved MOD
names selector 0x38 (R131, R147). -/
def reservedSources (sl : Slot) (r : Raw) : List Nat :=
  match sl with
  | .a => if r.op = 0x0E then [r.b, r.c] else if r.op = 0x02 ∨ r.op = 0x10 ∨ r.op = 0x13 then [r.b] else []
  | .x =>
    if r.op = 0x03 then [r.b] else if r.op = 0x08 ∨ r.op = 0xC0 ∨ r.op = 0xC1 ∨ r.op = 0xC7 then [r.a]
    else if r.op = 0xC6 then [r.a, r.b] else []
  | _ => []

/-- The reasons that one position's word gives. -/
def PosInfo.reasons (k : Kind) (x : PosInfo) : List Nat :=
  if x.gone then []
  else if x.w / 2 ^ 56 % 256 = 0 then need (x.w % 2 ^ 64 == 0) 7
  else match x.form with
    | none =>
      let longs := ((reservedSources (Slot.ofPos x.pos) (Raw.ofNat x.w)).filter (· == 0x38)).length
      5 :: need (longs == 0 || (x.li.isSome && longs ≤ 1)) 3
        ++ need (k == .prim || (Slot.ofPos x.pos != .v && Slot.ofPos x.pos != .m)) 11
    | some f => f.reasons k x.li.isSome (Raw.ofNat x.w)

/-- The vector-file reads of a position as port codes. -/
def PosInfo.vreads (x : PosInfo) : List Nat :=
  match x.form with
  | none => []
  | some f =>
    let r := Raw.ofNat x.w
    (if f.a.readsV r.a then [portCode x.pos 0] else []) ++ (if f.b.readsV r.b then [portCode x.pos 1] else [])
      ++ (if f.c.readsV r.c then [portCode x.pos 2] else [])

/-- No number stands twice. -/
def noDup : List Nat → Bool
  | [] => true
  | x :: l => !l.contains x && noDup l

/-- R132: every selector names a read, no two the same, and in a primary bundle every read has a port. -/
def pallocOk (k : Kind) (sel reads : List Nat) : Bool :=
  let used := sel.filter (· != 0)
  used.all reads.contains && noDup used && (k != .prim || reads.all used.contains)

/-- The positions of a bundle in order. -/
def positions : List Nat := [0, 1, 2, 3, 4, 5, 6]

/-- Every reason of R147 that a bundle gives. `depth` is the depth of the innermost loop entry when it is a LOOPP and
0 otherwise (R146). -/
def bundleReasons (k : Kind) (depth : Nat) (ws : List Nat) : List Nat :=
  let h := ws.getD 0 0
  let tmpl := h % 16
  let palloc := [h / 16 % 16, h / 256 % 16, h / 4096 % 16, h / 65536 % 16]
  let waitm := h / 2 ^ 20 % 256
  let lend := h / 2 ^ 28 % 2
  let ib := h / 2 ^ 29 % 2
  let sec := h / 2 ^ 30 % 2
  let tag := fun p => h / 2 ^ (32 + 3 * p) % 8
  let info := positions.map (posInfo tmpl ws)
  let forms := info.filterMap (·.form)
  let transfers := (forms.filter (·.ins.isTransfer k)).length
  need (h / 2 ^ 31 % 2 == 0 && h / 2 ^ 53 % 2 ^ 11 == 0) 1
    ++ need (tmplOk k tmpl) 2
    ++ need ((surrendered tmpl).all fun p => tag p == 0) 3
    ++ need (pallocOk k palloc (info.flatMap PosInfo.vreads)) 4
    ++ need (transfers ≤ 1 && (transfers == 0 || lend == 0)) 8
    ++ need (ib == 0 || (k != .sec && (lend == 1 || forms.any (·.ins.permitsIb)))) 9
    ++ need (positions.all fun p => tag p ≤ depth) 10
    ++ need (k != .sec || (sec == 0 && waitm < 16 && palloc.all (· == 0))) 12
    ++ info.flatMap (PosInfo.reasons k)

/-- Decode the eight words of a bundle (R126): the bundle, or the lowest reason code of R147. -/
def decodeBundle (k : Kind) (depth : Nat) (ws : List Nat) : Except Nat Bundle :=
  match lowest (bundleReasons k depth ws) with
  | some n => .error n
  | none =>
    let h := ws.getD 0 0
    let info := positions.map (posInfo (h % 16) ws)
    .ok { sec := h / 2 ^ 30 % 2 == 1, ib := h / 2 ^ 29 % 2 == 1, lend := h / 2 ^ 28 % 2 == 1, waitm := h / 2 ^ 20 % 256,
          tags := positions.map fun p => h / 2 ^ (32 + 3 * p) % 8,
          used := (info.filter fun x => x.gone || x.form.isSome || x.li.isSome).map (·.pos),
          slots := info.filterMap fun x => x.form.map fun f => (x.pos, f.ins) }

/-! ### Graph code -/

/-- The fields of word 0 (R280). -/
structure GWord where
  opc : Nat
  nw : Nat
  fl : Nat
  imm : Nat
  deriving DecidableEq, Repr

def GWord.ofNat (w : Nat) : GWord := ⟨w / 2 ^ 24 % 256, w / 2 ^ 20 % 16, w / 2 ^ 16 % 16, w % 2 ^ 16⟩

/-- Why graph code is refused, in the order of R281: unknown operator, words past CODE, malformed, descriptor range. -/
inductive GErr where
  | unknown | structure | malformed | range
  deriving DecidableEq, Repr

/-- A desc operand (R280): kind 0 with [29:16] zero. -/
def descOf (w : Nat) : Option Desc := if w < 2 ^ 16 then some (.ofNat 16 w) else none

/-- An attr operand: kind 3. -/
def attrOf (w : Nat) : Option Attr := if w / 2 ^ 30 = 3 then some (.ofNat 30 w) else none

/-- A dst operand: kind 1 with [29:6] zero. -/
def zOf (w : Nat) : Option (Fin 64) := if w / 64 = 2 ^ 24 then some (fin64 w) else none

/-- A value operand: kind 1 or 2. -/
def valOf (w : Nat) : Option GVal :=
  if w / 2 ^ 30 = 2 then some (.imm (.ofNat 30 w)) else (zOf w).map .z

def valsOf : List Nat → Option (List GVal)
  | [] => some []
  | w :: ws => match valOf w, valsOf ws with
    | some v, some vs => some (v :: vs)
    | _, _ => none

def gcondOf : Nat → GCond
  | 0 => .eq | 1 => .ne | 2 => .lt | 3 => .le | 4 => .gt | _ => .ge

def GCond.code : GCond → Nat
  | .eq => 0 | .ne => 1 | .lt => 2 | .le => 3 | .gt => 4 | .ge => 5

def shopOf : Nat → ShOp
  | 0 => .add | 1 => .sub | 2 => .mul | 3 => .divf | 4 => .divc | 5 => .mod | 6 => .min | 7 => .max | 8 => .shl | 9 => .shr
  | 10 => .and | 11 => .or | 12 => .alup | _ => .mov

def ShOp.code : ShOp → Nat
  | .add => 0 | .sub => 1 | .mul => 2 | .divf => 3 | .divc => 4 | .mod => 5 | .min => 6 | .max => 7 | .shl => 8 | .shr => 9
  | .and => 10 | .or => 11 | .alup => 12 | .mov => 13

def tierOf : Nat → Tier
  | 0 => .fast | 1 => .capacity | _ => .bank

def Tier.code : Tier → Nat
  | .fast => 0 | .capacity => 1 | .bank => 2

/-- ELTW operation codes (R313). -/
def eltOf : Nat → Option EltOp
  | 0 => some .add | 1 => some .sub | 2 => some .mul | 3 => some .div | 4 => some .max | 5 => some .min
  | 16 => some .neg | 17 => some .abs | 18 => some .exp2 | 19 => some .log2 | 20 => some .tanh | 21 => some .sigm
  | 22 => some .rcp | 23 => some .rsqrt | 24 => some .relu | 25 => some .silu | 26 => some .gelu | _ => none

def EltOp.code : EltOp → Nat
  | .add => 0 | .sub => 1 | .mul => 2 | .div => 3 | .max => 4 | .min => 5 | .neg => 16 | .abs => 17 | .exp2 => 18 | .log2 => 19
  | .tanh => 20 | .sigm => 21 | .rcp => 22 | .rsqrt => 23 | .relu => 24 | .silu => 25 | .gelu => 26

def EltOp.binary : EltOp → Bool
  | .add | .sub | .mul | .div | .max | .min => true
  | .neg | .abs | .exp2 | .log2 | .tanh | .sigm | .rcp | .rsqrt | .relu | .silu | .gelu => false

def scatOf : Nat → ScatMode
  | 0 => .store | 1 => .add | 2 => .max | _ => .min

def ScatMode.code : ScatMode → Nat
  | .store => 0 | .add => 1 | .max => 2 | .min => 3

def bit (n k : Nat) : Bool := n / 2 ^ k % 2 == 1

/-- An instruction without operand words, FL 0. -/
def g0 (g : GWord) (immOk : Bool) (i : Instr) : Option Instr := if g.nw = 0 && g.fl = 0 && immOk then some i else none

/-- COLL by kind (R301, R318). -/
def collOf (g : GWord) (ds sr : Nat) : Option Instr :=
  match descOf ds, descOf sr with
  | some d, some s =>
    let x : CollW := ⟨bit g.fl 3, redOf (g.imm % 4), .ofNat 12 (g.imm / 16), d, s⟩
    if g.imm / 4 % 4 = 0 && g.imm % 4 < 3 then
      match g.fl % 8 with
      | 0 => some (.allreduce x) | 1 => some (.reducescatter x) | 2 => some (.allgather x) | 3 => some (.alltoall x)
      | 4 => some (.broadcast x) | _ => none
    else none
  | _, _ => none

/-- Optional descriptor operands: the words that remain after the flags took theirs. -/
def optDesc (present : Bool) : List Nat → Option (Option Desc × List Nat)
  | [] => if present then none else some (none, [])
  | w :: ws => if present then (descOf w).map fun d => (some d, ws) else some (none, w :: ws)

def descs3 (ws : List Nat) (f : Desc → Desc → Desc → Option Instr) : Option Instr :=
  match ws with
  | [a, b, c] => match descOf a, descOf b, descOf c with
    | some a, some b, some c => f a b c
    | _, _, _ => none
  | _ => none

def descs2 (ws : List Nat) (f : Desc → Desc → Option Instr) : Option Instr :=
  match ws with
  | [a, b] => match descOf a, descOf b with
    | some a, some b => f a b
    | _, _ => none
  | _ => none

def descs4 (ws : List Nat) (f : Desc → Desc → Desc → Desc → Option Instr) : Option Instr :=
  match ws with
  | [a, b, c, d] => match descOf a, descOf b, descOf c, descOf d with
    | some a, some b, some c, some d => f a b c d
    | _, _, _, _ => none
  | _ => none

/-- Control, shape and descriptor instructions (R282). -/
def gctl (g : GWord) (ws : List Nat) : Option Instr :=
  match g.opc, ws with
  | 0x00, [] => g0 g (g.imm = 0) .graphNop
  | 0x01, [] => g0 g true (.halt (.ofNat 16 g.imm))
  | 0x02, [] => g0 g true (.graphJmp (.ofNat 16 g.imm))
  | 0x03, [a, b] => match valOf a, valOf b with
    | some a, some b => if g.fl < 6 then some (.jif (gcondOf g.fl) (.ofNat 16 g.imm) a b) else none
    | _, _ => none
  | 0x04, [n] => if g.fl = 0 && g.imm ≠ 0 then (valOf n).map fun n => .loopb (.ofNat 16 g.imm) n none else none
  | 0x04, [n, z] => match valOf n, zOf z with
    | some n, some z => if g.fl = 0 && g.imm ≠ 0 then some (.loopb (.ofNat 16 g.imm) n (some z)) else none
    | _, _ => none
  | 0x05, [] => g0 g (g.imm = 0) .loope
  | 0x06, [] => g0 g true (.callg (.ofNat 16 g.imm))
  | 0x07, [] => g0 g (g.imm = 0) .retg
  | 0x08, [] => g0 g (g.imm = 0) .yield
  | 0x09, [d, n] => match descOf d, valOf n with
    | some d, some n => if g.fl = 0 && g.imm = 0 then some (.signal d n) else none
    | _, _ => none
  | 0x0A, [d, n] => match descOf d, valOf n with
    | some d, some n => if g.fl = 0 && g.imm = 0 then some (.waite d n) else none
    | _, _ => none
  | 0x10, [z, d, k] => match zOf z, descOf d, valOf k with
    | some z, some d, some k => if g.fl = 0 && g.imm = 0 then some (.shld z d k) else none
    | _, _, _ => none
  | 0x11, [z, a] => match zOf z, valOf a with
    | some z, some a => if g.fl = 13 && g.imm = 0 then some (.shop .mov z a (.imm 0)) else none
    | _, _ => none
  | 0x11, [z, a, b] => match zOf z, valOf a, valOf b with
    | some z, some a, some b => if g.fl < 13 && g.imm = 0 then some (.shop (shopOf g.fl) z a b) else none
    | _, _, _ => none
  | 0x12, [z, d, j] => match zOf z, descOf d, valOf j with
    | some z, some d, some j =>
      if g.fl < 4 && g.imm = 0 then some (.shrd ⟨g.fl % 4, Nat.mod_lt _ (by decide)⟩ z d j) else none
    | _, _, _ => none
  | 0x18, [d, x] => match descOf d, attrOf x with
    | some d, some x => if g.fl = 0 && g.imm = 0 then some (.tdef d x) else none
    | _, _ => none
  | 0x19, d :: s :: os => match descOf d, descOf s, valsOf os with
    | some d, some s, some os => if g.fl = 0 && g.imm = 0 && os.length ≤ 8 then some (.tview d s os) else none
    | _, _, _ => none
  | 0x1A, d :: es => match descOf d, valsOf es with
    | some d, some es => if g.fl < 2 && g.imm = 0 && es.length ≤ 8 then some (.tsetd (g.fl == 1) d es) else none
    | _, _ => none
  | 0x1B, [d] => if g.fl < 3 && g.imm = 0 then (descOf d).map (.talloc (tierOf g.fl)) else none
  | 0x1C, [d] => if g.fl = 0 && g.imm = 0 then (descOf d).map .tfree else none
  | 0x1D, [d, p, u] => match descOf d, valOf p, valOf u with
    | some d, some p, some u => if g.fl < 2 && g.imm = 0 then some (.tpin (g.fl == 1) d p u) else none
    | _, _, _ => none
  | 0x1E, [z, n] => match zOf z, valOf n with
    | some z, some n => if g.fl < 2 && g.imm = 0 then some (.tres (g.fl == 1) z n) else none
    | _, _ => none
  | _, _ => none

def axisOf (g : GWord) : BitVec 3 := .ofNat 3 g.imm

/-- Compute, collective and fusion instructions (R301). -/
def gops (g : GWord) (ws : List Nat) : Option Instr :=
  match g.opc with
  | 0x20 => if ws.isEmpty && g.fl < 2 && 2 ≤ g.imm && g.imm ≤ 8 then some (.fuse (bit g.fl 0) (.ofNat 16 g.imm)) else none
  | 0x28 => descs2 ws fun d s => if g.fl = 0 && g.imm = 0 then some (.copy d s) else none
  | 0x29 => match ws with
    | [d, s, n] => match descOf d, descOf s, valOf n with
      | some d, some s, some n =>
        if g.fl % 8 < 6 && g.imm = 0 then some (.convert (rmOf (g.fl % 8)) (bit g.fl 3) d s n) else none
      | _, _, _ => none
    | _ => none
  | 0x2A => match ws with
    | [d, s, x] => match descOf d, descOf s, attrOf x with
      | some d, some s, some x => if g.fl = 0 && g.imm = 0 then some (.permute d s x) else none
      | _, _, _ => none
    | _ => none
  | 0x30 => descs3 ws fun c a b =>
      if g.fl / 2 < 6 && g.imm = 0 then some (.matmul (bit g.fl 0) (rmOf (g.fl / 2)) c a b) else none
  | 0x31 => match ws with
    | o :: q :: k :: v :: s :: m => match descOf o, descOf q, descOf k, descOf v, attrOf s, optDesc (bit g.fl 1) m with
      | some o, some q, some k, some v, some s, some (m, []) =>
        if g.fl < 4 && g.imm = 0 then some (.attn ⟨bit g.fl 0, o, q, k, v, s, m⟩) else none
      | _, _, _, _, _, _ => none
    | _ => none
  | 0x32 => descs2 ws fun d s => if g.fl = 0 && g.imm < 8 then some (.softmax (axisOf g) d s) else none
  | 0x33 => match ws with
    | d :: s :: e :: m => match descOf d, descOf s, attrOf e, optDesc (bit g.fl 1) m with
      | some d, some s, some e, some (ga, m) => match optDesc (bit g.fl 2) m with
        | some (be, []) => if g.fl < 8 && g.imm < 8 then some (.norm ⟨bit g.fl 0, axisOf g, d, s, e, ga, be⟩) else none
        | _ => none
      | _, _, _, _ => none
    | _ => none
  | 0x34 => match eltOf g.imm, ws with
    | some op, [d, a] => match descOf d, descOf a with
      | some d, some a => if g.fl < 2 && !op.binary then some (.eltw (bit g.fl 0) op d a .none) else none
      | _, _ => none
    | some op, [d, a, b] => match descOf d, descOf a with
      | some d, some a =>
        if g.fl < 2 && op.binary then
          match descOf b, attrOf b with
          | some b, _ => some (.eltw (bit g.fl 0) op d a (.desc b))
          | none, some x => some (.eltw (bit g.fl 0) op d a (.attr x))
          | none, none => none
        else none
      | _, _ => none
    | _, _ => none
  | 0x35 => descs2 ws fun d s =>
      if g.fl < 8 && g.fl % 4 < 3 && g.imm < 256 then some (.reduce (redOf (g.fl % 4)) (bit g.fl 2) (.ofNat 8 g.imm) d s) else none
  | 0x36 => descs3 ws fun d a i => if g.fl < 2 && g.imm < 8 then some (.gather (bit g.fl 0) (axisOf g) d a i) else none
  | 0x37 => descs3 ws fun d i u =>
      if g.fl < 8 && g.imm < 8 then some (.scatter (scatOf (g.fl % 4)) (bit g.fl 2) (axisOf g) d i u) else none
  | 0x38 => descs4 ws fun a b c d =>
      if g.imm = 0 then
        if g.fl = 0 then some (.routeDispatch a b c d) else if g.fl = 1 then some (.routeCombine a b c d) else none
      else none
  | 0x39 => descs3 ws fun v i s => if g.fl < 2 && g.imm ≠ 0 then some (.topk (bit g.fl 0) (.ofNat 16 g.imm) v i s) else none
  | 0x3A => descs2 ws fun d s => if g.fl < 4 && g.imm = 0 then some (.fft (bit g.fl 0) (bit g.fl 1) d s) else none
  | 0x40 => match ws with
    | [d, s] => collOf g d s
    | _ => none
  | 0x41 => descs2 ws fun d s => if g.fl = 0 && g.imm = 0 then some (.reshard d s) else none
  | _ => none

/-- The assigned opcodes of R282 and R301. -/
def opcAssigned (o : Nat) : Bool :=
  o ≤ 0x0A || (0x10 ≤ o && o ≤ 0x12) || (0x18 ≤ o && o ≤ 0x1E) || o == 0x20 || (0x28 ≤ o && o ≤ 0x2A)
    || (0x30 ≤ o && o ≤ 0x3A) || o == 0x40 || o == 0x41

/-- Decode the graph instruction at the front of a word list: the instruction with the words that follow it, or the first
failing check of R281 (its first three). XOP opcodes are not graph instructions of this decoder: R328 gives them a routine. -/
def decodeGraph (ws : List Nat) : Except GErr (Instr × List Nat) :=
  match ws with
  | [] => .error .structure
  | w :: rest =>
    let g := GWord.ofNat w
    if !opcAssigned g.opc then .error .unknown
    else if rest.length < g.nw then .error .structure
    else match (if g.opc < 0x20 then gctl g (rest.take g.nw) else gops g (rest.take g.nw)) with
      | none => .error .malformed
      | some i => .ok (i, rest.drop g.nw)

/-! ### The encoder -/

/-- What an instruction is encoded as: a slot word with its long immediates, of which a bundle has room for one, graph words,
or nothing (LEND is a header bit; the device's own steps have no encoding). -/
inductive Enc where
  | slot (sl : Slot) (w : Nat) (li : List Word)
  | graph (ws : List Nat)
  | none
  deriving DecidableEq, Repr

def GSrc.long? : GSrc → Option Word
  | .long w => some w
  | _ => .none

def VSrc.long? : VSrc → Option Word
  | .long w => some w
  | _ => .none

/-- The long immediates among a word's operands. -/
def longs (l : List (Option Word)) : List Word := l.filterMap id

/-- A word's predicate fields (R134). -/
def Raw.withPred (r : Raw) : Pred → Raw
  | .always => r
  | .on n p => { r with pe := 1, pn := n.toNat, pix := p.val }

def Raw.zero (op : Nat) : Raw := ⟨op, 0, 0, 0, 0, 0, 0, 0, 0, 0, 0⟩

def encS (op : Nat) (x : SBin) : Enc :=
  .slot .s (({ Raw.zero op with mod := x.t.code, cls := x.sat.toNat, d := x.d.code, a := x.a.code, b := x.b.code } : Raw).withPred
    x.pr).toNat (longs [x.a.long?, x.b.long?])

def encSU (op : Nat) (x : SUn) : Enc :=
  .slot .s (({ Raw.zero op with mod := x.t.code, d := x.d.code, a := x.a.code } : Raw).withPred x.pr).toNat x.a.long?.toList

def encP (mod : Nat) (x : PBin) : Enc :=
  .slot .s ({ Raw.zero 0x28 with mod := mod, d := x.d.val, a := x.a.val, b := x.b.val } : Raw).toNat []

/-- Layout M (R173). -/
def immM (ann : Ann) (sc : Scope) (tok : Nat) (scl : BitVec 3) : Nat :=
  ann.code * 2 ^ 13 + sc.code * 2 ^ 10 + tok * 2 ^ 7 + scl.toNat * 2 ^ 4

def encH (mod op : Nat) (x : HArith) : Enc :=
  .slot .a (({ Raw.zero op with mod := mod, d := x.d.val, a := x.a.val, b := x.b.code } : Raw).withPred x.pr).toNat x.b.long?.toList

def encVld (op : Nat) (x : AVld) : Enc :=
  .slot .a (({ Raw.zero op with mod := x.t.code, cls := x.cls.toNat, d := x.d.code, a := x.h.val, b := x.b.code, imm := immM .plain .stream x.tok.val x.scl } : Raw).withPred x.pr).toNat x.b.long?.toList

def encVst (op : Nat) (x : AVst) : Enc :=
  .slot .a (({ Raw.zero op with mod := x.t.code, cls := x.cls.toNat, a := x.h.val, b := x.b.code, c := x.c.code, imm := immM .plain .stream 0 x.scl } : Raw).withPred x.pr).toNat (longs [x.b.long?, x.c.long?])

def encAtom (mod : Nat) (x : AAtom) : Enc :=
  .slot .a (({ Raw.zero 0x0E with mod := mod, cls := x.cls.toNat, d := x.d.code, a := x.h.val, b := x.b.code, c := x.c.code, imm := x.ann.code * 2 ^ 13 + x.scope.code * 2 ^ 10 + x.tok.val * 2 ^ 7 + x.far.toNat * 2 ^ 6 + x.t.code } : Raw).withPred
    x.pr).toNat (longs [x.b.long?, x.c.long?])

def encProbe (mod disp : Nat) (x : AProbe) : Enc :=
  .slot .a (({ Raw.zero 0x10 with mod := mod, cls := x.cls.toNat, d := x.d.code, a := x.h.val, b := x.b.code, imm := x.tok.val * 4096 + disp } : Raw).withPred x.pr).toNat x.b.long?.toList

def encLdres (mod : Nat) (x : ALdres) : Enc :=
  .slot .a (({ Raw.zero 0x13 with mod := mod, d := x.d.code, a := x.h.val, b := x.b.code, imm := immM .plain .stream x.tok.val x.scl } : Raw).withPred x.pr).toNat x.b.long?.toList

/-- CLS of a V word: rounding code and SAT (R199). -/
def clsV (rm : RMode) (sat : Bool) : Nat := rm.code + 8 * sat.toNat

def encVB (op : Nat) (x : VBin) : Enc :=
  .slot .v (({ Raw.zero op with mod := x.t.code, cls := clsV x.rm x.sat, d := x.d.code, a := x.a.code, b := x.b.code } : Raw).withPred
    x.pr).toNat (longs [x.a.long?, x.b.long?])

def encVT (op : Nat) (x : VTri) : Enc :=
  .slot .v (({ Raw.zero op with mod := x.t.code, cls := clsV x.rm x.sat, d := x.d.code, a := x.a.code, b := x.b.code, c := x.c.code } : Raw).withPred x.pr).toNat (longs [x.a.long?, x.b.long?, x.c.long?])

def encVU (op : Nat) (x : VUn) : Enc :=
  .slot .v (({ Raw.zero op with mod := x.t.code, cls := clsV x.rm x.sat, d := x.d.code, a := x.a.code } : Raw).withPred
    x.pr).toNat x.a.long?.toList

def encDxp (scl : Nat) (x : VDxpW) : Enc :=
  .slot .v ({ Raw.zero 0x2E with mod := x.t.code, cls := x.rm.code, d := x.d.code, a := x.a.code, c := x.c.code, imm := x.s.code + x.part.toNat * 16 + scl * 1024 } : Raw).toNat (longs [x.a.long?, x.c.long?])

def encMove (op : Nat) (x : MMoveW) : Enc :=
  .slot .m (({ Raw.zero op with d := x.d.val, a := x.h.val, c := x.c.code } : Raw).withPred x.pr).toNat x.c.long?.toList

def encPerm (op : Nat) (x : XPermW) : Enc :=
  .slot .x (({ Raw.zero op with mod := x.wc.toNat, cls := x.cls.toNat, d := x.d.val, a := x.a.val, b := x.b.code, c := x.c.code, imm := x.tok.val * 2 ^ 7 + x.order.val } : Raw).withPred x.pr).toNat (longs [x.b.long?, x.c.long?])

def encBop (mod : Nat) (x : XBopW) : Enc :=
  .slot .x (({ Raw.zero 0x03 with mod := mod, cls := x.cls.toNat, a := x.a.val, b := x.b.code, c := x.c.val, imm := x.bt.code * 2 ^ 12 + x.tok.val * 2 ^ 7 } : Raw).withPred x.pr).toNat x.b.long?.toList

def encRange (op : Nat) (x : XRangeW) : Enc :=
  .slot .x (({ Raw.zero op with cls := x.cls.toNat, a := x.h.val, b := x.b.code, c := x.c.code, imm := x.tok.val * 2 ^ 7 } : Raw).withPred
    x.pr).toNat (longs [x.b.long?, x.c.long?])

def encEvp (mod : Nat) (x : XEvpW) : Enc :=
  .slot .x (({ Raw.zero 0x07 with mod := mod, d := x.d.val, a := x.a.code, imm := x.tok.val * 2 ^ 7 + x.kinds.toNat } : Raw).withPred
    x.pr).toNat x.a.long?.toList

def encX (r : Raw) (pr : Pred) (li : List (Option Word)) : Enc := .slot .x (r.withPred pr).toNat (longs li)

/-! Graph words (R280). -/

def gw (opc nw fl imm : Nat) : Nat := opc * 2 ^ 24 + nw * 2 ^ 20 + fl * 2 ^ 16 + imm
def zW (z : Fin 64) : Nat := 2 ^ 30 + z.val
def attrW (x : Attr) : Nat := 3 * 2 ^ 30 + x.toNat

def GVal.word : GVal → Nat
  | .z k => zW k
  | .imm v => 2 * 2 ^ 30 + v.toNat

def encColl (kind : Nat) (x : CollW) : Enc :=
  .graph [gw 0x40 2 (kind + 8 * x.exact.toNat) (x.op.code + x.root.toNat * 16), x.dst.toNat, x.src.toNat]

def encGraph : Instr → Enc
  | .graphNop => .graph [gw 0 0 0 0]
  | .halt e => .graph [gw 0x01 0 0 e.toNat]
  | .graphJmp d => .graph [gw 0x02 0 0 d.toNat]
  | .jif c d a b => .graph [gw 0x03 2 c.code d.toNat, a.word, b.word]
  | .loopb sk n none => .graph [gw 0x04 1 0 sk.toNat, n.word]
  | .loopb sk n (some z) => .graph [gw 0x04 2 0 sk.toNat, n.word, zW z]
  | .loope => .graph [gw 0x05 0 0 0]
  | .callg d => .graph [gw 0x06 0 0 d.toNat]
  | .retg => .graph [gw 0x07 0 0 0]
  | .yield => .graph [gw 0x08 0 0 0]
  | .signal w n => .graph [gw 0x09 2 0 0, w.toNat, n.word]
  | .waite w n => .graph [gw 0x0A 2 0 0, w.toNat, n.word]
  | .shld z d k => .graph [gw 0x10 3 0 0, zW z, d.toNat, k.word]
  | .shop .mov z a _ => .graph [gw 0x11 2 13 0, zW z, a.word]
  | .shop op z a b => .graph [gw 0x11 3 op.code 0, zW z, a.word, b.word]
  | .shrd f z d j => .graph [gw 0x12 3 f.val 0, zW z, d.toNat, j.word]
  | .tdef d x => .graph [gw 0x18 2 0 0, d.toNat, attrW x]
  | .tview d s os => .graph (gw 0x19 (2 + os.length) 0 0 :: d.toNat :: s.toNat :: os.map GVal.word)
  | .tsetd p d es => .graph (gw 0x1A (1 + es.length) p.toNat 0 :: d.toNat :: es.map GVal.word)
  | .talloc t d => .graph [gw 0x1B 1 t.code 0, d.toNat]
  | .tfree d => .graph [gw 0x1C 1 0 0, d.toNat]
  | .tpin p d a b => .graph [gw 0x1D 3 p.toNat 0, d.toNat, a.word, b.word]
  | .tres w z n => .graph [gw 0x1E 2 w.toNat 0, zW z, n.word]
  | .fuse e n => .graph [gw 0x20 0 e.toNat n.toNat]
  | .copy d s => .graph [gw 0x28 2 0 0, d.toNat, s.toNat]
  | .convert rm sat d s n => .graph [gw 0x29 3 (rm.code + 8 * sat.toNat) 0, d.toNat, s.toNat, n.word]
  | .permute d s x => .graph [gw 0x2A 3 0 0, d.toNat, s.toNat, attrW x]
  | .matmul acc rm c a b => .graph [gw 0x30 3 (acc.toNat + 2 * rm.code) 0, c.toNat, a.toNat, b.toNat]
  | .attn x => .graph ([gw 0x31 (if x.mask.isSome then 6 else 5) (x.causal.toNat + 2 * x.mask.isSome.toNat) 0, x.o.toNat, x.q.toNat,
      x.k.toNat, x.v.toNat, attrW x.scale] ++ x.mask.toList.map BitVec.toNat)
  | .softmax ax d s => .graph [gw 0x32 2 0 ax.toNat, d.toNat, s.toNat]
  | .norm x => .graph ([gw 0x33 (3 + x.gamma.isSome.toNat + x.beta.isSome.toNat)
      (x.rms.toNat + 2 * x.gamma.isSome.toNat + 4 * x.beta.isSome.toNat) x.axis.toNat, x.dst.toNat, x.src.toNat, attrW x.eps]
      ++ x.gamma.toList.map BitVec.toNat ++ x.beta.toList.map BitVec.toNat)
  | .eltw sat op d a .none => .graph [gw 0x34 2 sat.toNat op.code, d.toNat, a.toNat]
  | .eltw sat op d a (.desc b) => .graph [gw 0x34 3 sat.toNat op.code, d.toNat, a.toNat, b.toNat]
  | .eltw sat op d a (.attr x) => .graph [gw 0x34 3 sat.toNat op.code, d.toNat, a.toNat, attrW x]
  | .reduce op k m d s => .graph [gw 0x35 2 (op.code + 4 * k.toNat) m.toNat, d.toNat, s.toNat]
  | .gather z ax d a i => .graph [gw 0x36 3 z.toNat ax.toNat, d.toNat, a.toNat, i.toNat]
  | .scatter m sk ax d i u => .graph [gw 0x37 3 (m.code + 4 * sk.toNat) ax.toNat, d.toNat, i.toNat, u.toNat]
  | .routeDispatch y x e c => .graph [gw 0x38 4 0 0, y.toNat, x.toNat, e.toNat, c.toNat]
  | .routeCombine x y e w => .graph [gw 0x38 4 1 0, x.toNat, y.toNat, e.toNat, w.toNat]
  | .topk sm k v i s => .graph [gw 0x39 3 sm.toNat k.toNat, v.toNat, i.toNat, s.toNat]
  | .fft inv nrm d s => .graph [gw 0x3A 2 (inv.toNat + 2 * nrm.toNat) 0, d.toNat, s.toNat]
  | .allreduce x => encColl 0 x
  | .reducescatter x => encColl 1 x
  | .allgather x => encColl 2 x
  | .alltoall x => encColl 3 x
  | .broadcast x => encColl 4 x
  | .reshard d s => .graph [gw 0x41 2 0 0, d.toNat, s.toNat]
  | _ => .none

/-- S-slot words (R152). -/
def encSlotS : Instr → Enc
  | .add x => encS 0x01 x | .sub x => encS 0x02 x | .mul x => encS 0x03 x | .mulh x => encS 0x04 x | .div x => encS 0x05 x
  | .rem x => encS 0x06 x | .and x => encS 0x07 x | .or x => encS 0x08 x | .xor x => encS 0x09 x | .andn x => encS 0x0A x
  | .shl x => encS 0x0B x | .shr x => encS 0x0C x | .sar x => encS 0x0D x | .clz x => encSU 0x0E x | .popc x => encSU 0x0F x
  | .min x => encS 0x10 x | .max x => encS 0x11 x
  | .cmp x => .slot .s (({ Raw.zero 0x12 with mod := x.c.code, cls := x.t.code, d := x.d.code, a := x.a.code, b := x.b.code } : Raw).withPred
      x.pr).toNat (longs [x.a.long?, x.b.long?])
  | .sel x => .slot .s (({ Raw.zero 0x13 with mod := x.t.code, d := x.d.code, a := x.a.code, b := x.b.code, c := x.c.code } : Raw).withPred
      x.pr).toNat (longs [x.a.long?, x.b.long?, x.c.long?])
  | .mov x => encSU 0x14 x
  | .bfx x => .slot .s (({ Raw.zero 0x15 with mod := x.t.code, d := x.d.code, a := x.a.code, imm := x.pos.toNat * 64 + x.len1.toNat } : Raw).withPred x.pr).toNat x.a.long?.toList
  | .bfi x => .slot .s (({ Raw.zero 0x16 with mod := x.t.code, d := x.d.code, a := x.a.code, b := x.b.code, imm := x.pos.toNat * 64 + x.len1.toNat } : Raw).withPred x.pr).toNat (longs [x.a.long?, x.b.long?])
  | .br d pr => .slot .s (({ Raw.zero 0x20 with imm := d.toNat } : Raw).withPred pr).toNat []
  | .brc x => .slot .s (({ Raw.zero 0x21 with mod := x.c.code, cls := x.t.code, a := x.a.code, b := x.b.code, imm := x.disp.toNat } : Raw).withPred x.pr).toNat (longs [x.a.long?, x.b.long?])
  | .jmp a pr => .slot .s (({ Raw.zero 0x22 with a := a.code } : Raw).withPred pr).toNat a.long?.toList
  | .callRelative d i pr => .slot .s (({ Raw.zero 0x23 with d := d.code, imm := i.toNat } : Raw).withPred pr).toNat []
  | .callAbsolute d a pr => .slot .s (({ Raw.zero 0x23 with mod := 1, d := d.code, a := a.code } : Raw).withPred pr).toNat a.long?.toList
  | .ret a pr => .slot .s (({ Raw.zero 0x24 with a := a.code } : Raw).withPred pr).toNat a.long?.toList
  | .loop a l => .slot .s ({ Raw.zero 0x25 with a := a.code, imm := l.toNat } : Raw).toNat a.long?.toList
  | .loopp a dp l => .slot .s ({ Raw.zero 0x26 with a := a.code, imm := dp.toNat * 4096 + l.toNat } : Raw).toNat a.long?.toList
  | .lbrk pr => .slot .s ((Raw.zero 0x27).withPred pr).toNat []
  | .pmaskFirst t d a => .slot .s ({ Raw.zero 0x28 with cls := t.code, d := d.val, a := a.code } : Raw).toNat a.long?.toList
  | .pmaskAnd x => encP 1 x | .pmaskOr x => encP 2 x | .pmaskAndn x => encP 3 x | .pmaskXor x => encP 4 x
  | .pmaskNot d a => .slot .s ({ Raw.zero 0x28 with mod := 5, d := d.val, a := a.val } : Raw).toNat []
  | .pmaskIns d a k => .slot .s ({ Raw.zero 0x28 with mod := 6, d := d.val, a := a.code, imm := k.val } : Raw).toNat a.long?.toList
  | .pmaskGet d a k => .slot .s ({ Raw.zero 0x28 with mod := 7, d := d.code, a := a.val, imm := k.val } : Raw).toNat []
  | .slack n => .slot .s ({ Raw.zero 0x29 with imm := n.toNat } : Raw).toNat []
  | .send p a b c => .slot .s ({ Raw.zero 0x2A with a := a.code, b := b.code, c := c.code, imm := p.val } : Raw).toNat
      (longs [a.long?, b.long?, c.long?])
  | .recv d p => .slot .s ({ Raw.zero 0x2B with d := d.code, imm := p.val } : Raw).toNat []
  | .trapi c pr => .slot .s (({ Raw.zero 0x2C with imm := c.toNat } : Raw).withPred pr).toNat []
  | .csrr d n pr => .slot .s (({ Raw.zero 0x2D with d := d.code, imm := n.toNat } : Raw).withPred pr).toNat []
  | .csrw a n pr => .slot .s (({ Raw.zero 0x2E with a := a.code, imm := n.toNat } : Raw).withPred pr).toNat a.long?.toList
  | _ => .none

/-- A-slot words (R178 to R197). -/
def encSlotA : Instr → Enc
  | .hoff x => encH 0 0x01 x | .hnarRights x => encH 0 0x02 x | .hnarLow x => encH 1 0x02 x | .hnarHigh x => encH 2 0x02 x
  | .hget f d a pr => .slot .a (({ Raw.zero 0x03 with mod := f.code, d := d.code, a := a.val } : Raw).withPred pr).toNat []
  | .ld x => .slot .a (({ Raw.zero 0x04 with mod := x.t.code, cls := x.cls.toNat, d := x.d.code, a := x.h.val, b := x.b.code, imm := immM x.ann x.scope x.tok.val x.scl } : Raw).withPred x.pr).toNat x.b.long?.toList
  | .st x => .slot .a (({ Raw.zero 0x05 with mod := x.t.code, cls := x.cls.toNat, a := x.h.val, b := x.b.code, c := x.c.code, imm := immM x.ann x.scope 0 x.scl } : Raw).withPred x.pr).toNat (longs [x.b.long?, x.c.long?])
  | .ldh x => .slot .a (({ Raw.zero 0x06 with cls := x.cls.toNat, d := x.d.val, a := x.h.val, b := x.b.code, imm := immM x.ann x.scope x.tok.val x.scl } : Raw).withPred x.pr).toNat x.b.long?.toList
  | .sth x => .slot .a (({ Raw.zero 0x07 with cls := x.cls.toNat, a := x.h.val, b := x.b.code, c := x.c.val, imm := immM x.ann x.scope 0 x.scl } : Raw).withPred x.pr).toNat x.b.long?.toList
  | .vld x => encVld 0x08 x | .vst x => encVst 0x09 x | .vlds x => encVld 0x0A x | .vsts x => encVst 0x0B x
  | .vgth x => .slot .a (({ Raw.zero 0x0C with mod := x.t.code, cls := x.cls.toNat, d := x.d.code, a := x.h.val, b := x.b.code, imm := immM .plain .stream x.tok.val x.scl } : Raw).withPred x.pr).toNat x.b.long?.toList
  | .vsct x => .slot .a (({ Raw.zero 0x0D with mod := x.t.code, cls := x.cls.toNat, a := x.h.val, b := x.b.code, c := x.c.code, imm := immM .plain .stream 0 x.scl } : Raw).withPred x.pr).toNat (longs [x.b.long?, x.c.long?])
  | .atomAdd x => encAtom 0 x | .atomMin x => encAtom 1 x | .atomMax x => encAtom 2 x | .atomAnd x => encAtom 3 x
  | .atomOr x => encAtom 4 x | .atomXor x => encAtom 5 x | .atomXchg x => encAtom 6 x | .atomCas x => encAtom 7 x
  | .fence m sc pr => .slot .a (({ Raw.zero 0x0F with mod := sc.code, cls := m.toNat / 2 ^ 15, imm := m.toNat % 2 ^ 15 } : Raw).withPred
      pr).toNat []
  | .probe x => encProbe 0 0 x
  | .probeMissTarget x disp => encProbe 1 disp.toNat x
  | .sbind x => .slot .a ({ Raw.zero 0x11 with mod := x.write.toNat, cls := x.cls.toNat, d := 0x30 + x.k.val, a := x.h.val, b := x.b.code, c := x.gc.val } : Raw).toNat x.b.long?.toList
  | .sflush k unb tok => .slot .a ({ Raw.zero 0x12 with mod := (if k.isNone then 1 else 0) + 2 * unb.toNat, d := (match k with | some k => 0x30 + k.val | none => 0), imm := tok.val * 2 ^ 7 } : Raw).toNat []
  | .ldres x => encLdres 0 x | .ldresW x => encLdres 1 x
  | _ => .none

/-- V-slot words (R205). -/
def encSlotV : Instr → Enc
  | .vadd x => encVB 0x01 x | .vsub x => encVB 0x02 x | .vmul x => encVB 0x03 x | .vfma x => encVT 0x04 x | .vfms x => encVT 0x05 x
  | .vmin x => encVB 0x06 x | .vmax x => encVB 0x07 x | .vabs x => encVU 0x08 x | .vneg x => encVU 0x09 x | .vand x => encVB 0x0A x
  | .vor x => encVB 0x0B x | .vxor x => encVB 0x0C x | .vshl x => encVB 0x0D x | .vshr x => encVB 0x0E x | .vsar x => encVB 0x0F x
  | .vcmp x => .slot .v (({ Raw.zero 0x10 with mod := x.t.code, d := x.d.val, a := x.a.code, b := x.b.code, imm := x.c.code } : Raw).withPred
      x.pr).toNat (longs [x.a.long?, x.b.long?])
  | .vsel x => .slot .v (({ Raw.zero 0x11 with mod := x.t.code, d := x.d.code, a := x.a.code, b := x.b.code } : Raw).withPred
      (.on x.neg x.p)).toNat (longs [x.a.long?, x.b.long?])
  | .vmov x => encVU 0x12 x
  | .vbcast x => .slot .v (({ Raw.zero 0x13 with mod := x.t.code, d := x.d.code, a := x.a.code } : Raw).withPred x.pr).toNat x.a.long?.toList
  | .vext x => .slot .v ({ Raw.zero 0x14 with mod := x.t.code, d := x.d.code, a := x.a.code, b := x.b.code } : Raw).toNat
      (longs [x.a.long?, x.b.long?])
  | .vins x => .slot .v ({ Raw.zero 0x15 with mod := x.t.code, d := x.d.code, a := x.a.code, b := x.b.code, c := x.c.code } : Raw).toNat
      (longs [x.a.long?, x.b.long?, x.c.long?])
  | .vcvt x => .slot .v (({ Raw.zero 0x16 with mod := x.t.code, cls := clsV x.rm x.sat, d := x.d.code, a := x.a.code, c := (match x.c with | some c => c.code | none => 0), imm := x.s.code + x.part.toNat * 16 } : Raw).withPred x.pr).toNat
      (longs [x.a.long?, x.c.bind VSrc.long?])
  | .vrint x => encVU 0x17 x | .vdot x => encVT 0x18 x
  | .vclmul x => .slot .v (({ Raw.zero 0x19 with mod := 7, d := x.d.code, a := x.a.code, b := x.b.code, imm := x.hi.toNat } : Raw).withPred
      x.pr).toNat (longs [x.a.long?, x.b.long?])
  | .vrcp x => encVU 0x20 x | .vrsq x => encVU 0x21 x | .vexp2 x => encVU 0x22 x | .vlog2 x => encVU 0x23 x
  | .vtanh x => encVU 0x24 x | .vsigm x => encVU 0x25 x
  | .vred x => .slot .v (({ Raw.zero 0x28 with mod := x.t.code, cls := clsV x.rm x.sat, d := x.d.code, a := x.a.code, imm := x.op.code } : Raw).withPred
      x.pr).toNat x.a.long?.toList
  | .vscan x => .slot .v (({ Raw.zero 0x29 with mod := x.t.code, cls := clsV x.rm x.sat, d := x.d.code, a := x.a.code, imm := x.op.code + 4 * x.inc.toNat } : Raw).withPred x.pr).toNat x.a.long?.toList
  | .vcmpr x => .slot .v (({ Raw.zero 0x2A with mod := x.t.code, d := x.d.code, a := x.a.code, c := x.c.code } : Raw).withPred x.pr).toNat
      x.a.long?.toList
  | .vexpd x => encVU 0x2B x | .vperm x => encVB 0x2C x
  | .vshuf x => .slot .v (({ Raw.zero 0x2D with mod := x.t.code, d := x.d.code, a := x.a.code, b := (match x.b with | some b => b.code | none => 0), imm := x.pat.code * 4096 + x.k.toNat } : Raw).withPred x.pr).toNat
      (longs [x.a.long?, x.b.bind VSrc.long?])
  | .vdxp x => encDxp 0 x | .vdxpScale x => encDxp 1 x
  | .vdxu x => .slot .v ({ Raw.zero 0x2F with mod := x.t.code, cls := clsV x.rm x.sat, d := x.d.code, a := x.a.code, b := x.b.code, imm := x.s.code + x.part.toNat * 16 } : Raw).toNat (longs [x.a.long?, x.b.long?])
  | .vpcnt x => encVU 0x30 x
  | _ => .none

/-- M-slot words (R230). -/
def encSlotM : Instr → Enc
  | .mma x => .slot .m (({ Raw.zero 0x01 with mod := x.t.code, cls := x.bx.toNat, d := x.d.val, a := x.a.val, b := x.b.val, c := x.c.code } : Raw).withPred
      x.pr).toNat x.c.long?.toList
  | .mmas x => .slot .m (({ Raw.zero 0x02 with mod := x.t.code, cls := x.bx.toNat + 2 * x.n64.toNat, d := x.d.val, a := x.a.val, b := x.b.val, c := x.c.code } : Raw).withPred x.pr).toNat x.c.long?.toList
  | .mmdx x => .slot .m (({ Raw.zero 0x03 with mod := 14 + x.dx4.toNat, a := x.a.val, b := x.b.val, c := x.c.code, imm := x.ps.toNat } : Raw).withPred
      x.pr).toNat x.c.long?.toList
  | .msca x => .slot .m (({ Raw.zero 0x04 with mod := 14 + x.dx4.toNat, d := x.d.val, a := x.a.code, b := x.b.code, c := x.c.code, imm := x.ps.toNat } : Raw).withPred x.pr).toNat (longs [x.a.long?, x.b.long?, x.c.long?])
  | .mzero d pr => .slot .m (({ Raw.zero 0x05 with d := d.val } : Raw).withPred pr).toNat []
  | .mdrain x => .slot .m (({ Raw.zero 0x06 with mod := x.out.code, cls := clsV x.rm x.sat, d := x.d.val, a := x.h.val, c := x.c.code, imm := x.kind.code } : Raw).withPred x.pr).toNat x.c.long?.toList
  | .mldacc x => encMove 0x07 x | .mstacc x => encMove 0x08 x
  | .mstat d ac clr pr => .slot .m (({ Raw.zero 0x09 with d := d.code, imm := ac.val + 8 * clr.toNat } : Raw).withPred pr).toNat []
  | _ => .none

/-- X-slot words (R250, R267). -/
def encSlotX : Instr → Enc
  | .xtrn x => encPerm 0x01 x | .xprm x => encPerm 0x02 x
  | .rowz x => encBop 0 x | .rowcp x => encBop 1 x | .rowxf x => encBop 2 x | .badd x => encBop 3 x | .bmax x => encBop 4 x
  | .bmin x => encBop 5 x | .baxpy x => encBop 6 x | .bcnt x => encBop 7 x
  | .xbfen x => encX { Raw.zero 0x04 with mod := (if x.a.isNone then 1 else 0), d := x.d.code, a := (match x.a with | some a => a.val | none => 0), imm := 6 * 2 ^ 10 + x.tok.val * 2 ^ 7 } x.pr []
  | .xbar n => encX { Raw.zero 0x05 with imm := n.val } .always []
  | .xevt a b pr => encX { Raw.zero 0x06 with a := a.code, b := b.code } pr [a.long?, b.long?]
  | .xevpPoll x => encEvp 0 x | .xevpWait x => encEvp 1 x
  | .xtokSet t a pr => encX { Raw.zero 0x08 with a := a.code, imm := t.val * 2 ^ 7 } pr [a.long?]
  | .xtokAdd t a pr => encX { Raw.zero 0x08 with mod := 1, a := a.code, imm := t.val * 2 ^ 7 } pr [a.long?]
  | .xcway n a t pr => encX { Raw.zero 0x09 with a := a.code, imm := t.val * 2 ^ 7 + n.val } pr [a.long?]
  | .xinv x => encRange 0x0A x | .xwb x => encRange 0x0B x | .xpref x => encRange 0x0C x
  | .xcomet x => encX { Raw.zero 0x0D with cls := x.cls.toNat, a := x.a.val, b := x.b.val, c := x.c.code, imm := x.tok.val * 2 ^ 7 } x.pr
      [x.c.long?]
  | .qdld d a k t pr => encX { Raw.zero 0xC0 with d := d.code, a := a.code, imm := t.val * 2 ^ 7 + k.toNat } pr [a.long?]
  | .qdldHandle d a k t pr => encX { Raw.zero 0xC0 with mod := 1, d := d.val, a := a.code, imm := t.val * 2 ^ 7 + k.toNat } pr [a.long?]
  | .qdst a b k pr => encX { Raw.zero 0xC1 with a := a.code, b := b.code, imm := k.toNat } pr [a.long?, b.long?]
  | .qdstHandle a h k pr => encX { Raw.zero 0xC1 with mod := 1, a := a.code, b := h.val, imm := k.toNat } pr [a.long?]
  | .qdimRd d z pr => encX { Raw.zero 0xC2 with d := d.code, imm := z.val } pr []
  | .qdimTiles d z b pr => encX { Raw.zero 0xC2 with mod := 1, d := d.code, b := b.code, imm := z.val } pr [b.long?]
  | .qdimWr z a pr => encX { Raw.zero 0xC2 with mod := 2, a := a.code, imm := z.val } pr [a.long?]
  | .ralc d a b c t pr => encX { Raw.zero 0xC3 with d := d.code, a := a.code, b := b.code, imm := t.val * 2 ^ 7 + c.val } pr [a.long?, b.long?]
  | .rfre a c t pr => encX { Raw.zero 0xC4 with a := a.code, imm := t.val * 2 ^ 7 + c.val } pr [a.long?]
  | .gang cls d h b t pr => encX { Raw.zero 0xC5 with cls := cls.toNat, d := d.code, a := h.val, b := b.code, imm := t.val * 2 ^ 7 } pr [b.long?]
  | .hscbReader a b pr => encX { Raw.zero 0xC6 with a := a.code, b := b.code } pr [a.long?, b.long?]
  | .hscbWriter a b pr => encX { Raw.zero 0xC6 with mod := 1, a := a.code, b := b.code } pr [a.long?, b.long?]
  | .hwaitRd a t pr => encX { Raw.zero 0xC7 with a := a.code, imm := t.val * 2 ^ 7 } pr [a.long?]
  | .hwaitWr a t pr => encX { Raw.zero 0xC7 with mod := 1, a := a.code, imm := t.val * 2 ^ 7 } pr [a.long?]
  | .bcnx d k t pr => encX { Raw.zero 0xC8 with d := d.code, imm := t.val * 2 ^ 7 + k.toNat } pr []
  | .bcnxJmp a pr => encX { Raw.zero 0xC8 with mod := 1, a := a.code } pr [a.long?]
  | .utrap dt a b c pr => encX { Raw.zero 0xC9 with a := a.code, b := b.code, c := c.code, imm := dt.toNat } pr [a.long?, b.long?, c.long?]
  | .qyldEnd pr => encX (Raw.zero 0xCA) pr []
  | .qyldYield pr => encX { Raw.zero 0xCA with mod := 1 } pr []
  | .qyldRepeat pr => encX { Raw.zero 0xCA with mod := 2 } pr []
  | .hmint d a t pr => encX { Raw.zero 0xCB with d := d.val, a := a.val, imm := t.val * 2 ^ 7 } pr []
  | .otinv a t pr => encX { Raw.zero 0xCC with a := a.code, imm := t.val * 2 ^ 7 } pr [a.long?]
  | .qctxKeep => encX (Raw.zero 0xCD) .always []
  | .qctxDrop => encX { Raw.zero 0xCD with mod := 1 } .always []
  | _ => .none

/-- The words of an instruction. -/
def encode (i : Instr) : Enc :=
  match encSlotS i with
  | .none => match encSlotA i with
    | .none => match encSlotV i with
      | .none => match encSlotM i with
        | .none => match encSlotX i with
          | .none => encGraph i
          | e => e
        | e => e
      | e => e
    | e => e
  | e => e

/-- The instruction has words of its own: it is encoded, with at most one long immediate (R131, R147). -/
def Enc.fits : Enc → Bool
  | .slot _ _ li => li.length ≤ 1
  | .graph _ => true
  | .none => false

/-- Decode what `encode` gives, in a bundle of kind k. -/
def decodeEnc (k : Kind) : Enc → Option Instr
  | .slot sl w li => match decodeSlot k sl w li.head? with
    | .ok i => some i
    | .error _ => .none
  | .graph ws => match decodeGraph ws with
    | .ok (i, []) => some i
    | _ => .none
  | .none => .none

/-- The instruction that the decoder reads from a table row's bits: graph code's words, operand words of zeros. -/
def decodeTableWord (_nbits w : Nat) : Option Instr :=
  match decodeGraph [w % 2 ^ 32, 0, 0, 0, 0, 0, 0, 0, 0, 0, 0, 0, 0, 0, 0, 0] with
  | .ok (i, _) => some i
  | .error _ => .none

end Sys2Proof
end

