-- ==== Sys2Proof/Machine/Flags.lean ====
section
/-!
DEFINITION. The exception flags (R56) and every integer result rule: reading a value in an integer type, wrapping,
clamping, comparing, and the scalar operations of R153 to R157 with the flags they set.
-/
namespace Sys2Proof.Machine

/-- NX, SAT, NV, OV in bits 0 to 3 (R56). -/
abbrev Flags := BitVec 4

def fNX : Flags := 1
def fSAT : Flags := 2
def fNV : Flags := 4
def fOV : Flags := 8

def flagIf (c : Bool) (f : Flags) : Flags := if c then f else 0

/-- The low W bits of v read as integer type t (R151); float patterns are read unsigned. -/
def rdInt (t : ElemType) (v : Nat) : Int :=
  let x := v % 2 ^ t.width
  if t.isSigned && 2 ^ (t.width - 1) ≤ x then (x : Int) - 2 ^ t.width else x

/-- The W bits that hold v (R38). -/
def wrapInt (t : ElemType) (v : Int) : Nat := (v % 2 ^ t.width).toNat

/-- Least value of an integer type (R38). -/
def minInt (t : ElemType) : Int := if t.isSigned then -(2 ^ (t.width - 1)) else 0

/-- Greatest value of an integer type (R38). -/
def maxInt (t : ElemType) : Int := if t.isSigned then 2 ^ (t.width - 1) - 1 else 2 ^ t.width - 1

/-- Sat(t, v) (R7). -/
def satInt (t : ElemType) (v : Int) : Int := max (minInt t) (min (maxInt t) v)

/-- Sign-extended for iW, zero-extended otherwise, to 64 bits (R151). -/
def ext64 (t : ElemType) (v : Nat) : Word := BitVec.ofInt 64 (rdInt t v)

/-- An exact value as a result of type t: W bits and flags (R38, R153). -/
def intResult (t : ElemType) (sat : Bool) (v : Int) : Nat × Flags :=
  if sat then (wrapInt t (satInt t v), flagIf (satInt t v ≠ v) fSAT) else (wrapInt t v, 0)

/-- The indefinite value of R154 and R47. -/
def indefInt (t : ElemType) : Int := if t.isSigned then -(2 ^ (t.width - 1)) else 2 ^ t.width - 1

/-- DIV (R154). -/
def divInt (t : ElemType) (sat : Bool) (x y : Int) : Nat × Flags :=
  if y = 0 then (wrapInt t (indefInt t), fNV) else intResult t sat (x.tdiv y)

/-- REM (R154). -/
def remInt (t : ElemType) (x y : Int) : Nat × Flags :=
  if y = 0 then (wrapInt t x, fNV) else (wrapInt t (x.tmod y), 0)

/-- SHL by an unsigned count (R155). -/
def shlInt (t : ElemType) (sat : Bool) (x : Int) (y : Nat) : Nat × Flags :=
  if sat then
    if x = 0 then (0, 0)
    else if t.width ≤ y then (wrapInt t (if x < 0 then minInt t else maxInt t), fSAT)
    else intResult t true (x * 2 ^ y)
  else if t.width ≤ y then (0, 0)
  else (wrapInt t (x * 2 ^ y), 0)

/-- SHR of the W bits (R155). -/
def shrInt (t : ElemType) (x y : Nat) : Nat := if t.width ≤ y then 0 else x % 2 ^ t.width / 2 ^ y

/-- SAR of the W bits: copies of bit W − 1 fill, for iW and nW alike (R155). -/
def sarInt (t : ElemType) (x y : Nat) : Nat :=
  let u := x % 2 ^ t.width
  let s : Int := if 2 ^ (t.width - 1) ≤ u then (u : Int) - 2 ^ t.width else u
  wrapInt t (if t.width ≤ y then (if s < 0 then -1 else 0) else s / 2 ^ y)

/-- Leading zero bits of x in W bits (R153). -/
def clzNat (w x : Nat) : Nat := if x = 0 then w else w - 1 - x.log2

/-- One bits among the low n bits of x (R153). -/
def popNat : Nat → Nat → Nat
  | 0, _ => 0
  | n + 1, x => x % 2 + popNat n (x / 2)

/-- The condition of R157 on the W-bit patterns x and y read as t. -/
def condHolds (c : Cond) (t : ElemType) (x y : Nat) : Bool :=
  let a := rdInt t x
  let b := rdInt t y
  match c with
  | .eq => a == b
  | .ne => a != b
  | .lt => a < b
  | .le => a ≤ b
  | .gt => b < a
  | .ge => b ≤ a
  | .tst => (x &&& y) % 2 ^ t.width != 0
  | .ntst => (x &&& y) % 2 ^ t.width == 0

/-- Bits [pos + len1 : pos] of x (R156). -/
def bfxNat (t : ElemType) (x pos len1 : Nat) : Nat :=
  let f := x % 2 ^ t.width / 2 ^ pos % 2 ^ (len1 + 1)
  if t.isSigned && 2 ^ len1 ≤ f then wrapInt t ((f : Int) - 2 ^ (len1 + 1)) else f

/-- x with bits [pos + len1 : pos] replaced by the low bits of y (R156). -/
def bfiNat (t : ElemType) (x y pos len1 : Nat) : Nat :=
  let u := x % 2 ^ t.width
  let hi := u / 2 ^ (pos + len1 + 1) * 2 ^ (pos + len1 + 1)
  (hi + y % 2 ^ (len1 + 1) * 2 ^ pos + u % 2 ^ pos) % 2 ^ t.width

end Sys2Proof.Machine
end

