-- ==== Sys2Proof/Machine/Float.lean ====
section
/-!
DEFINITION. Number formats and exact arithmetic: encodings (R33 to R43), rounding (R44, R45), overflow and conversion
(R46, R47), matrix summation (R48 to R53), special functions (R216, R217), exact reductions (R58, R59).
Every operation works on exact dyadic numbers and rounds once.
-/
namespace Sys2Proof.Machine

/-- A float format: exponent and fraction widths, bias, infinities (R34 to R36). -/
structure Fmt where
  eb : Nat
  mb : Nat
  bias : Nat
  inf : Bool
  deriving DecidableEq, Repr

/-- The format of a float type (R34 to R36); the fallback is f32. -/
def fmtOf : ElemType → Fmt
  | .f64 => ⟨11, 52, 1023, true⟩
  | .f16 => ⟨5, 10, 15, true⟩
  | .bf16 => ⟨8, 7, 127, true⟩
  | .f8e4 => ⟨4, 3, 7, false⟩
  | .f8e5 => ⟨5, 2, 15, true⟩
  | _ => ⟨8, 23, 127, true⟩

/-- Float types. -/
def isFloat (t : ElemType) : Bool := t.isF || t.isF8

/-- A decoded value: NaN, infinity, or (−1)^neg · m · 2^e exactly. -/
inductive FV where
  | nan
  | inf (neg : Bool)
  | fin (neg : Bool) (m : Nat) (e : Int)
  deriving DecidableEq, Repr

def FV.isNan : FV → Bool
  | .nan => true
  | _ => false

def FV.isZero : FV → Bool
  | .fin _ 0 _ => true
  | _ => false

def FV.neg? : FV → Bool
  | .nan => false
  | .inf n => n
  | .fin n _ _ => n

/-- Exponent of the smallest subnormal. -/
def Fmt.qmin (f : Fmt) : Int := 1 - (f.bias : Int) - f.mb

/-- Pattern of the largest finite value, without sign. -/
def Fmt.maxBits (f : Fmt) : Nat := if f.inf then (2 ^ f.eb - 1) * 2 ^ f.mb - 1 else 2 ^ (f.eb + f.mb) - 2

/-- Canonical NaN (R37). -/
def Fmt.nanBits (f : Fmt) : Nat := if f.inf then (2 ^ f.eb - 1) * 2 ^ f.mb + 2 ^ (f.mb - 1) else 2 ^ (f.eb + f.mb) - 1

def Fmt.signBit (f : Fmt) (neg : Bool) : Nat := if neg then 2 ^ (f.eb + f.mb) else 0

/-- Pattern of an infinity; in f8e4 it is NaN (R46). -/
def Fmt.infBits (f : Fmt) (neg : Bool) : Nat := if f.inf then f.signBit neg + (2 ^ f.eb - 1) * 2 ^ f.mb else f.nanBits

/-- Read a pattern (R34 to R36). -/
def Fmt.decode (f : Fmt) (bits : Nat) : FV :=
  let neg := bits / 2 ^ (f.eb + f.mb) % 2 == 1
  let e := bits / 2 ^ f.mb % 2 ^ f.eb
  let m := bits % 2 ^ f.mb
  if f.inf && e == 2 ^ f.eb - 1 then (if m = 0 then .inf neg else .nan)
  else if !f.inf && bits % 2 ^ (f.eb + f.mb) == f.nanBits then .nan
  else if e = 0 then .fin neg m f.qmin
  else .fin neg (2 ^ f.mb + m) (f.qmin + (e : Int) - 1)

/-! ### Rounding -/

/-- Shift right by s with the rounding rule: the rounded value and whether it is inexact. `draw` is the draw of SR (R45). -/
def roundShift (mode : RMode) (neg : Bool) (draw m s : Nat) : Nat × Bool :=
  let t := m / 2 ^ s
  let rem := m % 2 ^ s
  let half := 2 ^ s / 2
  let up := match mode with
    | .rne | .dyn => half < rem || (rem == half && rem != 0 && t % 2 == 1)
    | .rz => false
    | .ru => rem != 0 && !neg
    | .rd => rem != 0 && neg
    | .rna => rem != 0 && half ≤ rem
    | .sr => 2 ^ 32 ≤ rem * 2 ^ 32 / 2 ^ s + draw
  (if up then t + 1 else t, rem != 0)

/-- An overflowing result (R46). -/
def overflowBits (f : Fmt) (mode : RMode) (sat neg : Bool) : Nat × Flags :=
  if sat then (f.signBit neg + f.maxBits, fSAT ||| fNX)
  else
    let toInf := match mode with
      | .rz => false
      | .ru => !neg
      | .rd => neg
      | .rne | .rna | .sr | .dyn => true
    (if toInf then f.infBits neg else f.signBit neg + f.maxBits, fOV ||| fNX)

/-- Round(f, (−1)^neg · m · 2^e, mode) with R46. A zero m gives a zero of that sign. -/
def roundFin (f : Fmt) (mode : RMode) (sat : Bool) (draw : Nat) (neg : Bool) (m : Nat) (e : Int) : Nat × Flags :=
  if m = 0 then (f.signBit neg, 0)
  else
    let top : Int := (m.log2 : Int) + e
    let emin : Int := 1 - f.bias
    let q : Int := (if top < emin then emin else top) - f.mb
    let r := if q ≤ e then (m * 2 ^ (e - q).toNat, false) else roundShift mode neg draw m (q - e).toNat
    let bits := ((q - f.qmin) * 2 ^ f.mb).toNat + r.1
    if f.maxBits < bits then overflowBits f mode sat neg
    else (f.signBit neg + bits, flagIf r.2 fNX)

/-- Round a decoded value, specials included: NaN stays the canonical NaN, an infinity stays an infinity. -/
def roundFV (f : Fmt) (mode : RMode) (sat : Bool) (draw : Nat) : FV → Nat × Flags
  | .nan => (f.nanBits, 0)
  | .inf n => (f.infBits n, 0)
  | .fin n m e => roundFin f mode sat draw n m e

/-! ### Exact sums and products -/

/-- The signed numerator of a finite value at exponent q ≤ e. -/
def atExp (neg : Bool) (m : Nat) (e q : Int) : Int :=
  let v : Int := (m * 2 ^ (e - q).toNat : Nat)
  if neg then -v else v

/-- The least exponent among the finite non-zero terms. -/
def minExp : List FV → Option Int
  | [] => none
  | .fin _ m e :: l => match minExp l with
    | none => if m = 0 then none else some e
    | some q => if m = 0 then some q else some (min q e)
  | _ :: l => minExp l

def sumAt (q : Int) : List FV → Int
  | [] => 0
  | .fin n m e :: l => (if m = 0 then 0 else atExp n m e q) + sumAt q l
  | _ :: l => sumAt q l

/-- The exact sum of values: NaN if any is NaN or infinities of both signs meet (NV in the second case alone). A sum that is
exactly zero has the common sign of its terms, and otherwise is +0, or −0 under RD (R37, IEEE 754). -/
def sumFV (mode : RMode) (l : List FV) : FV × Bool :=
  if l.any FV.isNan then (.nan, false)
  else
    let pinf := l.any fun x => x == .inf false
    let ninf := l.any fun x => x == .inf true
    if pinf && ninf then (.nan, true)
    else if pinf then (.inf false, false)
    else if ninf then (.inf true, false)
    else
      let z := if l.all FV.neg? && !l.isEmpty then true else if l.all fun x => !x.neg? then false else mode == .rd
      match minExp l with
      | none => (.fin z 0 0, false)
      | some q =>
        let s := sumAt q l
        if s = 0 then (.fin z 0 0, false) else (.fin (s < 0) s.natAbs q, false)

/-- The exact product; 0 · infinity is NaN with NV. -/
def mulFV : FV → FV → FV × Bool
  | .nan, _ => (.nan, false)
  | _, .nan => (.nan, false)
  | .inf a, .inf b => (.inf (a != b), false)
  | .inf a, .fin b m _ => if m = 0 then (.nan, true) else (.inf (a != b), false)
  | .fin a m _, .inf b => if m = 0 then (.nan, true) else (.inf (a != b), false)
  | .fin a m e, .fin b n k => (.fin (a != b) (m * n) (e + k), false)

def FV.negate : FV → FV
  | .nan => .nan
  | .inf n => .inf !n
  | .fin n m e => .fin (!n) m e

/-- x + y, rounded (R206). -/
def fAdd (f : Fmt) (mode : RMode) (sat : Bool) (x y : FV) : Nat × Flags :=
  let s := sumFV mode [x, y]
  let r := roundFV f mode sat 0 s.1
  (r.1, r.2 ||| flagIf s.2 fNV)

/-- x · y, rounded (R206). -/
def fMul (f : Fmt) (mode : RMode) (sat : Bool) (x y : FV) : Nat × Flags :=
  let p := mulFV x y
  let r := roundFV f mode sat 0 p.1
  (r.1, r.2 ||| flagIf p.2 fNV)

/-- x · y + z with one rounding (R206). A NaN among the operands does not set NV (R37). -/
def fFma (f : Fmt) (mode : RMode) (sat : Bool) (x y z : FV) : Nat × Flags :=
  let p := mulFV x y
  let s := sumFV mode [p.1, z]
  let r := roundFV f mode sat 0 s.1
  (r.1, r.2 ||| flagIf ((p.2 && !z.isNan) || s.2) fNV)

/-! ### Comparison -/

/-- x < y for values that are not NaN, with −0 below +0 when `zeros` (R207), and equal to it otherwise (R209). -/
def fLt (zeros : Bool) (x y : FV) : Bool :=
  match x, y with
  | .nan, _ | _, .nan => false
  | .inf a, .inf b => a && !b
  | .inf a, .fin _ _ _ => a
  | .fin _ _ _, .inf b => !b
  | .fin a m e, .fin b n k =>
    if m = 0 ∧ n = 0 then zeros && a && !b
    else
      let q := min e k
      atExp a m e q < atExp b n k q

def fEq (x y : FV) : Bool := !x.isNan && !y.isNan && !fLt false x y && !fLt false y x

/-- VMIN and VMAX on floats (R207): patterns in, pattern out. -/
def fMinMax (f : Fmt) (isMax : Bool) (a b : Nat) : Nat :=
  let x := f.decode a
  let y := f.decode b
  if x.isNan || y.isNan then f.nanBits
  else if isMax then (if fLt true x y then b else a)
  else (if fLt true y x then b else a)

/-! ### Stochastic rounding (R45) -/

/-- One draw: the new state, which is the draw. -/
def srDraw (seed : BitVec 32) : BitVec 32 :=
  let x := if seed = 0 then 1 else seed
  let x := x ^^^ (x <<< 13)
  let x := x ^^^ (x >>> 17)
  x ^^^ (x <<< 5)

/-! ### Conversions (R47) -/

/-- Round an exact value to an integer: the integer and whether a non-zero fraction is discarded. -/
def roundToInt (mode : RMode) (neg : Bool) (m : Nat) (e : Int) : Int × Bool :=
  let r := if 0 ≤ e then (m * 2 ^ e.toNat, false) else roundShift mode neg 0 m (-e).toNat
  (if neg then -(r.1 : Int) else r.1, r.2)

/-- Float to integer (R47). -/
def floatToInt (t : ElemType) (mode : RMode) (sat : Bool) : FV → Nat × Flags
  | .nan => if sat then (0, fSAT) else (wrapInt t (indefInt t), fNV)
  | .inf n => if sat then (wrapInt t (if n then minInt t else maxInt t), fSAT) else (wrapInt t (indefInt t), fNV)
  | .fin n m e =>
    let r := roundToInt mode n m e
    let nx := flagIf r.2 fNX
    if minInt t ≤ r.1 ∧ r.1 ≤ maxInt t then (wrapInt t r.1, nx)
    else if sat then (wrapInt t (satInt t r.1), fSAT ||| nx)
    else (wrapInt t (indefInt t), fNV ||| nx)

/-- An infinity into a format without infinities (R47). -/
def convInf (f : Fmt) (sat neg : Bool) : Nat × Flags :=
  if f.inf then (f.infBits neg, 0)
  else if sat then (f.signBit neg + f.maxBits, fSAT)
  else (f.nanBits, fNV)

/-- An exact value into a float format under R47. -/
def toFloat (t : ElemType) (mode : RMode) (sat : Bool) (draw : Nat) : FV → Nat × Flags
  | .inf n => convInf (fmtOf t) sat n
  | x => roundFV (fmtOf t) mode sat draw x

/-- The value of a W-bit pattern of a float or integer type. -/
def valueOf (t : ElemType) (bits : Nat) : FV :=
  if isFloat t then (fmtOf t).decode (bits % 2 ^ t.width)
  else
    let v := rdInt t bits
    .fin (v < 0) v.natAbs 0

/-- Conv of R47 between integer and float types. -/
def convert (t s : ElemType) (mode : RMode) (sat : Bool) (draw bits : Nat) : Nat × Flags :=
  if isFloat t then toFloat t mode sat draw (valueOf s bits)
  else if isFloat s then floatToInt t mode sat (valueOf s bits)
  else intResult t sat (rdInt s bits)

/-! ### Constant table (R137) -/

/-- ln 2 in fixed point with 512 fraction bits. -/
def ln2Bits : Nat := 0xb17217f7d1cf79abc9e3b39803f2f6af40f343267298b62d8a0d175b8baafa2be7b876206debac98559552fb4afa1b10ed2eae35c138214427573b291169b825

/-- Integer square root by bits: the greatest r with r² ≤ n, built from bit k downward. -/
def isqrtGo (n : Nat) : Nat → Nat → Nat
  | 0, r => r
  | k + 1, r => if (r + 2 ^ k) * (r + 2 ^ k) ≤ n then isqrtGo n k (r + 2 ^ k) else isqrtGo n k r

def isqrt (n : Nat) : Nat := isqrtGo n (n.log2 / 2 + 1) 0

/-- The exact or 512-bit value of a constant-table entry as a float value; the low bit of an irrational or non-dyadic entry
is set, so that no rounding sees a tie. -/
def constVal (k : Nat) : FV :=
  if k < 32 then .fin false k 0
  else if k < 40 then .fin true (k - 31) 0
  else if k < 48 then .fin false 1 ((k : Int) - 48)
  else if k < 56 then .fin false 1 ((k : Int) - 48)
  else match k with
    | 56 => .fin false (2 ^ 512 / 3 * 2 + 1) (-513)
    | 57 => .fin false (2 ^ 512 / 5 * 2 + 1) (-513)
    | 58 => .fin false (2 ^ 512 / 6 * 2 + 1) (-513)
    | 59 => .fin false (2 ^ 512 / 7 * 2 + 1) (-513)
    | 60 => .fin false (2 ^ 512 / 9 * 2 + 1) (-513)
    | 61 => .fin false (2 ^ 512 / 10 * 2 + 1) (-513)
    | 62 => .fin false (isqrt (2 ^ 1023) * 2 + 1) (-513)
    | _ => .fin false (ln2Bits * 2 + 1) (-513)

/-- A constant-table entry in type t as a W-bit pattern (R137); dx types have none. -/
def constBits (t : ElemType) (k : Fin 64) : Nat :=
  if isFloat t then (roundFV (fmtOf t) .rne false 0 (constVal k.val)).1
  else if k.val < 32 then k.val % 2 ^ t.width
  else if k.val < 40 then wrapInt t (31 - (k.val : Int))
  else if k.val < 48 then 0
  else 2 ^ (k.val - 48) % 2 ^ t.width

/-! ### Special functions (R216, R217)

Values are dyadic numbers m · 2^e whose low bit marks an inexact value, exact enough that no rounding into the formats of
R216 can differ. -/

/-- Fraction bits of the fixed-point series. -/
def fxBits : Nat := 512

/-- Σ y^n / n! in fixed point, from term n upward; `term` is y^n / n!. -/
def expSeries (y : Nat) : Nat → Nat → Nat → Nat
  | 0, _, _ => 0
  | fuel + 1, n, term => term + expSeries y fuel (n + 1) (term * y / 2 ^ fxBits / (n + 1))

/-- 2^f for f / 2^512 in [0, 1), in fixed point. -/
def exp2Frac (f : Nat) : Nat := expSeries (f * ln2Bits / 2 ^ fxBits) 130 0 (2 ^ fxBits)

/-- floor(x · 2^512) of a finite value. -/
def toFixed (neg : Bool) (m : Nat) (e : Int) : Int :=
  let s := e + fxBits
  let v : Int := if 0 ≤ s then (m : Int) * 2 ^ s.toNat else (m / 2 ^ (-s).toNat : Nat)
  if neg then -v else v

/-- 2^x for x / 2^512: mantissa at 2^−512 and exponent. -/
def exp2Fixed (x : Int) : Nat × Int := (exp2Frac (x % 2 ^ fxBits).toNat, x / 2 ^ fxBits)

/-- x · log2 e in fixed point. -/
def timesLog2e (x : Int) : Int := x * 2 ^ fxBits / (ln2Bits : Int)

/-- atanh series Σ z^(2n+1)/(2n+1) in fixed point; `term` is z^(2n+1). -/
def atanhSeries (z2 : Nat) : Nat → Nat → Nat → Nat
  | 0, _, _ => 0
  | fuel + 1, n, term => term / (2 * n + 1) + atanhSeries z2 fuel (n + 1) (term * z2 / 2 ^ fxBits)

/-- log2 of m · 2^e in fixed point (m > 0). -/
def log2Fixed (m : Nat) (e : Int) : Int :=
  let k := m.log2
  let z := (m - 2 ^ k) * 2 ^ fxBits / (m + 2 ^ k)
  let ln := 2 * atanhSeries (z * z / 2 ^ fxBits) 170 0 z
  ((k : Int) + e) * 2 ^ fxBits + (ln * 2 ^ fxBits / ln2Bits : Nat)

/-- The quotient a / b with a sticky low bit: m · 2^e. -/
def divSticky (a b : Nat) : Nat × Int :=
  let q := a * 2 ^ 600 / b
  (q * 2 + (if a * 2 ^ 600 % b = 0 then 0 else 1), -601)

/-- An inexact positive value at exponent e: the low bit set. -/
def sticky (m : Nat) (e : Int) : FV := .fin false (m * 2 + 1) (e - 1)

/-- Largest fixed-point exponent argument that is still computed; beyond it every format has overflowed or underflowed. -/
def clampX (x : Int) : Int := max (-(2000 * 2 ^ fxBits)) (min (2000 * 2 ^ fxBits) x)

/-- The exact result of a special function on a finite argument other than the table's zeros, with the cases that set no NX:
a value whose low bit is sticky, and whether it is exact. -/
def specialVal (s : Config.Special) (neg : Bool) (m : Nat) (e : Int) : FV × Bool :=
  match s with
  | .rcp =>
    let q := divSticky 1 m
    (.fin neg q.1 (q.2 - e), decide (m = 2 ^ m.log2))
  | .rsq =>
    let odd := e % 2 = 1
    let m' := if odd then 2 * m else m
    let e' := if odd then e - 1 else e
    let r := isqrt (2 ^ 1200 / m')
    let exact := decide (m' = 2 ^ m'.log2 ∧ m'.log2 % 2 = 0)
    (.fin false (r * 2 + (if exact then 0 else 1)) (-601 - e' / 2), exact)
  | .exp2 =>
    let x := clampX (toFixed neg m e)
    let r := exp2Fixed x
    if x % 2 ^ fxBits = 0 then (.fin false 1 r.2, true) else (sticky r.1 (r.2 - fxBits), false)
  | .log2 =>
    if m = 2 ^ m.log2 then
      let v : Int := (m.log2 : Int) + e
      (.fin (v < 0) v.natAbs 0, true)
    else
      let v := log2Fixed m e
      (.fin (v < 0) (v.natAbs * 2 + 1) (-(fxBits : Int) - 1), false)
  | .tanh =>
    let x := toFixed false m e
    if 2 ^ (fxBits + 6) ≤ x then (.fin neg (2 ^ 200 - 1) (-200), false)
    else
      -- (e^2x − 1) / (e^2x + 1), with e^2x = r.1 · 2^(r.2 − 512)
      let r := exp2Fixed (timesLog2e (2 * x))
      let ex := r.1 * 2 ^ r.2.toNat
      let q := divSticky (ex - 2 ^ fxBits) (ex + 2 ^ fxBits)
      (.fin neg (q.1 / 2 * 2 + 1) q.2, false)
  | .sigm =>
    -- 1 / (1 + e^−x), with e^−x = r.1 · 2^(r.2 − 512); both sides scaled by 2^r.2 where that is positive
    let r := exp2Fixed (timesLog2e (clampX (toFixed (!neg) m e)))
    let up := r.2.toNat
    let q := divSticky (2 ^ fxBits * 2 ^ up) (2 ^ fxBits + r.1 * 2 ^ up / 2 ^ (-r.2).toNat)
    (.fin false (q.1 / 2 * 2 + 1) (q.2 - up), false)

/-- Special inputs (R217): the result, when the table or NaN rule gives one. -/
def specialTable (s : Config.Special) (f : Fmt) (x : FV) : Option (Nat × Flags) :=
  let one := (f.bias : Nat) * 2 ^ f.mb
  match s, x with
  | _, .nan => some (f.nanBits, 0)
  | .rcp, .inf n => some (f.signBit n, 0)
  | .rcp, .fin n 0 _ => some (f.infBits n, 0)
  | .rsq, .inf n => if n then some (f.nanBits, fNV) else some (0, 0)
  | .rsq, .fin n 0 _ => some (f.infBits n, 0)
  | .rsq, .fin true _ _ => some (f.nanBits, fNV)
  | .exp2, .inf n => if n then some (0, 0) else some (f.infBits false, 0)
  | .exp2, .fin _ 0 _ => some (one, 0)
  | .log2, .inf n => if n then some (f.nanBits, fNV) else some (f.infBits false, 0)
  | .log2, .fin _ 0 _ => some (f.infBits true, 0)
  | .log2, .fin true _ _ => some (f.nanBits, fNV)
  | .tanh, .inf n => some (f.signBit n + one, 0)
  | .tanh, .fin n 0 _ => some (f.signBit n, 0)
  | .sigm, .inf n => if n then some (0, 0) else some (one, 0)
  | .sigm, .fin _ 0 _ => some ((f.bias - 1) * 2 ^ f.mb, 0)
  | _, _ => none


/-- A non-negative difference of two magnitudes, and their sum. -/
def magSub (a b : FV) : FV := match (sumFV .rne [a, b.negate]).1 with | .fin false m e => .fin false m e | _ => .fin false 0 0
def magAdd (a b : FV) : FV := (sumFV .rne [a, b]).1
def magMax (a b : FV) : FV := if fLt false a b then b else a
def magMin (a b : FV) : FV := if fLt false b a then b else a

/-- The magnitudes between which the f32 result of function s on `arg` lies where its exact magnitude is m · 2^e (R216): the
error bound, narrowed to what monotonicity leaves beside the exact results of R217. -/
def specialBounds (s : Config.Special) (arg : FV) (m : Nat) (e : Int) : FV × FV :=
  let top : Int := (m.log2 : Int) + e
  let u := FV.fin false 1 ((if top < -126 then -126 else top) - 23)
  let y := FV.fin false m e
  let p := fun (n : Nat) (k : Int) => FV.fin false n k
  let near := fun (b lo hi : FV) => (magMax (magSub y b) lo, magMin (magAdd y b) hi)
  let two := magAdd u u
  let binade := (if top < -149 then p 0 0 else p 1 top, p 1 (top + 1))
  let tiny := decide (top < -20)
  let sig := fun (lo hi : FV) =>
    if tiny then near (p 1 (-24)) lo (p 4194305 (-42))
    else near two (magMax lo (if top = -20 then p 0 0 else magSub (p 1 top) u)) hi
  match s with
  | .rcp | .rsq => near u binade.1 binade.2
  | .exp2 => near two binade.1 binade.2
  | .log2 =>
    if !fLt false arg (p 1 (-1)) && !fLt false (p 1 1) arg then near (p 1 (-22)) (p 0 0) (p 1 0)
    else
      let n := m / 2 ^ (-e).toNat
      near two (p n 0) (p (n + 1) 0)
  | .tanh => sig (p 0 0) (p 1 0)
  | .sigm => match arg with
    | .fin true _ _ => sig (p 0 0) (p 1 (-1))
    | _ => sig (p 1 (-1)) (p 1 0)

/-- An f32 pattern's place in the order of the values, raised by the functions whose magnitude rises with the argument. -/
def argKey (bits : Nat) : Nat := if bits < 2 ^ 31 then 2 ^ 31 + bits else 2 ^ 32 - 1 - bits

/-- The argument's place in the order in which the result's magnitude rises (R216). -/
def specialKey (s : Config.Special) (bits : Nat) : Nat :=
  let k := argKey bits
  match s with
  | .rcp => if bits < 2 ^ 31 then 2 ^ 32 - 1 - k else k
  | .rsq => 2 ^ 32 - 1 - k
  | .log2 => if bits < 0x3F800000 then 2 ^ 32 - 1 - k else k
  | .tanh => if bits < 2 ^ 31 then k else 2 ^ 32 - 1 - k
  | .exp2 | .sigm => k

/-- Descend n levels of a tree of thresholds: right where the key has reached the node's threshold. Whatever the thresholds
are, the leaf rises with the key, and every rising function of the key is some tree. -/
def descend (thr : Nat → Nat) (key : Nat) : Nat → Nat → Nat
  | 0, node => node
  | n + 1, node => descend thr key n (2 * node + (if thr node ≤ key then 1 else 0))

/-- The unpublished f32 result (R216) as a magnitude: a free fixed function of the argument that is monotonic and keeps the
bound. `side` tells the two sides of zero, or of one, apart. -/
def special32Mag (s : Config.Special) (bits : Nat) (neg : Bool) (arg : FV) (m : Nat) (e : Int) : Nat :=
  let side := if neg then 2 ^ 31 else 0
  let c := descend (fun n => (Config.special32 s (BitVec.ofNat 32 (n + side))).toNat) (specialKey s bits) 31 1 - 2 ^ 31
  let b := specialBounds s arg m e
  max (roundFV (fmtOf .f32) .ru false 0 b.1).1 (min (roundFV (fmtOf .f32) .rd false 0 b.2).1 c)

/-- A special function on a pattern of type t: exact and rounded once for f16 and bf16; for f32 the unpublished fixed value
(R216), but +0 where VEXP2 falls below half the smallest subnormal (R217). -/
def specialFn (s : Config.Special) (t : ElemType) (sat : Bool) (bits : Nat) : Nat × Flags :=
  let f := fmtOf t
  let x := f.decode (bits % 2 ^ t.width)
  match specialTable s f x with
  | some r => r
  | none => match x with
    | .fin n m e =>
      let y := specialVal s n m e
      let r := roundFV f .rne sat 0 y.1
      let flags := (r.2 &&& ~~~ fNX) ||| flagIf (!y.2 || r.2 &&& fNX ≠ 0) fNX
      if t = .f32 ∧ r.2 &&& fOV = 0 ∧ r.2 &&& fSAT = 0 ∧ !y.2 ∧ !(s = .exp2 ∧ r.1 = 0) then
        match y.1 with
        | .fin yn ym ye => (f.signBit yn + special32Mag s (bits % 2 ^ 32) yn x ym ye, flags)
        | _ => (r.1, flags)
      else (r.1, flags)
    | _ => (f.nanBits, 0)

/-! ### Matrix runs (R48 to R53) -/

/-- The exact sum of a run's products (R48): NaN with NV if a product is NaN or infinities of both signs meet. -/
def runSum (ps : List (FV × FV)) : FV × Bool :=
  let prods := ps.map fun p => (mulFV p.1 p.2).1
  if prods.any FV.isNan then (.nan, true)
  else
    let s := sumFV .rne prods
    (s.1, s.2)

/-- One run into the accumulator: Round(run), then Round(acc + run) (R48). -/
def runStep (acc : Nat × Flags) (ps : List (FV × FV)) : Nat × Flags :=
  let f := fmtOf .f32
  let s := runSum ps
  let r := roundFV f .rne false 0 s.1
  let a := fAdd f .rne false (f.decode acc.1) (f.decode r.1)
  (a.1, acc.2 ||| flagIf s.2 fNV ||| r.2 ||| a.2)

/-- Cut a list into runs of n. -/
def chunks {α : Type} (n : Nat) : Nat → List α → List (List α)
  | 0, _ => []
  | fuel + 1, l => if l.isEmpty then [] else l.take n :: chunks n fuel (l.drop n)

/-- The update of one element along k (R48, R49, R50): `fa`, `fb` are the operand types, `l` the patterns paired in
increasing k; for i8 the accumulator is i32, for f64 a chain of fused multiply-adds, otherwise runs of 32 (4 in f32). -/
def mmaChain (fa fb : ElemType) (acc : Nat) (l : List (Nat × Nat)) : Nat × Flags :=
  match fa with
  | .i8 =>
    (chunks 32 l.length l).foldl (fun a run =>
      let s := run.foldl (fun (z : Int) p => z + rdInt .i8 p.1 * rdInt .i8 p.2) 0
      let r := intResult .i32 true (rdInt .i32 a.1 + s)
      (r.1, a.2 ||| r.2)) (acc, 0)
  | .f64 =>
    l.foldl (fun a p =>
      let f := fmtOf .f64
      let r := fFma f .rne false (f.decode p.1) (f.decode p.2) (f.decode a.1)
      (r.1, a.2 ||| r.2)) (acc, 0)
  | _ =>
    (chunks (if fa = .f32 then 4 else 32) l.length l).foldl (fun a run =>
      runStep a (run.map fun p => (valueOf fa p.1, valueOf fb p.2))) (acc, 0)

/-! ### Dual-exponent blocks (R39 to R42) -/

/-- Magnitude bits, M, G and the unit offset of a dx type (R39, R42). -/
def dxMagBits (dx4 : Bool) : Nat := if dx4 then 2 else 6
def dxMax (dx4 : Bool) : Nat := if dx4 then 3 else 63
def dxGap (dx4 : Bool) : Nat := if dx4 then 2 else 6
def dxBias (dx4 : Bool) : Int := if dx4 then 128 else 132

/-- Selector, sign and magnitude of an element (R39). -/
def dxFields (dx4 : Bool) (b : Nat) : Bool × Bool × Nat :=
  let k := dxMagBits dx4
  (b / 2 ^ (k + 1) % 2 == 1, b / 2 ^ k % 2 == 1, b % 2 ^ k)

/-- The exponent that an element selects in a scale word (R40). -/
def dxExp (sel : Bool) (scale : Nat) : Nat := if sel then scale / 256 % 256 else scale % 256

/-- The exact value of an element under a scale word (R41). -/
def dxVal (dx4 : Bool) (b scale : Nat) : FV :=
  let x := dxFields dx4 b
  let e := dxExp x.1 scale
  if e = 0 ∨ x.2.2 = 0 then .fin false 0 0 else .fin x.2.1 x.2.2 ((e : Int) - dxBias dx4)

/-- |x| < 2^−126 and the like: subnormal source values read as zero (R42 step 1). -/
def dxSource (t : ElemType) (bits : Nat) : FV :=
  let f := fmtOf t
  match f.decode (bits % 2 ^ t.width) with
  | .fin n m e => if m < 2 ^ f.mb then .fin n 0 0 else .fin n m e
  | x => x

/-- floor(log2 A) of the largest magnitude A of a block, when it has a non-zero value. -/
def blockTop : List FV → Option Int
  | [] => none
  | .fin _ m e :: l =>
    let r := blockTop l
    if m = 0 then r else
    let t := (m.log2 : Int) + e
    match r with | none => some t | some u => some (max t u)
  | _ :: l => blockTop l

/-- The scale word of a block (R42 step 3). -/
def dxScale (dx4 : Bool) (l : List FV) : Nat :=
  if l.any fun x => match x with | .fin _ _ _ => false | _ => true then 0
  else match blockTop l with
    | none => 0
    | some t =>
      let eh := (min 255 (max 1 (t + 127))).toNat
      eh * 256 + (if dxGap dx4 < eh then eh - dxGap dx4 else 0)

/-- round(|x| / 2^u) of the magnitude m · 2^e: the integer and whether it is inexact. The quotient is not negative, whatever the
element's sign. -/
def dxQuot (mode : RMode) (draw m : Nat) (e u : Int) : Nat × Bool :=
  if u ≤ e then (m * 2 ^ (e - u).toNat, false) else roundShift mode false draw m (u - e).toNat

/-- One element under a scale word (R42 step 4). -/
def dxElem (dx4 : Bool) (mode : RMode) (draw scale : Nat) (x : FV) : Nat × Flags :=
  match x with
  | .fin n m e =>
    let k := dxMagBits dx4
    let el := scale % 256
    let ul : Int := (el : Int) - dxBias dx4
    let uh : Int := ((scale / 256 : Nat) : Int) - dxBias dx4
    if scale = 0 ∨ m = 0 then (0, 0)
    else if el ≠ 0 ∧ !fLt false (.fin false (dxMax dx4) ul) (.fin false m e) then
      let r := dxQuot mode draw m e ul
      (if r.1 = 0 then 0 else (if n then 2 ^ k else 0) + r.1, flagIf r.2 fNX)
    else
      let r := dxQuot mode draw m e uh
      let mag := min (dxMax dx4) r.1
      (if mag = 0 then 0 else 2 ^ (k + 1) + (if n then 2 ^ k else 0) + mag,
        flagIf (r.2 || mag ≠ r.1) fNX ||| flagIf (mag ≠ r.1) fSAT)
  | _ => (0, 0)

/-- R42 step 2: a block with a NaN or an infinity sets NV. -/
def dxBlockNV (l : List FV) : Flags := flagIf (l.any fun x => match x with | .fin _ _ _ => false | _ => true) fNV

/-- MSCA of one element (R53): planes in the order hh, hl, lh, ll. -/
def mscaElem (dx4 : Bool) (planes : Nat → Int) (sa sb acc : Nat) : Nat × Flags :=
  let z : Int := if dx4 then 256 else 264
  let term := fun (k : Nat) (xh yh : Bool) =>
    let ea := dxExp xh sa
    let eb := dxExp yh sb
    let v := planes k
    if ea = 0 ∨ eb = 0 ∨ v = 0 then FV.fin false 0 0 else FV.fin (v < 0) v.natAbs ((ea : Int) + eb - z)
  let f := fmtOf .f32
  let t := sumFV .rne [term 0 true true, term 1 true false, term 2 false true, term 3 false false]
  let s := sumFV .rne [f.decode acc, t.1]
  let r := roundFV f .rne false 0 s.1
  (r.1, r.2 ||| flagIf s.2 fNV)

/-- Phase 2 of an exact reduction (R59): the dxw integer of an element under the agreed high exponent. -/
def dxwInt (dx4 : Bool) (b scale ehStar : Nat) : Int :=
  let x := dxFields dx4 b
  let e := dxExp x.1 scale
  if e = 0 then 0
  else
    let r := roundToInt .rne false x.2.2 ((e : Int) - ehStar + dxGap dx4)
    if x.2.1 then -r.1 else r.1

/-- Sat(dxw, v) as its 32-bit container, with the SAT flag (R43). -/
def dxwStore (v : Int) : Nat × Flags :=
  let c := max (-(2 ^ 23)) (min (2 ^ 23 - 1) v)
  ((c % (2 ^ 32 : Int)).toNat, flagIf (c ≠ v) fSAT)

/-- A dxw container read: bits [23:0] as an integer (R43). -/
def dxwRead (w : Nat) : Int :=
  let x : Nat := w % 2 ^ 24
  if 2 ^ 23 ≤ x then (x : Int) - 2 ^ 24 else x

end Sys2Proof.Machine
end

