-- ==== Sys2Proof/Machine/State.lean ====
section
/-!
DEFINITION. The state of one MK9T as plain data, the reasons a step can stop, and the state after reset.
Everything the spec names is here; INVENTORY.md lists each piece with its rule and reset value.
-/
namespace Sys2Proof.Machine

/-! ### Streams and engines -/

/-- A handle with its out-of-band tag (R72). -/
structure Handle where
  bits : BitVec 128
  tag : Bool
  deriving DecidableEq, Repr

/-- When a queue entry is filled (R138): filled, at a clk, or when the named operation lands. -/
inductive Fill where
  | ready | at (clk : Nat) | token (id : Nat)
  deriving DecidableEq, Repr

/-- A scalar-queue entry. -/
structure SEnt where
  val : Word
  fill : Fill
  deriving DecidableEq, Repr

/-- A vector-queue entry. -/
structure VEnt where
  val : Vec
  fill : Fill
  deriving DecidableEq, Repr

/-- What a fixed-latency result writes when it commits (R139). `mask` holds the byte bits of a merged write (R201). -/
inductive CDst where
  | none | g (n : Nat) (v : Word) | h (n : Nat) (v : Handle) | p (n : Nat) (v : PredBits)
  | v (n : Nat) (mask : PredBits) (val : Vec) | strm (k : Nat) (val : Vec)
  deriving DecidableEq, Repr

/-- A pending fixed-latency result: the issue cycle before which it commits, its target, its astat flags (R171). -/
structure Commit where
  due : Nat
  dst : CDst
  flags : BitVec 4
  deriving DecidableEq, Repr

/-- A loop-stack entry (R161); `depth` is 0 for LOOP. -/
structure LoopEnt where
  start : Word
  stop : Word
  idx : Word
  rem : BitVec 65
  piped : Bool
  depth : BitVec 3
  deriving DecidableEq, Repr

/-- A copy-queue parameter register with the value before its last store, that store's class and issue cycle, and
whether a GO of any class is certain to see the new value (R82). -/
structure CqReg where
  val : Word
  old : Word
  cls : BitVec 4
  settled : Bool
  cycle : Nat
  deriving DecidableEq, Repr

/-- A stream's copy-queue bank (R79). -/
structure CopyBank where
  src : CqReg
  dst : CqReg
  shp : CqReg
  flg : CqReg
  deriving DecidableEq, Repr

/-- The elastic buffer that an entry stands in: a copy engine's, the bank-command path's or the comet posting's, or the stream
transfer units', with the class of the SBIND that it holds or none for an SFLUSH (R143). -/
inductive LagUnit where
  | engine | strm (cls : Option (BitVec 4))
  deriving DecidableEq, Repr

/-- An elastic-buffer entry's issue count when it was written, with the operation it holds (R143). -/
structure LagEnt where
  id : Nat
  born : Nat
  unit : LagUnit
  deriving DecidableEq, Repr

/-- One instruction stream (R13, R14, R138, R142, R161, R165, R256). `npc` and `nloops` are the PC and loop stack
that follow the bundle being executed; `resv` counts its reservations in the scalar queue. `offer` holds the positions
of the bundle that the stream issued last where that bundle had SEC set (R144). -/
structure Stream where
  pc : Word
  npc : Word
  ended : Bool
  nended : Bool
  g : Tbl Word
  sq : List SEnt
  resv : Nat
  toks : Tbl (BitVec 32)
  loops : List LoopEnt
  nloops : List LoopEnt
  slack : BitVec 4
  nslack : BitVec 4
  cycle : Nat
  lastClk : Option Nat
  offer : Option (BitVec 7)
  pend : List Commit
  bankStatus : BitVec 4
  cq : CopyBank
  lags : List LagEnt
  deriving DecidableEq, Repr

/-- An outstanding service call of a task on one port (R166, R168). -/
structure SendSt where
  port : Nat
  sec : Bool
  reply : Option Word
  deriving DecidableEq, Repr

/-- A stream-register binding (R84, R195): the SBIND's place in program order, the handle with CUR replaced by CUR + b, the four
geometry words, the class, the next element, the fetched window, and the number of vectors reserved as written (R85). -/
structure Binding where
  id : Nat
  write : Bool
  h : Handle
  geo : List Word
  cls : BitVec 4
  next : Nat
  window : List Vec
  deriving DecidableEq, Repr

/-- An SFLUSH that is not complete (R196): the write streams it names with the element that follows those it awaits, UNB with the
streams to unbind, its token, and the last issue cycle in which a result that it awaits commits. The implicit SFLUSH of a rebinding (R85) names no token and holds the
binding that follows it. -/
structure Sflush where
  ks : List (Nat × Nat)
  unb : List Nat
  tok : Option Nat
  due : Nat
  rebind : Option (Nat × Binding)
  deriving DecidableEq, Repr

/-- A write to shared state that the other stream of the core, or every later bundle, sees from the clk after it (R139, R171):
the clk, the writing stream, the register and its value. -/
structure Fresh (α : Type) where
  clk : Nat
  sec : Bool
  n : Nat
  v : α
  deriving DecidableEq, Repr

/-- A plane set (R227): its format and planes, keyed plane·32768 + 256·i + n, and when they land (R237). -/
structure PlaneSet where
  dx4 : Bool
  planes : Tbl Int
  landAt : Nat
  landed : Bool
  deriving DecidableEq, Repr

/-- A permute job (R251): byte moves from source to destination, its charge, and the objects that its two sides were admitted through. -/
structure PermJob where
  id : Nat
  sec : Bool
  wd : Nat
  src : Nat
  dst : Nat
  n : Nat × Nat × Nat
  order : Nat
  tok : Nat
  cls : BitVec 4
  objs : List Nat
  deriving DecidableEq, Repr

/-- A long drain in progress or saved (R241): its word, origin, stride, handle and bundle, and whether it was restored. -/
structure Drain where
  w : MMdrainW
  base : Nat
  stride : Nat
  hnd : Handle
  pc : Word
  resumed : Bool
  deriving DecidableEq, Repr

/-- A mask fault that the mask check of an MMAS has yet to detect (R236). -/
structure SparseFault where
  group : Nat
  col : Nat
  by_ : Nat
  pc : Word
  deriving DecidableEq, Repr

/-- An operation on the matrix channel with the locations of its tiles (R243); a drain keeps the rounding mode of its issue. -/
inductive ChanOp where
  | mma (w : MMmaW) (la lb : Nat)
  | mmas (w : MMmasW) (l : Nat) (masks : List Nat)
  | mmdx (w : MMdxW) (la lb : Nat)
  | mldacc (d : Fin 8) (l stride : Nat)
  | mstacc (d : Fin 8) (l stride : Nat)
  | mdrain (w : MMdrainW) (l stride : Nat) (mode : RMode)
  deriving DecidableEq, Repr

/-- An operation of no window that waits, in program order, for the open one to finish with its accumulator (R245): MZERO, or MSCA with
the scales and planes that it latched (R238). -/
inductive AccOp where
  | zero (d : Fin 8)
  | fold (d : Fin 8) (dx4 : Bool) (va vb vc : Vec) (planes : Tbl Int)
  deriving DecidableEq, Repr

/-- The open window of the matrix engine (R110, R243): the operation, the clk at which the window has closed, the operand bytes as they
stood at issue, the rows written so far, and what waits for it. -/
structure ChanJob where
  op : ChanOp
  close : Nat
  snap : List Byte
  row : Nat
  after : List AccOp
  deriving DecidableEq, Repr

/-- Core states of CORESTAT (R362). -/
inductive CoreSt where
  | idle | running | saving | restoring
  deriving DecidableEq, Repr

/-- One engine: a compute core (keys 0 to 47, cluster key/4) or an operator sequencer (keys 48 to 51).
`ncsr` holds the CSR writes that later bundles see (R171), `hnew` the h results committed in this clk (R139), `nbind` the stream
bindings of the bundle being executed, which take effect after it (R195). `accFree` is the clk at which an accumulator's last update completes (R242), `chanFree` that at which the channel is free. `holder` is the gang that holds a core, `gang` that of the task on it (R30). -/
structure Engine where
  prim : Stream
  sec : Stream
  hasSec : Bool
  h : Tbl Handle
  v : Tbl Vec
  p : Tbl PredBits
  vq : List VEnt
  vresv : Nat
  rb : BitVec 4
  astat : BitVec 4
  rmode : BitVec 3
  rseed : BitVec 32
  tix : BitVec 32
  tdsc : BitVec 36
  ncsr : List (Fresh Word)
  hnew : List (Fresh Handle)
  nbind : List (Nat × Binding)
  binds : Tbl (Option Binding)
  flushes : List Sflush
  acc : List Host.Cell
  accFlags : Tbl (BitVec 4)
  accFree : Tbl Nat
  ps0 : Option PlaneSet
  ps1 : Option PlaneSet
  drn : Bool
  dacc : Fin 8
  row : Nat
  drain : Option Drain
  chanFree : Nat
  chan : Option ChanJob
  lastMsca : Option Nat
  sparse : Option SparseFault
  perms : List PermJob
  sends : List SendSt
  gang : Option Nat
  holder : Option Nat
  member : Nat
  stat : CoreSt
  frame : Nat
  stopped : Bool
  parkReq : Bool
  saveReq : Bool
  deriving DecidableEq, Repr

/-! ### Operations in flight -/

/-- One indivisible unit of an access (R104): its place in the register (bytes), its location, its size, the data stored. -/
structure Part where
  lane : Nat
  loc : Nat
  n : Nat
  data : Nat
  deriving DecidableEq, Repr

/-- What an access is. `value` is a token-delivered result that reads no memory (R177); `strm` is element n of a write stream,
with the first identifier after
the completion of an SFLUSH that covers it (R85, R196). -/
inductive AccKind where
  | load | store | atom (op : Fin 8) (t : ElemType) (b c : Word) | fence (mask : BitVec 16) | ldres (wait : Bool)
  | value | strm (k n : Nat) (flushed : Option Nat)
  deriving DecidableEq, Repr

/-- Where a token-delivered result goes. -/
inductive ADst where
  | none | g (d : GDst) | h (n : Nat) | v (d : VDst)
  deriving DecidableEq, Repr

/-- An access in flight, in program order of its stream. `vis` is 0 while the access is visible to its stream alone and a
rising stamp once it is cluster-visible (R94); a device-visible write is in memory and no longer in flight. While
`parked`, each part's `loc` is the byte offset in the object (R396). `task` is the gang and member of a core's access, `pc` the bundle
that issued it; `far` asks for a bank unit (R103, R190). -/
structure Access where
  id : Nat
  task : Option (Nat × Nat)
  eng : Nat
  sec : Bool
  kind : AccKind
  cls : BitVec 4
  ann : Ann
  scope : Scope
  sobj : Bool
  window : Bool
  far : Bool
  t : ElemType
  parts : List Part
  tagQ : Option (Nat × Bool)
  dst : ADst
  tok : Option Nat
  vis : Nat
  taken : Option Vec
  takenTag : Bool
  obj : Nat × Nat
  parked : Bool
  pc : Word
  deriving DecidableEq, Repr

/-- What an outstanding X-slot operation waits for. -/
inductive PendKind where
  | xbfen (d : GDst) (range : Option (Nat × Nat × Nat × Nat))
  | hwait (rd : Bool) (ctx oid : Nat)
  | rfre (ctx clu oid : Nat)
  | scrub (clu first n : Nat) (d : GDst) (v : Word)
  | list (ctx : Nat) (gks : List Nat) (d : GDst)
  | otinv (ctx oid : Nat)
  | cache (cls : BitVec 4) (ctx oid a n : Nat) (awaits : Option (List Nat))
  | wayLend (clu n : Nat)
  | xevp (d : Nat) (kinds : BitVec 3) (ctx clu : Nat) (gtag : Option Nat)
  | hscb (ctx oid gk : Nat) (writer : Bool)
  | evt (ctx clu : Nat) (r : BitVec 128)
  | comet (hdr payload : Nat) (cls : BitVec 4) (pc : Word) (objs : List Nat)
  deriving DecidableEq, Repr

/-- An outstanding operation with its engine, stream, token and the bundle that issued it. -/
structure PendOp where
  id : Nat
  eng : Nat
  sec : Bool
  tok : Option Nat
  kind : PendKind
  deriving DecidableEq, Repr

/-- Bank commands (R253). -/
inductive BankOp where
  | rowz | rowcp | rowxf | badd | bmax | bmin | baxpy | bcnt
  deriving DecidableEq, Repr

/-- A bank command of its stream (R254); BCNT's mailbox was admitted through object `mailOid`. -/
structure BankCmd where
  id : Nat
  eng : Nat
  sec : Bool
  op : BankOp
  bt : BankType
  ctx : Nat
  oid : Nat
  addr : Nat
  src : Nat × Nat
  operand : BitVec 32
  payload : List Byte
  mailbox : Nat
  mailOid : Option Nat
  tok : Option Nat
  pc : Word
  retry : Nat
  retryAt : Option Nat
  deriving DecidableEq, Repr

/-- A copy job (R80, R387, R421). `clk` and `core` are those of its GO, which with `sec` and the ascending `id` give GO order (R83); a
list job's core is 0. `skip` bytes of row `row` have landed; `buf` holds that row as it
was read and `bufTags` the offsets of its tagged quanta; the row's first `resent` bytes discharge nothing (R422). -/
structure CopyJob where
  id : Nat
  clk : Nat
  core : Nat
  gk : Nat
  member : Nat
  sec : Bool
  list : Bool
  src : Handle
  dst : Handle
  shp : Word
  flg : Word
  tag : BitVec 16
  ent : BitVec 3
  phys : Nat
  started : Bool
  row : Nat
  skip : Nat
  resent : Nat
  buf : List Byte
  bufTags : List Nat
  retry : Nat
  retryAt : Option Nat
  pc : Word
  deriving DecidableEq, Repr

/-- A queued software-cache fill (R78) of the PROBE's class (R93): `landed` bytes of its block have landed and discharged the token
(R193). -/
structure FillJob where
  id : Nat
  eng : Nat
  sec : Bool
  task : Option (Nat × Nat)
  tok : Nat
  cls : BitVec 4
  pc : Word
  ctx : Nat
  h : Handle
  blk : Nat
  set_ : Nat
  way : Nat
  landed : Nat
  retry : Nat
  retryAt : Option Nat
  deriving DecidableEq, Repr

/-- A comet that has left the posting buffer (R332, R336): its next hop's device work is done by COMET_ARRIVAL. While `held` it
waits at its port (R442, R444). -/
structure OutComet where
  port : Nat
  c : Comet
  held : Bool
  deriving DecidableEq, Repr

/-- A comet parked at a receiving port, with its retry count (R335, R420). -/
structure ParkedComet where
  c : Comet
  retry : Nat
  retryAt : Nat
  deriving DecidableEq, Repr

/-- An atomic that performs at its target (R190): operation, type and operands. -/
structure ExtAtom where
  op : Fin 8
  t : ElemType
  b : Word
  c : Word
  deriving DecidableEq, Repr

/-- A request to a window target outside the device (R432, R439), with the clk of its issue: a write, an atomic, or else a read. -/
structure ExtReq where
  id : Nat
  born : Nat
  kind : Nat
  addr : Nat
  wr : Option (List Byte)
  atom : Option ExtAtom
  relaxed : Bool
  plane : Nat
  deriving DecidableEq, Repr

/-! ### Clusters -/

/-- A granted run of scratchpad granules (R86, R269). -/
structure Region where
  first : Nat
  n : Nat
  ctx : Nat
  oid : Nat
  cache : Bool
  deriving DecidableEq, Repr

/-- Tag-table entry states (R77). -/
inductive TagSt where
  | invalid | filling (oid blk : Nat) | valid (oid blk : Nat)
  deriving DecidableEq, Repr

/-- One cluster (R67, R76, R259, R362, R413). `freed` maps a granule to the context that freed it (R87); an event record
stands beside the context of its gang. -/
structure Cluster where
  part : Fin 4
  frbase : Word
  frcnt : Nat
  frfree : BitVec 32
  ways : Nat
  regions : List Region
  freed : Tbl Nat
  cacheK : Nat
  cacheB : Nat
  tagTable : Tbl TagSt
  rot : Tbl Nat
  events : List (Nat × BitVec 128)
  evSeq : BitVec 16
  evHeld : List (Nat × BitVec 128)
  fills : List FillJob
  hscfg : Word
  hsring : Word
  hsptr : Word
  hscount : Nat
  deriving DecidableEq, Repr

/-! ### Gangs -/

/-- Where a member task is. -/
inductive MSt where
  | waiting | running (core : Nat) | parked (frame : Nat) | saved (frame : Nat) | ended
  deriving DecidableEq, Repr

/-- A descriptor's 16 words and the tag of its handle quantum (R283). -/
structure DescVal where
  w : List Word
  tag : Bool
  deriving DecidableEq, Repr

/-- A member task: entry points, library tiles (R323), replies and drain kept while it is saved (R168, R241), and the barrier at
which it has arrived with that bundle's PC (R258). `phase` counts the exchanges that a library task has begun (R343), and is 1 once one of ELTW has issued its
output job (R449). `held` gives the queue
index of each parked access in its frame (R419), `claim` the core whose borrower was asked to leave for it (R30). -/
structure Member where
  pep : Word
  sep : Option Word
  tiles : List Nat
  phase : Nat
  st : MSt
  sends : List SendSt
  lent : Nat
  drain : Option Drain
  barrier : Option (Nat × Word)
  held : List (Nat × Nat)
  claim : Option Nat
  retry : Nat
  retryAt : Nat
  deriving DecidableEq, Repr

/-- Where a gang is (R271, R389): issued and not yet listed, listed, of a pending cohort, resident, being saved, saved. -/
inductive GangSt where
  | issued | listed | pending | resident | saving | saved
  deriving DecidableEq, Repr

/-- A gang (R16, R386). `gk` is partition · 65536 + tag. `lib` holds the graph operators of a library gang, with the
descriptors as they stood at its issue (R300), `coll` the collective-table entries' CIDs that their exchanges use, in order (R347). -/
structure Gang where
  gk : Nat
  ctx : Nat
  clu : Nat
  st : GangSt
  trapped : Bool
  arrival : Nat
  admitted : Nat
  code : Handle
  dem : Nat
  engs : List Nat
  wlp : Bool
  cohort : Option (Nat × Nat)
  members : List Member
  jobs : List (List Word × Nat)
  gargs : List Word
  hargs : List Handle
  oids : List Nat
  tix : Nat
  bpc : Nat
  opc : Nat
  sq : Nat
  lib : List Instr
  descs : List (Nat × DescVal)
  coll : List Nat
  deadline : Option Nat
  waiter : Option Nat
  ackd : Bool
  deriving DecidableEq, Repr

/-! ### Contexts, sequencers, queues, partitions -/

/-- States of a graph context, codes 0 to 6 (R376). -/
inductive CtxSt where
  | free | loaded | ready | running | waiting | stopping | stopped
  deriving DecidableEq, Repr

/-- What a WAITING context waits for (R376). -/
inductive Await where
  | none | word (loc : Nat) | layer (n : Nat) | room (tier n prio : Nat) | page (oid granule : Nat)
  deriving DecidableEq, Repr

/-- An object entry (R394), decoded. -/
structure ObjEnt where
  space : Fin 5
  clu : Nat
  size : Nat
  layer : Nat
  prio : Nat
  pin : Bool
  nextu : Nat
  base : Nat
  next : Nat
  deriving DecidableEq, Repr

/-- An extent entry (R395), decoded. -/
structure Extent where
  st : Fin 4
  clean : Bool
  ng : Nat
  og : Nat
  bg : Nat
  fg : Nat
  deriving DecidableEq, Repr

/-- A scoreboard entry (R272). -/
structure ScbEnt where
  oid : Nat
  gk : Nat
  writer : Bool
  deriving DecidableEq, Repr

/-- A graph-loop entry (R291). -/
structure GLoop where
  start : Nat
  rem : Nat
  idx : Option (Fin 64)
  deriving DecidableEq, Repr

/-- A service request waiting in a port's queue (R166). -/
structure SvcReq where
  a : Word
  b : Word
  c : Word
  gk : Nat
  member : Nat
  sec : Bool
  deriving DecidableEq, Repr

/-- How a run ended: STATUS and DETAIL (R384). -/
structure RunEnd where
  status : BitVec 8
  detail : BitVec 16
  deriving DecidableEq, Repr

/-- One graph context (R286, R374, R376, R415). `winbase` to `expcnt` are the window and export table registers as the
context's last OTSYNC found them (R445); `paused` holds the (CID, group) pairs of the PAUSE comets that await their resume
(R346); `tallocs` lists the OIDs that TALLOC made in the fast tier (R296, R408); `evictedBy` gives for each evicted layer the evicting
context, and whether that breached a pin (R409, R410); `objs` and `exts` hold the entries and extent lists that the runtime and
Orrery keep where the table in memory has no place for them (R393). -/
structure Context where
  st : CtxSt
  part : Fin 4
  prio : Nat
  ownq : Nat
  wlp : Bool
  refetch : Bool
  imgok : Bool
  imgerr : BitVec 8
  img : Word
  clset : BitVec 12
  quota : Nat
  pinlim : BitVec 32
  fastq : BitVec 32
  gsa : Word
  run : BitVec 32
  exit : BitVec 16
  lstat : BitVec 8
  seq : Option (Fin 4)
  bpc : Nat
  z : Tbl Word
  gloops : List GLoop
  gcalls : List Nat
  scb : List ScbEnt
  keep : Bool
  saved : Option Engine
  paused : Option (List (Nat × Nat))
  awaits : Await
  ports : Tbl (List SvcReq)
  otdir : Word
  rwbase : Word
  winbase : Word
  wincnt : Nat
  expbase : Word
  expcnt : Nat
  opstep : BitVec 32
  swapcnt : BitVec 32
  objs : Tbl (Option ObjEnt)
  exts : Tbl (List Extent)
  tallocs : List Nat
  readyAt : Nat
  firstRun : Bool
  ending : Option RunEnd
  trapQueued : Bool
  everRes : List Nat
  faulted : List Nat
  evictedBy : Tbl (Nat × Bool)
  cookie : Word
  lseq : BitVec 16
  lq : Nat
  deriving DecidableEq, Repr

/-- The routine that a sequencer is running. -/
inductive Routine where
  | none | operator | micro
  deriving DecidableEq, Repr

/-- One sequencer's control state (R273, R326, R362). `fresh` says that no graph instruction has started since the context was
taken: an operator boundary falls only after one has finished (R27). `coll` are the CIDs that the routine has armed for its exchanges
(R347), `sigBundles` the store bundles that signed patches wrote, `xopRuns`
the first bundle and the length of each XOP's routine (R327, R328). -/
structure Seq where
  part : Fin 4
  stop : Bool
  ctx : Option Nat
  routine : Routine
  words : List (BitVec 32)
  nextBpc : Option Nat
  yieldReq : Option Nat
  tile : Nat
  fresh : Bool
  opTable : Tbl Word
  patches : List Patch
  coll : List Nat
  sigBundles : List Nat
  xopRuns : Tbl (Nat × Nat)
  deriving DecidableEq, Repr

/-- A notification that waits for room (R385): its two words without PH. -/
structure Note where
  w0 : Word
  w1 : Word
  deriving DecidableEq, Repr

/-- One submission queue (R374, R378). `feed` is the host read under way for the FEED at its head, with whether it has failed (R381,
R383). -/
structure SubQ where
  en : Bool
  part : Fin 4
  ldep : Nat
  maxprio : Nat
  vec : BitVec 11
  ven : Bool
  lnent : Nat
  ring : Word
  nbase : Word
  widx : BitVec 16
  ridx : BitVec 16
  nwidx : BitVec 16
  err : Bool
  reci : BitVec 16
  reason : BitVec 8
  drop : BitVec 32
  feeddev : Word
  feedhost : Word
  stage : Tbl Word
  ncons : BitVec 16
  held : List Note
  msix : Nat
  feed : Option (Nat × Bool)
  deriving DecidableEq, Repr

/-- An Orrery job in progress: the granules still to do (R403, R404, R406). -/
inductive OrJob where
  | idle
  | fetchLayer (ctx n : Nat) (todo : List (Nat × Nat)) (landed : Nat)
  | fetchObj (ctx oid : Nat) (todo : List Nat)
  | evict (ctx : Nat) (layer : Option Nat) (oids : List Nat)
  | moveObj (ctx oid og ng fg k : Nat)
  deriving DecidableEq, Repr

/-- An allocation whose eviction has begun and whose granules are not yet free (R404). -/
structure Evicting where
  ctx : Nat
  layer : Option Nat
  oids : List Nat
  deriving DecidableEq, Repr

/-- A demand fetch (R405): the layer or the granule of an object, with its priority. -/
structure DFetch where
  ctx : Nat
  layer : Option Nat
  oid : Nat
  granule : Nat
  prio : Nat
  deriving DecidableEq, Repr

/-- A migration in progress (R411). -/
structure Migr where
  ctx : Nat
  oid : Nat
  og : Nat
  fg : Nat
  line : Nat
  deriving DecidableEq, Repr

/-- A remote-access counter (R414). -/
structure RemCnt where
  pod : Nat
  dev : Nat
  blk : Nat
  count : Nat
  deriving DecidableEq, Repr

/-- A trap record that waits to be written, as its eight words without RSEQ (R418). -/
structure TrapRec where
  kind : Nat
  ctx : Nat
  words : List Word
  deriving DecidableEq, Repr

/-- One partition (R371, R374, R401, R414, R415, R427, R445). `gone` lists retired pages (R426), `cmds` the
runtime's Orrery commands that wait for room on the ring (R405), `otsQ` the OTSYNCs under way, each with the first operation identifier
after its write (R398). -/
structure Partition where
  pdeadl : Nat
  tagCtr : BitVec 16
  orcbase : Word
  orcWidx : BitVec 16
  orcRidx : BitVec 16
  orebase : Word
  oreCons : BitVec 16
  oreWidx : BitVec 16
  otsDone : Bool
  otsCtx : BitVec 10
  otsQ : List (Nat × Nat)
  gone : List Nat
  cmds : List (List Word)
  evicts : List Evicting
  job : OrJob
  djob : OrJob
  demands : List DFetch
  migr : Option Migr
  orEvents : List (List Word)
  rhDecay : BitVec 32
  rhThr : BitVec 16
  rhEn : Bool
  rhring : Word
  rhDrop : BitVec 32
  rhCons : BitVec 16
  rhWidx : BitVec 16
  remote : List RemCnt
  tqbase : Word
  tqDrop : BitVec 32
  tqCons : BitVec 16
  tqWidx : BitVec 16
  traps : List TrapRec
  winbase : Word
  wincnt : Nat
  expbase : Word
  expcnt : Nat
  deriving DecidableEq, Repr

/-! ### The device -/

/-- Scale-up port states (R444). -/
inductive PortSt where
  | down | train | up4 | up8
  deriving DecidableEq, Repr

/-- SUPCTL (R445) with its failed attempts in a row; `narrow` says that the port trains one half alone, `since` is the clk at which
training began (R444). -/
structure SupPort where
  en : Bool
  st : PortSt
  half : Bool
  retr : BitVec 16
  fails : Nat
  narrow : Bool
  since : Nat
  deriving DecidableEq, Repr

/-- ETHCTL (R445). -/
structure EthPort where
  en : Bool
  up : Bool
  mac : BitVec 48
  deriving DecidableEq, Repr

/-- Steps of a firmware update (R456, R457). -/
inductive UpdSt where
  | idle | writing | written | verified
  deriving DecidableEq, Repr

/-- A service-processor thread (R357, R362). -/
structure SpThread where
  en : Bool
  part : Fin 4
  kind : Fin 4
  qid : Nat
  awake : Bool
  faults : Nat
  deriving DecidableEq, Repr

/-- A request tag that a peer has used within the last second, with the response (R440). -/
structure PeerTag where
  pod : Nat
  dev : Nat
  tag : Nat
  clk : Nat
  resp : List Byte
  deriving DecidableEq, Repr

/-- Device-wide registers and management state. For collective-table entry k, `timers` holds the running time so far and
the clk since which it runs (R348), `cometFlags` the flags of its operations (R339); `pauses` holds (CID, devices that have
paused it). `carve` is the length of the OS carve-out, `aperture` the fast granules (partition · 2^24 + granule) on which the runtime has
placed granules of the aperture, `uPages` the pages of the register space that S-mode has mapped for U-mode (R356, R360). -/
structure Device where
  devid : Word
  mode : Fin 3
  lock : Bool
  threads : Tbl SpThread
  epochs : Tbl (BitVec 8)
  ignored : BitVec 32
  retrymax : Nat
  patEn : Bool
  patPer : Nat
  errbase : Word
  errCons : BitVec 16
  errWidx : BitVec 16
  cecnt : BitVec 32
  uecnt : BitVec 32
  rtrycnt : BitVec 32
  eolValid : Bool
  eolMonths : BitVec 16
  rpcmap : Tbl Word
  rpcLive : Tbl Word
  hostos : Bool
  cto : Nat
  pciSpeed : BitVec 4
  pciWidth : BitVec 5
  pciFlit : Bool
  lnkLock : Bool
  pod : BitVec 11
  dev : BitVec 10
  hostdrop : BitVec 32
  indrop : BitVec 32
  imgdrop : BitVec 32
  mcmbase : Word
  msixTab : List Host.Cell
  peerTags : List PeerTag
  sup : Tbl SupPort
  eth : Tbl EthPort
  stage : Nat
  accepted : Bool
  slotB : Bool
  fallback : Bool
  nomark : Bool
  svnmin : BitVec 32
  bootseq : Word
  upd : UpdSt
  updLen : Nat
  pendReset : Bool
  activated : Bool
  raiseReq : Bool
  wyReq : Bool
  patchChain : BitVec 256
  meas : Tbl (BitVec 256)
  cometDiscards : Nat
  cometReports : Nat
  released : List Nat
  pauses : List (Nat × Nat)
  timers : Tbl (Nat × Option Nat)
  cometFlags : Tbl (BitVec 4)
  hartFaults : List Nat
  hartVals : Tbl Word
  carve : Nat
  aperture : Tbl (Option Nat)
  uPages : List Nat
  spdm : List (List Byte)
  sensorOut : List (Option Word)
  replies : List (List Byte)
  pldm : List Nat
  deriving DecidableEq, Repr

/-- Who moves. -/
inductive Act where
  | issue (e : Nat) (sec : Bool) | event (i : Instr)
  deriving DecidableEq, Repr

/-- A move of the agenda: the clks that pass, then what moves. -/
structure Move where
  dt : Nat
  act : Act
  deriving DecidableEq, Repr

/-- What a trap's record takes from the faulting operation (R416, R418, R274); `none` where it names nothing. -/
structure TrapInfo where
  cause : Nat
  detail : Nat
  oid : Option Nat
  desc : Option Nat
  tix : Option Nat
  deriving DecidableEq, Repr

/-- Status of the slot instruction just executed: `wait` is a sequencer's stall on a non-resident page (R396). -/
inductive SlotSt where
  | ok | stall | wait (ctx oid prio : Nat) (layer : Option Nat) (granule : Nat) | trap (x : TrapInfo)
  deriving DecidableEq, Repr

/-- The engine and stream that slot instructions act on. -/
structure Focus where
  eng : Nat
  sec : Bool
  deriving DecidableEq, Repr

/-- The state of the device. `agenda`, `free`, `focus`, `slot`, `pos`, `nextId`, `base` and `win` are the model's own: the last two
hold, for the bundle that issues, the first identifier of its accesses and the end of the matrix window open before it. -/
structure State where
  clk : Word
  agenda : List Move
  free : Nat
  focus : Focus
  slot : SlotSt
  pos : Nat
  nextId : Nat
  base : Nat
  win : Nat
  engines : Tbl Engine
  clusters : Tbl Cluster
  seqs : Tbl Seq
  ctxs : Tbl Context
  queues : Tbl SubQ
  parts : Tbl Partition
  gangs : List Gang
  accs : List Access
  pends : List PendOp
  banks : List BankCmd
  copies : List CopyJob
  comets : List OutComet
  loopComets : List Comet
  parkedComets : List ParkedComet
  ext : List ExtReq
  dev : Device
  mem : List Host.Cell
  tags : List Nat
  deriving DecidableEq, Repr

/-! ### Why a step can stop -/

/-- Reasons for a fault. -/
inductive Fault where
  /-- Raised by `step` when the agenda or the focus names an engine that the device does not have: a number above
  51, or a core of a disabled cluster (R1). Safe: no bundle is ever issued there. -/
  | noSuchEngine (e : Nat)
  deriving DecidableEq, Repr

/-- Reasons for a refusal. -/
inductive Refusal where
  /-- Raised by an arm of `exec` whose instruction has no meaning yet. Safe. -/
  | notModelled (mnemonic : String)
  deriving DecidableEq, Repr

/-! ### Reset values (R13, R362, R374, R415, R427, R445, R450, R462; the log names every value the spec does not state) -/

def CqReg.reset : CqReg := ⟨0, 0, 0, true, 0⟩
def CopyBank.reset : CopyBank := ⟨.reset, .reset, .reset, .reset⟩
def Handle.null : Handle := ⟨0, false⟩

/-- A stream before any task, and at task start apart from its arguments (R13). -/
def Stream.reset : Stream :=
  { pc := 0, npc := 0, ended := false, nended := false, g := [], sq := [], resv := 0, toks := [], loops := [], nloops := [],
    slack := 0, nslack := 0, cycle := 0, lastClk := none, offer := none, pend := [], bankStatus := 0, cq := .reset, lags := [] }

/-- An engine before any task. -/
def Engine.reset : Engine :=
  { prim := .reset, sec := .reset, hasSec := false, h := [], v := [], p := [], vq := [], vresv := 0, rb := 0, astat := 0,
    rmode := 0, rseed := 0, tix := 0, tdsc := 0, ncsr := [], hnew := [], nbind := [], binds := [], flushes := [], acc := [], accFlags := [], accFree := [], ps0 := none, ps1 := none,
    drn := false, dacc := 0, row := 0, drain := none, chanFree := 0, chan := none, lastMsca := none, sparse := none, perms := [], sends := [],
    gang := none, holder := none, member := 0, stat := .idle, frame := 0, stopped := false, parkReq := false, saveReq := false }

def Cluster.reset : Cluster :=
  { part := 0, frbase := 0, frcnt := 0, frfree := 0, ways := 0, regions := [], freed := [], cacheK := 0, cacheB := 0,
    tagTable := [], rot := [], events := [], evSeq := 0, evHeld := [], fills := [], hscfg := 0x800, hsring := 0, hsptr := 0,
    hscount := 0 }

def Context.reset : Context :=
  { st := .free, part := 0, prio := 0, ownq := 0, wlp := false, refetch := true, imgok := false, imgerr := 0, img := 0,
    clset := 0, quota := 0, pinlim := 0, fastq := 0, gsa := 0, run := 0, exit := 0, lstat := 0, seq := none, bpc := 0, z := [],
    gloops := [], gcalls := [], scb := [], keep := false, saved := none, paused := none, awaits := .none, ports := [], otdir := 0, rwbase := 0,
    winbase := 0, wincnt := 0, expbase := 0, expcnt := 0, opstep := 0, swapcnt := 0, objs := [], exts := [], tallocs := [], readyAt := 0, firstRun := true,
    ending := none, trapQueued := false, everRes := [], faulted := [], evictedBy := [], cookie := 0, lseq := 0, lq := 0 }

def Seq.reset : Seq :=
  { part := 0, stop := false, ctx := none, routine := .none, words := [], nextBpc := none, yieldReq := none, tile := 0,
    fresh := false, opTable := [], patches := [], coll := [], sigBundles := [], xopRuns := [] }

def SubQ.reset : SubQ :=
  { en := false, part := 0, ldep := 4, maxprio := 0, vec := 0, ven := false, lnent := 0, ring := 0, nbase := 0, widx := 0,
    ridx := 0, nwidx := 0, err := false, reci := 0, reason := 0, drop := 0, feeddev := 0, feedhost := 0, stage := [],
    ncons := 0, held := [], msix := 0, feed := none }

/-- A partition at reset; in MODE 0 partition 0 holds every unit. -/
def Partition.reset : Partition :=
  { pdeadl := 200, tagCtr := 0, orcbase := 0, orcWidx := 0, orcRidx := 0, orebase := 0, oreCons := 0, oreWidx := 0,
    otsDone := true, otsCtx := 0, otsQ := [], gone := [], cmds := [], evicts := [], job := .idle, djob := .idle, demands := [],
    migr := none, orEvents := [], rhDecay := 0, rhThr := 0xFFFF, rhEn := false, rhring := 0, rhDrop := 0, rhCons := 0,
    rhWidx := 0, remote := [], tqbase := 0, tqDrop := 0, tqCons := 0, tqWidx := 0, traps := [], winbase := 0, wincnt := 0,
    expbase := 0, expcnt := 0 }

def SupPort.reset : SupPort := ⟨true, .down, false, 0, 0, false, 0⟩
def EthPort.reset : EthPort := ⟨true, false, 0⟩
def SpThread.reset : SpThread := ⟨false, 0, 0, 0, false, 0⟩

def Device.reset : Device :=
  { devid := 0xB3A79E4800000FFF, mode := 0, lock := false, threads := [], epochs := [], ignored := 0, retrymax := 1000,
    patEn := true, patPer := 8, errbase := 0, errCons := 0, errWidx := 0, cecnt := 0, uecnt := 0, rtrycnt := 0,
    eolValid := false, eolMonths := 0, rpcmap := [], rpcLive := [], hostos := false, cto := 50, pciSpeed := 0, pciWidth := 0,
    pciFlit := false, lnkLock := false, pod := 0, dev := 0, hostdrop := 0, indrop := 0, imgdrop := 0, mcmbase := 0, msixTab := [], peerTags := [],
    sup := [], eth := [], stage := 1, accepted := false, slotB := false, fallback := false, nomark := false, svnmin := 0, bootseq := 0,
    upd := .idle, updLen := 0, pendReset := false, activated := false, raiseReq := false, wyReq := false, patchChain := 0,
    meas := [], cometDiscards := 0, cometReports := 0, released := [], pauses := [], timers := [], cometFlags := [],
    hartFaults := [], hartVals := [], carve := 2 ^ 36, aperture := [], uPages := [], spdm := [], sensorOut := [], replies := [], pldm := [] }

/-- The device right after reset: every register at its reset value, memory as R450 leaves it, nothing in flight. -/
def State.reset : State :=
  { clk := 0, agenda := [], free := 0, focus := ⟨48, false⟩, slot := .ok, pos := 0, nextId := 0, base := 0, win := 0, engines := [], clusters := [],
    seqs := [], ctxs := [], queues := [], parts := [], gangs := [], accs := [], pends := [], banks := [], copies := [],
    comets := [], loopComets := [], parkedComets := [], ext := [], dev := .reset, mem := [], tags := [] }

end Sys2Proof.Machine
end

