-- ==== Sys2Proof/Machine/Table.lean ====
section
/-!
DEFINITION. Sparse tables and byte memory in canonical form: keys strictly rising, no entry equal to the default.
-/
namespace Sys2Proof.Machine

/-- The value at key k; the default d where no entry is listed. -/
def tget {α : Type} (d : α) (t : Tbl α) (k : Nat) : α :=
  match t.find? (fun e => e.1 == k) with
  | some e => e.2
  | none => d

/-- The table with v at key k. -/
def tput {α : Type} [DecidableEq α] (d : α) (t : Tbl α) (k : Nat) (v : α) : Tbl α :=
  t.filter (fun e => e.1 < k) ++ (if v = d then [] else [(k, v)]) ++ t.filter (fun e => k < e.1)

/-- The canonical form of a table. -/
def twf {α : Type} [DecidableEq α] (d : α) (t : Tbl α) : Bool :=
  decide (t.Pairwise fun a b => a.1 < b.1) && t.all fun e => e.2 ≠ d

/-- The entries that hold a value other than the default. -/
def tkeys {α : Type} (t : Tbl α) : List Nat := t.map (·.1)

/-! ### Bytes

The locations of every space share one numbering (see `Machine/Ops.lean`). The SPI NOR occupies `norBase` upward; an
erased NOR byte reads 0xFF and every other unlisted byte reads 0 (R450). -/

/-- First location of the SPI NOR. -/
def norBase : Nat := 2 ^ 62
/-- One past the last location of the SPI NOR (64 MiB, R451). -/
def norEnd : Nat := norBase + 2 ^ 26

/-- What an unlisted location reads as. -/
def memDefault (a : Nat) : Byte := if norBase ≤ a ∧ a < norEnd then 0xFF else 0

/-- One byte of memory. -/
def mget (m : List Host.Cell) (a : Nat) : Byte :=
  match m.find? (fun e => e.1 == a) with
  | some e => e.2
  | none => memDefault a

/-- The cells of a run of bytes from a, without those that read as the default. -/
def cells (a : Nat) : List Byte → List Host.Cell
  | [] => []
  | b :: bs => if b = memDefault a then cells (a + 1) bs else (a, b) :: cells (a + 1) bs

/-- Memory with the bytes bs written from a upward. -/
def mputs (m : List Host.Cell) (a : Nat) (bs : List Byte) : List Host.Cell :=
  m.filter (fun e => e.1 < a) ++ cells a bs ++ m.filter (fun e => a + bs.length ≤ e.1)

/-- n bytes from a upward. -/
def mgets (m : List Host.Cell) (a : Nat) : Nat → List Byte
  | 0 => []
  | n + 1 => mget m a :: mgets m (a + 1) n

/-- Memory's canonical form. -/
def Memory.wf (m : List Host.Cell) : Bool :=
  decide (m.Pairwise fun a b => a.1 < b.1) && m.all fun e => e.2 ≠ memDefault e.1

/-- Little-endian bytes as a number (R4). -/
def leNat : List Byte → Nat
  | [] => 0
  | b :: bs => b.toNat + 256 * leNat bs

/-- The n low bytes of a number, little-endian. -/
def leBytes : Nat → Nat → List Byte
  | 0, _ => []
  | n + 1, v => BitVec.ofNat 8 v :: leBytes n (v / 256)

/-! ### Tags: a strictly rising list of quanta (location / 16) whose tag is set (R75) -/

def tagGet (l : List Nat) (q : Nat) : Bool := l.contains q

def tagPut (l : List Nat) (q : Nat) (v : Bool) : List Nat :=
  l.filter (· < q) ++ (if v then [q] else []) ++ l.filter (q < ·)

/-- Clear the tags of every quantum that the n bytes from a touch. -/
def tagClear (l : List Nat) (a n : Nat) : List Nat :=
  if n = 0 then l else l.filter fun q => q < a / 16 || (a + n - 1) / 16 < q

/-- n consecutive numbers from a. -/
def rangeFrom (a : Nat) : Nat → List Nat
  | 0 => []
  | n + 1 => a :: rangeFrom (a + 1) n

/-- Replace element i of a list. -/
def setAt {α : Type} (l : List α) (i : Nat) (x : α) : List α := l.take i ++ (match l.drop i with | [] => [] | _ :: t => x :: t)

end Sys2Proof.Machine
end

