-- ==== Sys2Proof/Machine/Ops.lean ====
section
/-!
DEFINITION. The named operations over the state: components, the numbering of locations, memory, registers and queues,
results and tokens, and taking a trap.
-/
namespace Sys2Proof.Machine

/-! ### Components -/

def State.eng (s : State) (e : Nat) : Engine := tget .reset s.engines e
def State.setEng (s : State) (e : Nat) (x : Engine) : State := { s with engines := tput .reset s.engines e x }
def State.modEng (s : State) (e : Nat) (f : Engine → Engine) : State := s.setEng e (f (s.eng e))

def State.clu (s : State) (c : Nat) : Cluster := tget .reset s.clusters c
def State.modClu (s : State) (c : Nat) (f : Cluster → Cluster) : State :=
  { s with clusters := tput .reset s.clusters c (f (s.clu c)) }

def State.seq (s : State) (q : Nat) : Seq := tget .reset s.seqs q
def State.modSeq (s : State) (q : Nat) (f : Seq → Seq) : State := { s with seqs := tput .reset s.seqs q (f (s.seq q)) }

def State.ctx (s : State) (c : Nat) : Context := tget .reset s.ctxs c
def State.modCtx (s : State) (c : Nat) (f : Context → Context) : State := { s with ctxs := tput .reset s.ctxs c (f (s.ctx c)) }

def State.queue (s : State) (q : Nat) : SubQ := tget .reset s.queues q
def State.modQueue (s : State) (q : Nat) (f : SubQ → SubQ) : State := { s with queues := tput .reset s.queues q (f (s.queue q)) }

def State.part (s : State) (p : Nat) : Partition := tget .reset s.parts p
def State.modPart (s : State) (p : Nat) (f : Partition → Partition) : State :=
  { s with parts := tput .reset s.parts p (f (s.part p)) }

def State.modDev (s : State) (f : Device → Device) : State := { s with dev := f s.dev }

def State.gangOf (s : State) (g : Nat) : Option Gang := s.gangs.find? (·.gk == g)
def State.modGang (s : State) (g : Nat) (f : Gang → Gang) : State :=
  { s with gangs := s.gangs.map fun x => if x.gk = g then f x else x }

/-- Sequencers are engines 48 to 51. -/
def isSeq (e : Nat) : Bool := 48 ≤ e && e < 52
/-- The engine key under which the held accesses of a parked or saved task stand: that of its frame (R419). -/
def frameKey (clu f : Nat) : Nat := 1000 + clu * 32 + f
/-- The cluster of a core, or of a frame. -/
def cluOf (e : Nat) : Nat := if e < 1000 then e / 4 else (e - 1000) / 32

def Engine.str (x : Engine) (sec : Bool) : Stream := if sec then x.sec else x.prim
def Engine.modStr (x : Engine) (sec : Bool) (f : Stream → Stream) : Engine :=
  if sec then { x with sec := f x.sec } else { x with prim := f x.prim }

/-- The engine and the stream in focus. -/
def State.fe (s : State) : Engine := s.eng s.focus.eng
def State.fs (s : State) : Stream := s.fe.str s.focus.sec
def State.modFe (s : State) (f : Engine → Engine) : State := s.modEng s.focus.eng f
def State.modFs (s : State) (f : Stream → Stream) : State := s.modFe fun x => x.modStr s.focus.sec f

/-- The kind of the stream in focus, as decoding and R135 distinguish it. -/
def State.kind (s : State) : Kind := if isSeq s.focus.eng then .seq else if s.focus.sec then .sec else .prim

/-- No context has this number. -/
def noCtx : Nat := 1024

/-- The graph context that an engine works for. -/
def State.ctxOf (s : State) (e : Nat) : Nat :=
  if isSeq e then (s.seq (e - 48)).ctx.getD noCtx
  else match (s.eng e).gang with
    | none => noCtx
    | some g => match s.gangOf g with | none => noCtx | some x => x.ctx

/-- The gang and member of the task on a core. -/
def State.taskOf (s : State) (e : Nat) : Option (Nat × Nat) := (s.eng e).gang.map fun g => (g, (s.eng e).member)

/-- The context of the stream in focus. -/
def State.fctx (s : State) : Nat := s.ctxOf s.focus.eng

/-- Cluster c is enabled (R362, CLMASK). -/
def State.cluOn (s : State) (c : Nat) : Bool := c < 12 && s.dev.devid.getLsbD c

/-- The partition of unit u under the MODE in force (R371). -/
def partOfUnit (mode : Fin 3) (u : Nat) : Nat := if mode = 0 then 0 else if mode = 1 then u / 2 else u

/-- The clusters of a set in ascending number (R11). -/
def cluList (m : BitVec 12) : List Nat := (rangeFrom 0 12).filter fun c => m.getLsbD c

/-! ### Words and fields -/

/-- Bits [lo + n - 1 : lo] of a word. -/
def fld (w : Word) (lo n : Nat) : Nat := w.toNat / 2 ^ lo % 2 ^ n

/-- A word from (low bit, width, value) fields. -/
def pack (l : List (Nat × Nat × Nat)) : Word := .ofNat 64 ((l.map fun (lo, n, v) => v % 2 ^ n * 2 ^ lo).sum)

/-- The bits of w outside the given (low bit, width) fields, read as zero by a reserved-field check. -/
def outside (w : Word) (l : List (Nat × Nat)) : Nat := w.toNat - (l.map fun (lo, n) => fld w lo n * 2 ^ lo).sum

/-! ### Locations

Every byte of the device has one number: fast tier of partition p, capacity tier, shared bank memory, scratchpad and
lent ways of a cluster, microcode stores, the SPI NOR; beyond them the bytes of targets outside the device. -/

def locFast (p fa : Nat) : Nat := p * 2 ^ 40 + fa
def locCap (a : Nat) : Nat := 2 ^ 44 + a
def locSbm (a : Nat) : Nat := 2 ^ 48 + a
def locSp (c off : Nat) : Nat := 2 ^ 50 + c * 2 ^ 28 + off
def locUc (q off : Nat) : Nat := 2 ^ 52 + q * 2 ^ 24 + off
/-- A PCIe bus address (R432). -/
def locBus (a : Nat) : Nat := 2 ^ 64 + a
/-- Byte a of export `exp` of pod device `dev` (R431, KIND 2). -/
def locPeer (dev exp a : Nat) : Nat := 2 ^ 67 + (dev * 4096 + exp) * 2 ^ 48 + a
/-- The copy-queue window of a task (R79). -/
def locCq (off : Nat) : Nat := 2 ^ 66 + off

def isFast (l : Nat) : Bool := l < 2 ^ 44
def isCap (l : Nat) : Bool := 2 ^ 44 ≤ l && l < 2 ^ 48
def isSbm (l : Nat) : Bool := 2 ^ 48 ≤ l && l < 2 ^ 50
def isSp (l : Nat) : Bool := 2 ^ 50 ≤ l && l < 2 ^ 52
def isExt (l : Nat) : Bool := 2 ^ 64 ≤ l
/-- Locations whose space keeps tags (R61). -/
def hasTag (l : Nat) : Bool := l < 2 ^ 52

/-! ### Device-visible memory -/

/-- Location of the device's collective table (R333). -/
def collLoc : Nat := locSbm (Config.collTable.toNat % (2 ^ 20 - 4095) * 64)

/-- How many devices have paused a collective (R346). -/
def Device.pausedBy (d : Device) (cid : Nat) : Nat := ((d.pauses.find? (·.1 == cid)).map (·.2)).getD 0

/-- A write has reached word 0 of collective-table entry k: where it leaves the entry armed, its timer starts and its flags
are clear (R334, R339, R348). -/
def State.collArm (s : State) (k : Nat) : State :=
  let w : Word := .ofNat 64 (leNat (mgets s.mem (collLoc + 64 * k) 8))
  if w.getLsbD 63 && fld w 60 2 = 0 && fld w 12 20 ≠ 0 then
    let run := if s.dev.pausedBy (fld w 0 32) = 0 then some s.clk.toNat else none
    s.modDev fun d => { d with timers := tput (0, none) d.timers k (0, run), cometFlags := tput 0 d.cometFlags k 0 }
  else s

/-- The entries whose word 0 a write of n bytes at l touches. -/
def collTouched (l n : Nat) : List Nat :=
  (rangeFrom 0 4096).filter fun k => collLoc + 64 * k < l + n && l < collLoc + 64 * k + 8

/-- A write performed for every agent: the bytes change and the tags of the touched quanta clear (R75). A context that
waits for a word of the written range can then be woken (R292, R376). -/
def State.put (s : State) (l : Nat) (bs : List Byte) : State :=
  let t : State := { s with
    mem := mputs s.mem l bs
    tags := tagClear s.tags l bs.length
    ctxs := s.ctxs.map fun (c, x) =>
      match x.awaits with
      | .word a => if l < a + 8 ∧ a < l + bs.length then (c, { x with awaits := .none }) else (c, x)
      | _ => (c, x) }
  if isSbm l then (collTouched l bs.length).foldl State.collArm t else t

def State.bytes (s : State) (l n : Nat) : List Byte := mgets s.mem l n
def State.rdNat (s : State) (l n : Nat) : Nat := leNat (s.bytes l n)
def State.rd64 (s : State) (l : Nat) : Word := .ofNat 64 (s.rdNat l 8)
def State.put64 (s : State) (l : Nat) (w : Word) : State := s.put l (leBytes 8 w.toNat)
def State.putWords (s : State) (l : Nat) : List Word → State
  | [] => s
  | w :: ws => (s.put64 l w).putWords (l + 8) ws

/-- A 16-byte quantum with its tag (R72, R75). -/
def State.rdHandle (s : State) (l : Nat) : Handle :=
  ⟨.ofNat 128 (s.rdNat l 16), hasTag l && tagGet s.tags (l / 16)⟩
def State.putHandle (s : State) (l : Nat) (h : Handle) : State :=
  let s := s.put l (leBytes 16 h.bits.toNat)
  { s with tags := tagPut s.tags (l / 16) (h.tag && hasTag l) }

/-! ### Free values -/

/-- A fresh free word. -/
def State.draw (s : State) : Word × State := (Config.freeWord s.free, { s with free := s.free + 1 })

/-- A fresh identifier for an operation in flight. -/
def State.fresh (s : State) : Nat × State := (s.nextId, { s with nextId := s.nextId + 1 })

/-! ### Handles (R72 to R74) -/

namespace Handle
def cur (h : Handle) : Nat := h.bits.toNat % 2 ^ 48
def high (h : Handle) : Nat := h.bits.toNat / 2 ^ 48 % 2 ^ 24
def low (h : Handle) : Nat := h.bits.toNat / 2 ^ 72 % 2 ^ 24
def gran (h : Handle) : Nat := h.bits.toNat / 2 ^ 96 % 16
def rights (h : Handle) : Nat := h.bits.toNat / 2 ^ 100 % 256
def oid (h : Handle) : Nat := h.bits.toNat / 2 ^ 108
/-- Bit k of [107:100]: R 7, W 6, A 5, B 4, P 3, S 2, N 1, X 0. -/
def has (h : Handle) (k : Nat) : Bool := h.bits.getLsbD (100 + k)
/-- LOW·G and HIGH·G in bytes. -/
def lowB (h : Handle) : Nat := h.low * 2 ^ (h.gran + 6)
def highB (h : Handle) : Nat := h.high * 2 ^ (h.gran + 6)
def setCur (h : Handle) (v : Nat) : Handle := { h with bits := .ofNat 128 (h.bits.toNat / 2 ^ 48 * 2 ^ 48 + v % 2 ^ 48) }
def setFld (h : Handle) (lo n v : Nat) : Handle :=
  let b := h.bits.toNat
  { h with bits := .ofNat 128 (b / 2 ^ (lo + n) * 2 ^ (lo + n) + v % 2 ^ n * 2 ^ lo + b % 2 ^ lo) }
/-- The handle with the given fields, tag set. -/
def make (oid rights gran low high cur : Nat) : Handle :=
  ⟨.ofNat 128 (oid * 2 ^ 108 + rights * 2 ^ 100 + gran * 2 ^ 96 + low * 2 ^ 72 + high * 2 ^ 48 + cur), true⟩
end Handle

def rR : Nat := 7
def rW : Nat := 6
def rA : Nat := 5
def rB : Nat := 4
def rP : Nat := 3
def rS : Nat := 2
def rN : Nat := 1

/-- The object identifier that the model gives the cluster window (R79). -/
def cqOid : Nat := 0xFFFFE
/-- The cluster window handle of h15 (R79): rights R, W, S, N over bytes 0 to 0x1FF. -/
def cqHandle : Handle := .make cqOid 0xC6 0 0 8 0

/-- The checks of R74 on n bytes at address a with right k: the cause of the first that fails. -/
def Handle.check (h : Handle) (k : Nat) (a : Int) (n : Nat) : Option Nat :=
  if !h.tag then some 4
  else if !h.has k then some 5
  else if (h.lowB : Int) ≤ a ∧ a + n ≤ h.highB then none
  else some 6

/-! ### The graph image's sections (R278) -/

/-- Location of byte `off` of context c's image. -/
def State.img (s : State) (c off : Nat) : Nat := locFast (s.ctx c).part.val (fld (s.ctx c).img 6 42 * 64 + off)
/-- Offset and size of the section whose header field lies at `at_`. -/
def State.section (s : State) (c at_ : Nat) : Nat × Nat := (s.rdNat (s.img c at_) 4, s.rdNat (s.img c (at_ + 4)) 4)
/-- Descriptors of the image. -/
def State.ndesc (s : State) (c : Nat) : Nat := (s.section c 0x18).2 / 128
/-- Location of word k of descriptor d. -/
def State.descLoc (s : State) (c d k : Nat) : Nat := s.img c ((s.section c 0x18).1 + 128 * d + 8 * k)
/-- Word k of descriptor d. -/
def State.descWord (s : State) (c d k : Nat) : Word := s.rd64 (s.descLoc c d k)
/-- The OID that descriptor d's handle names. -/
def State.descOid (s : State) (c d : Nat) : Nat := fld (s.descWord c d 3) 44 20
/-- The first of the descriptors d, d + 1, … (n of them) whose bound handle names an OID. -/
def State.findDesc (s : State) (c oid d : Nat) : Nat → Option Nat
  | 0 => none
  | n + 1 => if (s.descWord c d 0).getLsbD 32 && s.descOid c d = oid then some d else s.findDesc c oid (d + 1) n

/-! ### Traps (R21, R376, R416 to R418) -/

/-- A trap with nothing named beside its cause and detail. -/
def trapOf (cause detail : Nat) : TrapInfo := ⟨cause, detail, none, none, none⟩

/-- The index k levels out from the innermost loop (R161). -/
def Stream.li (x : Stream) (k : Nat) : Word := match x.loops.drop k with | [] => 0 | e :: _ => e.idx

/-- Who raised a trap, as the record names it: the gang with member, stream and core, the sequencer, the stream's PC. -/
structure TrapFrom where
  ctx : Nat
  gang : Option Gang
  member : Nat
  sec : Bool
  core : Option Nat
  sq : Nat
  pc : Word
  str : Stream
  tix : Nat
  opc : Nat
  bpc : Nat

/-- The eight words of a KIND 1 or KIND 3 record but for RSEQ (R418). -/
def trapWords (s : State) (kind : Nat) (f : TrapFrom) (x : TrapInfo) (dv : Bool) (desc oid : Nat) : List Word :=
  let gv := f.gang.isSome
  let l := f.str
  [ pack [(48, 16, x.cause), (32, 16, x.detail), (24, 8, f.opc), (22, 2, f.sq), (21, 1, gv.toNat), (20, 1, f.core.isSome.toNat),
      (19, 1, dv.toNat), (16, 3, kind), (0, 10, f.ctx)],
    pack [(48, 16, match f.gang with | some g => g.gk | none => 0), (46, 2, f.member), (45, 1, f.sec.toNat),
      (41, 4, match f.gang with | some g => g.clu | none => 0), (39, 2, f.core.getD 0), (0, 24, f.bpc)],
    pack [(32, 20, oid), (0, 32, x.tix.getD f.tix)],
    pack [(48, 16, desc), (0, 48, f.pc.toNat)],
    pack [(0, 16, (l.li 0).toNat), (16, 16, (l.li 1).toNat), (32, 16, (l.li 2).toNat), (48, 16, (l.li 3).toNat)],
    pack [(0, 16, (l.li 4).toNat), (16, 16, (l.li 5).toNat), (32, 3, l.loops.length)],
    s.clk ]

/-- A context that can still be stopped by a trap (R376). -/
def CtxSt.live : CtxSt → Bool
  | .ready | .running | .waiting => true
  | _ => false

/-- Put a context into STOPPING with the end its run will report; a run ends once. -/
def State.stopCtx (s : State) (c : Nat) (e : RunEnd) : State :=
  if (s.ctx c).st.live then s.modCtx c fun x => { x with st := .stopping, ending := some e, awaits := .none } else s

/-- Queue the record of a trap and stop its context (R21, R418): only the trap that stops the run leaves a record. -/
def State.operatorTrap (s : State) (f : TrapFrom) (x : TrapInfo) (dv : Bool) (desc oid : Nat) : State :=
  if (s.ctx f.ctx).st.live then
    let r : TrapRec := ⟨1, f.ctx, trapWords s 1 f x dv desc oid⟩
    let s := s.modPart (s.ctx f.ctx).part.val fun p => { p with traps := p.traps ++ [r] }
    (s.stopCtx f.ctx ⟨1, .ofNat 16 x.cause⟩).modCtx f.ctx fun c => { c with trapQueued := true }
  else s

/-- Stop every member of a gang before its next bundle (R21). -/
def State.stopGang (s : State) (g : Nat) : State :=
  let s := s.modGang g fun x => { x with trapped := true }
  { s with engines := s.engines.map fun (e, x) => if x.gang = some g then (e, { x with stopped := true }) else (e, x) }

/-- Take a trap raised in gang g by a member's stream, on a core or after issue, for the bundle at `pc` (R21, R418). -/
def State.gangTrap (s : State) (g member : Nat) (sec : Bool) (core : Option Nat) (pc : Word) (x : TrapInfo) : State :=
  match s.gangOf g with
  | none => s
  | some gg =>
    let str := match core with | some e => (s.eng e).str sec | none => Stream.reset
    let d := match x.oid with | some o => s.findDesc gg.ctx o 0 (s.ndesc gg.ctx) | none => none
    let f : TrapFrom := ⟨gg.ctx, some gg, member, sec, some ((core.getD 0) % 4), gg.sq, pc, str, gg.tix, gg.opc, gg.bpc⟩
    (s.operatorTrap f x (x.oid.isSome || x.desc.isSome) ((x.desc.or d).getD 0) (x.oid.getD 0)).stopGang g

/-- Take a trap raised on sequencer q (R274, R303, R418): of the descriptor and the OID, what it does not name comes from tdsc. -/
def State.seqTrap (s : State) (q : Nat) (x : TrapInfo) : State :=
  let e := s.eng (48 + q)
  let z := s.seq q
  let c := z.ctx.getD noCtx
  let opc := match z.words with | [] => 0 | w :: _ => w.toNat / 2 ^ 24
  let pc := match z.routine with | .micro => e.prim.pc | _ => 0
  let f : TrapFrom := ⟨c, none, 0, false, none, q, pc, e.prim, e.tix.toNat, opc, (s.ctx c).bpc⟩
  s.operatorTrap f x (x.oid.isSome || x.desc.isSome || e.tdsc ≠ 0) (x.desc.getD (e.tdsc.toNat % 2 ^ 16)) (x.oid.getD (e.tdsc.toNat / 2 ^ 16))

/-- Take a trap of the bundle in focus: the shared exception entry of every instruction. The trap queue's record saves
the PC, loop indices and cause, the gang stops, and the context goes to STOPPING (R21, R417, R418). -/
def State.takeTrap (s : State) (x : TrapInfo) : State :=
  let s := { s with slot := .trap x }
  if isSeq s.focus.eng then s.seqTrap (s.focus.eng - 48) x
  else match s.fe.gang with
    | none => s
    | some g => s.gangTrap g s.fe.member s.focus.sec (some s.focus.eng) s.fs.pc x

/-- A fault found after issue by an operation of the stream in focus: the gang or the context stops, and the slots of
the bundle keep their effect (R175, R417). -/
def State.portTrap (s : State) (x : TrapInfo) : State :=
  let t := s.takeTrap x
  { t with slot := s.slot }

/-! ### Slot instructions -/

/-- The slot's bundle cannot issue now (R127). -/
def State.stall (s : State) : State := { s with slot := .stall }
/-- The slot's bundle traps (R417). -/
def State.trapped (s : State) (x : TrapInfo) : State := { s with slot := .trap x }
/-- A trap that names the object of a handle. -/
def State.hTrapped (s : State) (cause detail : Nat) (h : Handle) : State := s.trapped ⟨cause, detail, some h.oid, none, none⟩

end Sys2Proof.Machine
end

