-- ==== Sys2Proof/Machine/Operands.lean ====
section
/-!
DEFINITION. Every operand form: reading g, v, h and p sources, stall conditions of the queues, fixed-latency results and
their queue entries, wait tokens, and the commit of results to registers.
-/
namespace Sys2Proof.Machine

/-! ### Reading operands (R134, R135, R161, R137) -/

/-- Predicate p[k] of the engine in focus. -/
def State.pred (s : State) (k : Nat) : PredBits := tget 0 s.fe.p k

/-- The predicate of a slot for every byte: all active with PE = 0 (R134). -/
def State.active (s : State) : Pred → PredBits
  | .always => .allOnes 256
  | .on neg p => if neg then ~~~ s.pred p.val else s.pred p.val

/-- The operation executes: PE = 0, or bit 0 of the predicate is set (R134). -/
def State.enabled (s : State) (pr : Pred) : Bool := (s.active pr).getLsbD 0

/-- A queue entry has been filled (R138). -/
def Fill.filled (clk : Word) : Fill → Bool
  | .ready => true
  | .at c => c ≤ clk.toNat
  | .token _ => false

/-- A g source; none where its queue entry is not yet filled (R138). -/
def State.g? (s : State) (t : ElemType) : GSrc → Option Word
  | .reg n => some (if n.val = 0 then 0 else tget 0 s.fs.g n.val)
  | .que k => match s.fs.sq.drop (k.val + s.fs.resv) with
    | [] => some 0
    | e :: _ => if e.fill.filled s.clk then some e.val else none
  | .li k => some (s.fs.li k.val)
  | .lc => some (match s.fs.loops with | [] => 0 | e :: _ => e.rem.truncate 64)
  | .pcb => some s.fs.pc
  | .long w => some w
  | .const k => some (.ofNat 64 (constBits t k))

/-- Read a g source, or stall. -/
def withG (s : State) (t : ElemType) (src : GSrc) (k : Word → State) : State :=
  match s.g? t src with
  | none => s.stall
  | some v => k v

/-- Register hn as stream `sec` sees it: its own last commit of this clk, or what both streams see (R139). -/
def Engine.hAt (x : Engine) (sec : Bool) (n : Nat) : Handle :=
  match (x.hnew.filter fun f => f.sec == sec && f.n == n).getLast? with
  | some f => f.v
  | none => tget .null x.h n

/-- An h register. -/
def State.h (s : State) (n : Fin 16) : Handle := s.fe.hAt s.focus.sec n.val

/-- The physical number of vk (R146). -/
def physV (rb : BitVec 4) (n : Nat) : Nat := if n < 16 then n else 16 + (n - 16 + 16 - rb.toNat) % 16

/-- Every element of a vector holds the low w(t) bits of x (R135). -/
def splat (t : ElemType) (x : Nat) : Vec :=
  .ofNat 2048 (x % 2 ^ t.width * ((2 ^ 2048 - 1) / (2 ^ t.width - 1)))

/-- Element i of type t. -/
def lane (t : ElemType) (v : Vec) (i : Nat) : Nat := v.toNat / 2 ^ (i * t.width) % 2 ^ t.width

/-- A vector from its elements of type t, lane 0 first. -/
def fromLanes (t : ElemType) : List Nat → Nat
  | [] => 0
  | x :: xs => x % 2 ^ t.width + 2 ^ t.width * fromLanes t xs

/-- The vector with element i equal to f i. -/
def mkVec (t : ElemType) (f : Nat → Nat) : Vec := .ofNat 2048 (fromLanes t ((rangeFrom 0 t.lanes).map f))

/-- Element i of type t is active: the predicate bit of its first byte (R134, R7). -/
def laneOn (t : ElemType) (p : PredBits) (i : Nat) : Bool := p.getLsbD (i * t.width / 8)

/-- The binding of stream k. -/
def State.bind (s : State) (k : Nat) : Option Binding := tget none s.fe.binds k
def State.setBind (s : State) (k : Nat) (b : Option Binding) : State :=
  s.modFe fun x => { x with binds := tput none x.binds k b }

/-- Count of dimension j and its stride in a binding's geometry word (R195). -/
def geoCount (w : Word) : Nat := fld w 0 16 + 1
def geoStride (w : Word) : Int := ((w.sshiftRight 16).toInt)

/-- Elements of a bound pattern (R84). -/
def Binding.total (b : Binding) : Nat := (b.geo.map geoCount).foldl (· * ·) 1

/-- Read a v source; a stream read takes its next element, stalling on an empty window (R85, R135, R195). -/
def withV (s : State) (t : ElemType) (src : VSrc) (k : State → Vec → State) : State :=
  match src with
  | .reg n => k s (tget 0 s.fe.v (physV s.fe.rb n.val))
  | .que q => match s.fe.vq.drop (q.val + s.fe.vresv) with
    | [] => k s 0
    | e :: _ => if e.fill.filled s.clk then k s e.val else s.stall
  | .long w => k s (splat t w.toNat)
  | .const c => k s (splat t (constBits t c))
  | .strm j => match s.bind j.val with
    | none => s.trapped (trapOf 0x0E j.val)
    | some b =>
      if b.write then s.trapped (trapOf 0x0E j.val)
      else if b.total ≤ b.next then s.trapped (trapOf 0x0D j.val)
      else match b.window with
        | [] => s.stall
        | v :: w => k (s.setBind j.val (some { b with next := b.next + 1, window := w })) v

/-! ### Results (R136, R138, R139, R171, R201) -/

/-- Reserve a scalar-queue entry. -/
def State.reserve (s : State) (v : Word) (f : Fill) : State :=
  s.modFs fun x => { x with sq := ⟨v, f⟩ :: x.sq, resv := x.resv + 1 }

/-- Reserve a vector-queue entry. -/
def State.vreserve (s : State) (v : Vec) (f : Fill) : State :=
  s.modFe fun x => { x with vq := ⟨v, f⟩ :: x.vq, vresv := x.vresv + 1 }

/-- A result that commits in L issue cycles, with its flags. -/
def State.commit (s : State) (L : Nat) (dst : CDst) (flags : Flags) : State :=
  s.modFs fun x => { x with pend := x.pend ++ [⟨x.cycle + L, dst, flags⟩] }

/-- A fixed-latency g result. -/
def putG (s : State) (d : GDst) (L : Nat) (v : Word) (flags : Flags) : State :=
  let s := s.reserve v (.at (s.clk.toNat + L))
  s.commit L (match d with | .reg n => if n.val = 0 then .none else .g n.val v | .que => .none) flags

/-- A fixed-latency h result (not pushed). -/
def putH (s : State) (d : Fin 16) (L : Nat) (h : Handle) : State := s.commit L (.h d.val h) 0

/-- A fixed-latency p result (not pushed). -/
def putP (s : State) (d : Fin 8) (L : Nat) (v : PredBits) (flags : Flags) : State := s.commit L (.p d.val v) flags

/-- The bytes selected by m from x, the others from y. -/
def mergeBytes (m : PredBits) (x y : Vec) : Vec :=
  .ofNat 2048 (leNat ((rangeFrom 0 256).map fun i =>
    BitVec.ofNat 8 ((if m.getLsbD i then x.toNat else y.toNat) / 2 ^ (8 * i))))

/-- The mask whose bytes follow the activity of the elements of type t. -/
def laneMask (t : ElemType) (p : PredBits) : PredBits :=
  .ofNat 256 (((rangeFrom 0 256).map fun j => if laneOn t p (j * 8 / t.width) then 2 ^ j else 0).sum)

/-- Vectors of stream k that are written but not yet committed. -/
def strmPending (x : Stream) (k : Nat) : Nat :=
  (x.pend.filter fun c => match c.dst with | .strm j _ => j == k | _ => false).length

/-- A fixed-latency v result under the byte mask m (R201, R136, R85). -/
def putV (s : State) (d : VDst) (L : Nat) (m : PredBits) (v : Vec) (flags : Flags) : State :=
  match d with
  | .reg n =>
    let ph := physV s.fe.rb n.val
    (s.vreserve (mergeBytes m v (tget 0 s.fe.v ph)) (.at (s.clk.toNat + L))).commit L (.v ph m v) flags
  | .que => (s.vreserve (mergeBytes m v 0) (.at (s.clk.toNat + L))).commit L .none flags
  | .strm k => match s.bind k.val with
    | none => s.trapped (trapOf 0x0E k.val)
    | some b =>
      if !b.write then s.trapped (trapOf 0x0E k.val)
      else if b.total ≤ b.next + strmPending s.fs k.val then s.trapped (trapOf 0x0D k.val)
      else s.commit L (.strm k.val (mergeBytes m v 0)) flags

/-! ### Wait tokens (R142, R7) -/

def Stream.tok (x : Stream) (w : Nat) : BitVec 32 := tget 0 x.toks w
def Stream.setTok (x : Stream) (w : Nat) (v : BitVec 32) : Stream := { x with toks := tput 0 x.toks w v }

/-- TokAdd: charge a token of the stream in focus, or take the token-overflow trap. -/
def tokAdd (s : State) (w n : Nat) (k : State → State) : State :=
  if (s.fs.tok w).toNat + n < 2 ^ 32 then k (s.modFs fun x => x.setTok w (.ofNat 32 ((x.tok w).toNat + n)))
  else s.trapped (trapOf 0x08 w)

/-- Discharge a token; a discharge larger than the count leaves zero (R262). -/
def State.tokSub (s : State) (e : Nat) (sec : Bool) (w n : Nat) : State :=
  s.modEng e fun x => x.modStr sec fun y => y.setTok w (.ofNat 32 ((y.tok w).toNat - n))

/-- Discharge by one the token an operation names, if it names one. -/
def State.tokDone (s : State) (e : Nat) (sec : Bool) : Option Nat → State
  | none => s
  | some w => s.tokSub e sec w 1

/-! ### Committing results (R139, R171, R203) -/

/-- The last element written to stream k becomes an access of its pattern (R85, R111). -/
def vecBytes (v : Vec) : List Byte := leBytes 256 v.toNat
def bytesVec (l : List Byte) : Vec := .ofNat 2048 (leNat l)

/-- Insert a write of shared state in order of clk, the primary stream's before the secondary's (R139, R170). -/
def insertFresh {α : Type} (f : Fresh α) : List (Fresh α) → List (Fresh α)
  | [] => [f]
  | g :: l => if 2 * f.clk + f.sec.toNat < 2 * g.clk + g.sec.toNat then f :: g :: l else g :: insertFresh f l

/-- The writes made before clk `now`, in order, and those that still wait. -/
def splitFresh {α : Type} (now : Nat) (l : List (Fresh α)) : List (Fresh α) × List (Fresh α) :=
  ((l.filter fun f => f.clk < now).foldl (fun k f => insertFresh f k) [], l.filter fun f => !(f.clk < now))

/-- Write a CSR's fields (R170). -/
def Engine.writeCsr (x : Engine) (n : Nat) (v : Word) : Engine :=
  if n = 0 then { x with astat := v.truncate 4 }
  else if n = 1 then { x with rmode := v.truncate 3 }
  else if n = 2 then { x with rseed := v.truncate 32 }
  else if n = 32 then { x with tix := v.truncate 32 }
  else if n = 33 then { x with tdsc := v.truncate 36 }
  else x

/-- At clk `now` the CSR writes and h commits of earlier clks stand for both streams (R139, R170, R171). -/
def Engine.settleNew (x : Engine) (now : Nat) : Engine :=
  let c := splitFresh now x.ncsr
  let h := splitFresh now x.hnew
  { c.1.foldl (fun y f => y.writeCsr f.n f.v) x with
    ncsr := c.2, h := h.1.foldl (fun t f => tput .null t f.n f.v) x.h, hnew := h.2 }

/-- Write one committed result into the registers of engine e at clk `now`. Stream writes are left to `Machine/Access.lean`. -/
def Engine.apply (x : Engine) (now : Nat) (sec : Bool) (c : Commit) : Engine :=
  let x := { x with astat := x.astat ||| c.flags }
  match c.dst with
  | .none => x
  | .g n v => x.modStr sec fun y => { y with g := tput 0 y.g n v }
  | .h n v => { x with hnew := x.hnew ++ [⟨now, sec, n, v⟩] }
  | .p n v => { x with p := tput 0 x.p n v }
  | .v n m v => { x with v := tput 0 x.v n (mergeBytes m v (tget 0 x.v n)) }
  | .strm _ _ => x

end Sys2Proof.Machine
end

