-- ==== Sys2Proof/Machine/Objects.lean ====
section
/-!
DEFINITION. Object tables and translation at the port (R393 to R397, R431), residency words and demand fetches (R399 to
R410), the protected images (R443), and the sampling of requests (R413).
-/
namespace Sys2Proof.Machine

/-- Set key k of a list of keyed entries that has no default. -/
def tset {α : Type} (t : Tbl α) (k : Nat) (v : α) : Tbl α :=
  t.filter (fun e => e.1 < k) ++ [(k, v)] ++ t.filter (fun e => k < e.1)

/-- The entry at key k, if listed. -/
def tfind {α : Type} (t : Tbl α) (k : Nat) : Option α := (t.find? (·.1 == k)).map (·.2)

/-! ### Object entries (R393, R394) -/

/-- Location of the 32 bytes of an object entry, where the directory has its leaf (R393). -/
def State.leafLoc (s : State) (c oid : Nat) : Option Nat :=
  let x := s.ctx c
  if !x.otdir.getLsbD 0 then none
  else
    let d := s.rd64 (locFast x.part.val (fld x.otdir 13 35 * 8192 + oid / 1024 * 8))
    if !d.getLsbD 0 || outside d [(0, 1), (15, 33)] ≠ 0 then none
    else some (locFast x.part.val (fld d 15 33 * 32768 + oid % 1024 * 32))

/-- An entry from its four words; none where V is clear, a res0 field is not zero or SPACE is reserved. -/
def decodeObj (w0 w1 w2 w3 : Word) : Option ObjEnt :=
  let sp := fld w0 60 3
  if h : w0.getLsbD 63 ∧ sp < 5 ∧ fld w0 48 8 = 0 ∧ fld w1 45 3 = 0 ∧ fld w1 33 7 = 0 ∧ fld w3 32 32 = 0 then
    let base := if sp = 0 then fld w2 0 11 else if sp = 4 then fld w2 0 16 else if sp = 2 then fld w2 4 44 * 16 else w2.toNat
    some ⟨⟨sp, h.2.1⟩, fld w0 56 4, fld w0 0 48, fld w1 48 16, fld w1 40 5, w1.getLsbD 32, fld w1 0 32, base, fld w3 0 32⟩
  else none

/-- The words of an entry. -/
def encodeObj : Option ObjEnt → List Word
  | none => [0, 0, 0, 0]
  | some x =>
    [ pack [(63, 1, 1), (60, 3, x.space.val), (56, 4, x.clu), (0, 48, x.size)],
      pack [(48, 16, x.layer), (40, 5, x.prio), (32, 1, x.pin.toNat), (0, 32, x.nextu)], .ofNat 64 x.base, .ofNat 64 x.next ]

/-- The object entry of an OID: the table's in memory, or the runtime's own where the directory has no leaf. -/
def State.objEnt (s : State) (c oid : Nat) : Option ObjEnt :=
  match s.leafLoc c oid with
  | some l => decodeObj (s.rd64 l) (s.rd64 (l + 8)) (s.rd64 (l + 16)) (s.rd64 (l + 24))
  | none => (tfind (s.ctx c).objs oid).getD none

/-- Write or remove an object entry. -/
def State.putObj (s : State) (c oid : Nat) (o : Option ObjEnt) : State :=
  match s.leafLoc c oid with
  | some l => s.putWords l (encodeObj o)
  | none => s.modCtx c fun x => { x with objs := tset x.objs oid o }

/-! ### Extents (R395) -/

/-- Granules of an object (R395). -/
def ObjEnt.granules (x : ObjEnt) : Nat := (x.size + 65535) / 65536

def decodeExt (w0 w1 : Word) : Option Extent :=
  if fld w0 56 5 = 0 ∧ fld w1 56 8 = 0 ∧ fld w1 23 9 = 0 then
    some ⟨⟨fld w0 62 2, Nat.mod_lt _ (by decide)⟩, w0.getLsbD 61, fld w0 32 24, fld w0 0 32, fld w1 32 24, fld w1 0 23⟩
  else none

def encodeExt (x : Extent) : List Word :=
  [pack [(62, 2, x.st.val), (61, 1, x.clean.toNat), (32, 24, x.ng), (0, 32, x.og)], pack [(32, 24, x.bg), (0, 23, x.fg)]]

def State.readExts (s : State) (l : Nat) : Nat → Option (List Extent)
  | 0 => some []
  | n + 1 => match decodeExt (s.rd64 l) (s.rd64 (l + 8)), s.readExts (l + 16) n with
    | some x, some xs => some (x :: xs)
    | _, _ => none

/-- The extents cover granules g … total − 1 exactly once. -/
def extsCover (g total : Nat) : List Extent → Bool
  | [] => g == total
  | x :: xs => x.og == g && 0 < x.ng && extsCover (g + x.ng) total xs

/-- The extent list of a fast-tier object; none where it is malformed. An extent-list address of 0 names the list that
the runtime keeps itself. -/
def State.extsOf (s : State) (c oid : Nat) (x : ObjEnt) : Option (List Extent) :=
  let l := if x.base = 0 then tfind (s.ctx c).exts oid
    else if x.next ≤ x.granules then s.readExts (locFast (s.ctx c).part.val x.base) x.next else none
  match l with
  | some es => if extsCover 0 x.granules es then some es else none
  | none => none

/-- Replace an object's extent list: in place where its length is kept, else as a list of the runtime. -/
def State.putExts (s : State) (c oid : Nat) (x : ObjEnt) (es : List Extent) : State :=
  if x.base ≠ 0 ∧ es.length = x.next then s.putWords (locFast (s.ctx c).part.val x.base) (es.flatMap encodeExt)
  else
    (s.modCtx c fun y => { y with exts := tset y.exts oid es }).putObj c oid (some { x with base := 0, next := es.length })

/-- Change the mapping of granule g alone. -/
def setGran (g : Nat) (f : Extent → Extent) : List Extent → List Extent
  | [] => []
  | x :: xs =>
    if x.og ≤ g ∧ g < x.og + x.ng then
      let k := g - x.og
      let pre : List Extent := if k = 0 then [] else [{ x with ng := k }]
      let post : List Extent :=
        if k + 1 = x.ng then [] else [{ x with ng := x.ng - k - 1, og := g + 1, bg := x.bg + k + 1, fg := x.fg + k + 1 }]
      pre ++ [f { x with ng := 1, og := g, bg := x.bg + k, fg := x.fg + k }] ++ post ++ xs
    else x :: setGran g f xs

def extAt (es : List Extent) (g : Nat) : Option Extent := es.find? fun x => x.og ≤ g && g < x.og + x.ng

/-! ### Residency words (R399, R400) -/

/-- Location of the residency word of layer n. -/
def State.resLoc (s : State) (c n : Nat) : Nat := locSbm (fld (s.ctx c).rwbase 3 23 * 8 + 8 * n)
def State.resWord (s : State) (c n : Nat) : Word := s.rd64 (s.resLoc c n)
def State.resSet (s : State) (c n : Nat) : Bool := (s.resWord c n).getLsbD 63

/-! ### Translation (R396, R397, R431) -/

/-- Where one byte of an object lies. -/
inductive Place where
  | at_ (l : Nat) | noObject | bounds
  | absent (layer : Option Nat) (granule : Nat)
  deriving DecidableEq, Repr

/-- A valid window entry (R431). -/
structure WinEnt where
  kind : Nat
  s : Bool
  addr : Word
  size : Nat

def State.winEnt (s : State) (c k : Nat) : Option WinEnt :=
  let x := s.ctx c
  if x.wincnt ≤ k then none
  else
    let l := locFast x.part.val (fld x.winbase 5 43 * 32 + 32 * k)
    let w0 := s.rd64 l
    let a := s.rd64 (l + 8)
    let kd := fld w0 60 3
    let res := if kd = 2 then outside a [(32, 10), (0, 12)] else if kd = 3 then outside a [(32, 2), (0, 12)] else 0
    let w2 := s.rd64 (l + 16)
    if w0.getLsbD 63 && kd < 4 && fld w0 0 38 = 0 && res = 0 && fld w2 48 16 = 0 && fld w2 0 12 = 0 && s.rd64 (l + 24) = 0 &&
        (kd != 1 || w0.getLsbD 59) then
      some ⟨kd, w0.getLsbD 59, a, fld w2 0 48⟩
    else none

/-- An export entry (R435). -/
structure ExpEnt where
  w : Bool
  a : Bool
  peer : Bool
  bus : Bool
  ctx : Nat
  oid : Nat
  off : Nat
  ng : Nat
  apg : Nat

/-- Entry k of the export table as context c's last OTSYNC left it, if valid and owned by c. -/
def State.expEnt (s : State) (c k : Nat) : Option ExpEnt :=
  let x := s.ctx c
  if x.expcnt ≤ k then none
  else
    let l := locFast x.part.val (fld x.expbase 5 43 * 32 + 32 * k)
    let w0 := s.rd64 l
    let w1 := s.rd64 (l + 8)
    let w2 := s.rd64 (l + 16)
    let res0 := fld w0 30 29 = 0 && fld w1 48 16 = 0 && fld w2 52 12 = 0 && fld w2 20 12 = 0 && s.rd64 (l + 24) = 0
    if w0.getLsbD 63 && res0 && fld w0 20 10 = c then
      some ⟨w0.getLsbD 62, w0.getLsbD 61, w0.getLsbD 60, w0.getLsbD 59, c, fld w0 0 20, fld w1 0 48, fld w2 32 20, fld w2 0 20⟩
    else none

/-- The export entry k of partition p (R435). -/
def State.export? (s : State) (p k : Nat) : Option ExpEnt :=
  (tkeys s.ctxs).findSome? fun c => if (s.ctx c).part.val = p then s.expEnt c k else none

/-- Stacks of a partition (R69, R371). -/
def State.stacks (s : State) : Nat := if s.dev.mode = 0 then 8 else if s.dev.mode = 1 then 4 else 2

/-- The partition that owns a byte of shared bank memory: by its bank, or in the collective table by its entry (R371). -/
def State.sbmPart (s : State) (l : Nat) : Nat :=
  if s.dev.mode = 0 then 0
  else if collLoc ≤ l ∧ l < collLoc + 2 ^ 18 then partOfUnit s.dev.mode ((l - collLoc) / 65536)
  else partOfUnit s.dev.mode ((l - locSbm 0) / 256 % 512 / 128)

/-- Partition p has this location: no object maps memory that does not exist or that is another partition's (R371, R372). -/
def State.owns (s : State) (p l : Nat) : Bool :=
  if isFast l then l % 2 ^ 40 < s.stacks * 0xC00000000
  else if isCap l then l - locCap 0 < 2 ^ 40 && partOfUnit s.dev.mode ((l - locCap 0) / 2 ^ 38) = p
  else if isSbm l then l - locSbm 0 < 2 ^ 26 && s.sbmPart l = p
  else if isSp l then (l - locSp 0 0) / 2 ^ 28 < 12 && partOfUnit s.dev.mode ((l - locSp 0 0) / 2 ^ 28 / 3) = p
  else true

/-- A location as a place of partition p. -/
def State.placed (s : State) (p l : Nat) : Place := if s.owns p l then .at_ l else .noObject

/-- Byte o of an object that is no window. -/
def State.placeIn (s : State) (c oid : Nat) (x : ObjEnt) (o : Nat) : Place :=
  let p := (s.ctx c).part.val
  if x.size ≤ o then .bounds
  else match x.space.val with
    | 0 => s.placed p (locSp x.clu (x.base * 16384 + o))
    | 1 => s.placed p (locSbm (x.base + o))
    | 3 => s.placed p (locCap (x.base + o))
    | 2 => match s.extsOf c oid x with
      | none => .noObject
      | some es => match extAt es (o / 65536) with
        | none => .noObject
        | some e =>
          if x.layer ≠ 0xFFFF ∧ !s.resSet c x.layer then .absent (some x.layer) (o / 65536)
          else if e.st.val = 0 ∨ e.st.val = 3 then .absent (if x.layer = 0xFFFF then none else some x.layer) (o / 65536)
          else s.placed p (locFast p ((e.fg + o / 65536 - e.og) * 65536 + o % 65536))
    | _ => .noObject

/-- Byte o of object OID of context c (R396); a window maps to its target, a partition export to its object. -/
def State.place (s : State) (c oid : Nat) (x : ObjEnt) (o : Nat) : Place :=
  if x.space.val ≠ 4 then s.placeIn c oid x o
  else match s.winEnt c x.base with
    | none => .noObject
    | some w =>
      if w.size ≤ o then .bounds
      else match w.kind with
        | 2 => .at_ (locPeer (fld w.addr 32 10) (fld w.addr 0 12) o)
        | 3 => match s.export? (fld w.addr 32 2) (fld w.addr 0 12) with
          | none => .noObject
          | some e =>
            if !e.peer || e.ng * 65536 ≤ o then .noObject
            else match s.objEnt e.ctx e.oid with
              | none => .noObject
              | some y =>
                if y.space.val = 1 ∨ (y.space.val = 2 ∧ y.pin) then
                  match s.placeIn e.ctx e.oid y (e.off + o) with
                  | .at_ l => .at_ l
                  | _ => .noObject
                else .noObject
        | _ => .at_ (locBus (w.addr.toNat + o))

/-- The object is a window onto a partition export (R431, KIND 3). -/
def State.isExport (s : State) (c oid : Nat) : Bool :=
  match s.objEnt c oid with
  | some x => x.space.val = 4 && (match s.winEnt c x.base with | some w => w.kind = 3 | none => false)
  | none => false

/-- The export that a KIND 3 window names lacks the right to write, or to perform atomics (R435, R436). -/
def State.exportBars (s : State) (c oid : Nat) (wr : Bool) : Bool :=
  s.isExport c oid && match (s.objEnt c oid).bind fun x => (s.winEnt c x.base).bind fun w => s.export? (fld w.addr 32 2) (fld w.addr 0 12) with
    | some e => !(if wr then e.w else e.a)
    | none => true

/-- A write that an export does not let in is dropped and counted (R436). -/
def State.inDrop (s : State) : State := s.modDev fun d => { d with indrop := d.indrop + 1 }

/-- Split n bytes at object address a where a 64 KiB granule ends: (offset, length) pieces. -/
def granPieces (a n : Nat) : List (Nat × Nat) :=
  let k := 65536 - a % 65536
  if n ≤ k then [(a, n)] else [(a, k), (a + k, n - k)]

/-! ### Demand fetches, swap faults (R405, R409, R410) -/

/-- Room left in a ring of n entries. -/
def ringRoom (widx cons : BitVec 16) (n : Nat) : Bool := (widx - cons).toNat < n

/-- Write the Orrery events that fit into the event ring (R402). -/
def State.flushOr (s : State) (p : Nat) : List (List Word) → State
  | [] => s.modPart p fun x => { x with orEvents := [] }
  | e :: es =>
    let x := s.part p
    let n := 2 ^ (fld x.orebase 0 4 + 4)
    if ringRoom x.oreWidx x.oreCons n then
      let s := s.putWords (locFast p (fld x.orebase 6 42 * 64 + 32 * (x.oreWidx.toNat % n))) e
      (s.modPart p fun y => { y with oreWidx := y.oreWidx + 1 }).flushOr p es
    else s.modPart p fun x => { x with orEvents := e :: es }

/-- Post one Orrery event. -/
def State.orEvent (s : State) (p : Nat) (tag ctx detail kind : Nat) (layer : Bool) (id gen ectx : Nat) : State :=
  let e := [pack [(32, 32, tag), (16, 10, ctx), (8, 8, detail), (0, 8, kind)], pack [(63, 1, layer.toNat), (0, 20, id)],
    pack [(0, 30, gen)], pack [(0, 10, ectx)]]
  s.flushOr p ((s.part p).orEvents ++ [e])

/-- An Orrery job that is fetching a layer or an object's granule. -/
def OrJob.fetching (c : Nat) (layer : Option Nat) (oid g : Nat) : OrJob → Bool
  | .fetchLayer c' n _ _ => c' == c && layer == some n
  | .fetchObj c' o todo => c' == c && o == oid && todo.contains g
  | .moveObj c' o og ng _ _ => c' == c && o == oid && og ≤ g && g < og + ng
  | _ => false

/-- Queue the demand fetch of a layer or a granule unless a fetch of it is under way (R405). -/
def State.demand (s : State) (c oid : Nat) (layer : Option Nat) (g prio : Nat) : State :=
  let p := (s.ctx c).part.val
  let x := s.part p
  let queued := x.demands.any fun d => d.ctx == c && d.layer == layer && (layer.isSome || (d.oid == oid && d.granule == g))
  if queued || x.job.fetching c layer oid g || x.djob.fetching c layer oid g then s
  else s.modPart p fun y => { y with demands := y.demands ++ [⟨c, layer, oid, g, prio⟩] }

/-- A non-resident request (R396, R405, R409, R410): its events and demand fetch, and whether the swap-fault trap
follows. -/
def State.absentReq (s : State) (c oid prio : Nat) (layer : Option Nat) (g : Nat) : State × Bool :=
  match layer with
  | none => (s.demand c oid none g prio, false)
  | some n =>
    let y := s.ctx c
    let ever := y.everRes.contains n
    let s := if ever && !y.faulted.contains n then
        let w := s.resWord c n
        let (e, pin) := tget (0, false) y.evictedBy n
        let s := s.orEvent y.part.val 0 c 0 (if pin then 4 else 3) true n (fld w 32 30) e
        s.modCtx c fun z => { z with faulted := z.faulted ++ [n], swapcnt := z.swapcnt + 1 }
      else s
    if ever && !y.refetch then (s, true) else (s.demand c oid (some n) g prio, false)

/-- The swap-fault trap of layer n: it names the descriptor of the layer whose object was asked for, else the layer's first, and that
one's object (R279, R409). -/
def State.layerTrap (s : State) (c n : Nat) (oid : Option Nat) : TrapInfo :=
  let w := s.rd64 (s.img c ((s.section c 0x30).1 + 16 * n))
  let d := ((rangeFrom (fld w 0 16) (fld w 16 16)).find? fun d => oid == some (s.descOid c d)).getD (fld w 0 16)
  ⟨0x2C, 0, some (s.descOid c d), some d, none⟩

/-- The swap-fault trap of a request to object `oid` of a layer (R409). -/
def State.swapTrap (s : State) (c oid : Nat) (layer : Option Nat) : TrapInfo :=
  match layer with
  | some n => s.layerTrap c n (some oid)
  | none => ⟨0x2C, 0, some oid, none, none⟩

/-- A sequencer's stall on a non-resident page: the demand fetch or the swap-fault trap (R396, R409). -/
def State.waitPage (s : State) (c oid prio : Nat) (layer : Option Nat) (g : Nat) : State :=
  let (t, f) := s.absentReq c oid prio layer g
  if f then t.takeTrap (s.swapTrap c oid layer) else { t with slot := .wait c oid prio layer g }

/-- Run one slot instruction: a stall or a trap leaves no effect of the instruction behind, and a trap is taken. -/
def slotRun (f : State → State) (s : State) : State :=
  let t := f { s with slot := .ok }
  match t.slot with
  | .ok => t
  | .stall => s.stall
  | .wait c oid prio layer g => s.waitPage c oid prio layer g
  | .trap x => s.takeTrap x

/-! ### Time: the clk is 1 ns (R2) -/

def usClk : Nat := 1000
def msClk : Nat := 1000000

/-- The clk of yo-yo retry k: min(2^(k−1) µs, RETRYMAX.US) from now (R420). -/
def State.retryAt (s : State) (k : Nat) : Nat := s.clk.toNat + min (2 ^ (k - 1)) s.dev.retrymax * usClk

/-! ### Protected images (R443) -/

/-- The protected range of a context's image: header to the end of its last section. -/
def State.imgRange (s : State) (c : Nat) : Nat × Nat :=
  let ends := [0x10, 0x18, 0x20, 0x28, 0x30, 0x38, 0x40].map fun k => let (o, n) := s.section c k; if n = 0 then 0 else o + n
  (s.img c 0, s.img c 0 + ends.foldl max 256)

/-- A write of n bytes at l touches a protected image. -/
def State.guarded (s : State) (l n : Nat) : Bool :=
  isFast l && (tkeys s.ctxs).any fun c =>
    (s.ctx c).img ≠ 0 && (let (a, b) := s.imgRange c; a < l + n && l < b)

/-! ### Sampling at a cluster port (R413) -/

/-- Sample one line request: count it, and write a record at each 2^K-th. -/
def State.sampleLine (s : State) (clu typ : Nat) (sec : Bool) (core ctx oid off l : Nat) : State :=
  let x := s.clu clu
  if !x.hscfg.getLsbD 0 then s
  else
    let n := x.hscount + 1
    let s := s.modClu clu fun y => { y with hscount := n }
    if n % 2 ^ fld x.hscfg 8 5 ≠ 0 then s
    else
      let cap := 2 ^ (fld x.hsring 0 4 + 6)
      let w : BitVec 16 := .ofNat 16 (fld x.hsptr 0 16)
      if ringRoom w (.ofNat 16 (fld x.hsptr 16 16)) cap then
        let pa := if isCap l then l - 2 ^ 44 else l % 2 ^ 40
        let r := [pack [(0, 48, off)],
          pack [(37, 3, typ), (36, 1, sec.toNat), (34, 2, core), (30, 4, clu), (20, 10, ctx), (0, 20, oid)], s.clk,
          pack [(40, 2, if isCap l then 3 else 2), (0, 40, pa)]]
        let s := s.putWords (locFast x.part.val (fld x.hsring 5 43 * 32 + 32 * (w.toNat % cap))) r
        s.modClu clu fun y => { y with hsptr := pack [(32, 32, fld y.hsptr 32 32), (16, 16, fld y.hsptr 16 16), (0, 16, w.toNat + 1)] }
      else s.modClu clu fun y => { y with hsptr := pack [(32, 32, fld y.hsptr 32 32 + 1), (0, 32, fld y.hsptr 0 32)] }

/-- Sample the 128-byte lines of fast-tier and capacity-tier pieces (object offset, location), each line once. -/
def State.sample (s : State) (clu typ : Nat) (sec : Bool) (core ctx oid : Nat) (seen : List Nat) : List (Nat × Nat) → State
  | [] => s
  | (o, l) :: ps =>
    if (isFast l || isCap l) && !seen.contains (l / 128) then
      (s.sampleLine clu typ sec core ctx oid o l).sample clu typ sec core ctx oid (l / 128 :: seen) ps
    else s.sample clu typ sec core ctx oid seen ps

end Sys2Proof.Machine
end

