-- ==== Sys2Proof/Machine/Pause.lean ====
section
/-!
DEFINITION. The collective table as the device reads it (R333), rank groups (R279), PAUSE comets (R346, R348), and the stores that
image protection guards (R443).
-/
namespace Sys2Proof.Machine

/-! ### Entries (R333) -/

def State.entWord (s : State) (k j : Nat) : Word := s.rd64 (collLoc + 64 * k + 8 * j)
def State.entHandle (s : State) (k j : Nat) : Handle := s.rdHandle (collLoc + 64 * k + 8 * j)
/-- Entry k accepts comets: ARM is set, the reserved bits are zero (R5) and its CID has a generation (R334). -/
def State.entArmed (s : State) (k : Nat) : Bool :=
  (s.entWord k 0).getLsbD 63 && fld (s.entWord k 0) 60 2 = 0 && fld (s.entWord k 0) 12 20 ≠ 0
def State.entCid (s : State) (k : Nat) : Nat := fld (s.entWord k 0) 0 32

/-- The object that holds a context's range of the table (R333). -/
def collOid : Nat := 0xFFFFF

/-- The entries of a context's range, as far as they are its partition's (R333, R371). -/
def State.entsOf (s : State) (c : Nat) : List Nat :=
  match s.objEnt c collOid with
  | some x =>
    if x.space.val = 1 then (rangeFrom 0 4096).filter fun k => partOfUnit s.dev.mode (k / 1024) = (s.ctx c).part.val &&
      locSbm x.base ≤ collLoc + 64 * k && collLoc + 64 * k + 64 ≤ locSbm (x.base + x.size)
    else []
  | none => []

/-- The context whose range holds entry k. -/
def State.entCtx (s : State) (k : Nat) : Option Nat := (tkeys s.ctxs).find? fun c => (s.entsOf c).contains k

/-- The devices of group n of a context's image (R279). -/
def State.group (s : State) (c n : Nat) : List Nat :=
  let (o, size) := s.section c 0x28
  if size ≤ 8 * n then []
  else
    let w := s.rd64 (s.img c (o + 8 * n))
    (rangeFrom 0 (fld w 0 16)).map fun i => fld w 32 32 + i * fld w 16 16

/-! ### Ports and timers -/

/-- Scale-up port k is up (R444). -/
def State.portUp (s : State) (k : Nat) : Bool :=
  match (tget SupPort.reset s.dev.sup k).st with | .up4 | .up8 => true | _ => false

/-- The timer of entry k stands still from now on. -/
def Device.freeze (d : Device) (clk k : Nat) : Device :=
  match tget (0, none) d.timers k with
  | (a, some t) => { d with timers := tput (0, none) d.timers k (a + (clk - t), none) }
  | _ => d

/-- The timer of entry k runs again. -/
def Device.unfreeze (d : Device) (clk k : Nat) : Device :=
  match tget (0, none) d.timers k with
  | (a, none) => { d with timers := tput (0, none) d.timers k (a, some clk) }
  | _ => d

/-- A comet is dropped and reported to firmware (R341). -/
def State.cometDrop (s : State) : State := s.modDev fun d => { d with cometReports := d.cometReports + 1 }

/-- One device more has paused a collective, or one fewer: the timer of the entry that is armed with its CID stands still or runs on
(R348). -/
def State.pauseCount (s : State) (cid : Nat) (pause : Bool) : State :=
  let n := s.dev.pausedBy cid
  let m := if pause then n + 1 else n - 1
  let mine := s.entArmed (cid % 4096) && s.entCid (cid % 4096) == cid
  s.modDev fun d =>
    let d := { d with pauses := d.pauses.filter (·.1 ≠ cid) ++ (if m = 0 then [] else [(cid, m)]) }
    if !mine then d
    else if pause then d.freeze s.clk.toNat (cid % 4096)
    else if m = 0 then d.unfreeze s.clk.toNat (cid % 4096) else d

/-! ### PAUSE comets (R346) -/

/-- A PAUSE comet for a device (R346): OP 7 in its one hop, BOFF 1 to pause and 0 to resume. -/
def pauseComet (cid dev pod port : Nat) (pause : Bool) : Comet :=
  { hdr := [ pack [(60, 4, 1), (56, 4, 1), (45, 3, 7), (0, 32, pause.toNat)], pack [(32, 32, cid)],
      pack [(27, 5, port), (16, 11, pod), (6, 10, dev)], 0, 0, 0, pack [(13, 3, 7)], 0 ]
    payload := [] }

/-- Send a PAUSE or resume comet for each (CID, group) to every other device of the group, by the lowest scale-up port that is up
(DESIGN CHOICE, log 97); with none up each comet is dropped and reported (R341). -/
def State.sendPauses (s : State) (c : Nat) (pause : Bool) : List (Nat × Nat) → State
  | [] => s
  | (cid, grp) :: l =>
    let ds := (s.group c grp).filter fun d => d ≠ s.dev.dev.toNat
    let s := match (rangeFrom 0 18).find? s.portUp with
      | some port => { s with comets := s.comets ++ ds.map fun d => OutComet.mk port (pauseComet cid d s.dev.pod.toNat port pause) false }
      | none => ds.foldl (fun s _ => s.cometDrop) s
    (s.pauseCount cid pause).sendPauses c pause l

/-- What a PAUSE names: the CID and the group of entry k. -/
def State.pauseName (s : State) (k : Nat) : Nat × Nat := (s.entCid k, fld (s.entWord k 0) 48 12)

/-- A context that is switched out or has a pre-empted gang pauses the collectives of its armed entries; one that runs again
resumes them (R346). -/
def State.pauseUpdate (s : State) (c : Nat) : State :=
  let x := s.ctx c
  let away := s.gangs.any fun g => g.ctx == c && g.st == GangSt.saved
  match x.paused with
  | none =>
    if (x.seq.isNone && x.st.live) || away then
      let l := ((s.entsOf c).filter s.entArmed).map s.pauseName
      (s.sendPauses c true l).modCtx c fun y => { y with paused := some l }
    else s
  | some l =>
    if x.seq.isSome && x.st == .running && !away then
      (s.sendPauses c false l).modCtx c fun y => { y with paused := none }
    else s

/-- Entry k has been written: where it is armed now and its context is not running, its PAUSE comets go too (R346). -/
def State.pauseEntry (s : State) (k : Nat) : State :=
  match s.entCtx k with
  | none => s
  | some c => match (s.ctx c).paused with
    | none => s
    | some l =>
      let n := s.pauseName k
      if s.entArmed k && !l.contains n then (s.sendPauses c true [n]).modCtx c fun y => { y with paused := some (l ++ [n]) } else s

/-! ### Guarded stores (R443) -/

/-- A device-visible write by a master other than firmware: dropped and counted where it meets a protected image. A write to a
collective-table entry of a context that is not running pauses it (R346). -/
def State.store (s : State) (l : Nat) (bs : List Byte) : State :=
  if s.guarded l bs.length then s.modDev fun d => { d with imgdrop := d.imgdrop + 1 }
  else if isSbm l then (collTouched l bs.length).foldl State.pauseEntry (s.put l bs)
  else s.put l bs

/-! ### Disarming (R334, R347) -/

/-- The entry of a CID is disarmed where it is still armed with it. -/
def State.disarm (s : State) (cid : Nat) : State :=
  let k := cid % 4096
  if s.entArmed k && s.entCid k == cid then s.store (collLoc + 64 * k) (leBytes 8 ((s.entWord k 0).toNat % 2 ^ 63)) else s

/-- The CIDs in which no gang and no routine takes part any more are disarmed. -/
def State.collDrop (s : State) (cids : List Nat) : State :=
  (cids.filter fun cid => (s.gangs.all fun x => !x.coll.contains cid) && (tkeys s.seqs).all fun q => !(s.seq q).coll.contains cid).foldl
    State.disarm s

end Sys2Proof.Machine
end

