-- ==== Sys2Proof/Machine/Access.lean ====
section
/-!
DEFINITION. Accesses in flight: how an access is admitted at its port, which of the orders of R94 to R105 must hold
before it takes its value or becomes visible, and how its result lands (R177). Also copy GO (R79 to R82) and the error
ring (R424).
-/
namespace Sys2Proof

/-- Scopes that reach beyond a cluster (R91). -/
def Scope.wide : Scope → Bool
  | .dev | .pod | .sys => true
  | _ => false

/-- Acquires (R92). -/
def Ann.isAq : Ann → Bool
  | .aq | .ar => true
  | _ => false

/-- Releases (R92). -/
def Ann.isRl : Ann → Bool
  | .rl | .ar => true
  | _ => false

end Sys2Proof

namespace Sys2Proof.Machine

/-! ### Error records (R424) -/

/-- Write an error record and count the error (R424, R427). A record that finds the ring full is not written. -/
def State.errRecord (s : State) (unit place sev : Nat) (loc : Word) (obj : Option (Nat × Nat)) : State :=
  let d := s.dev
  let n := 2 ^ (fld d.errbase 0 4 + 6)
  let w3 := match obj with | some (c, o) => pack [(30, 1, 1), (20, 10, c), (0, 20, o)] | none => 0
  let r := [pack [(48, 16, d.errWidx.toNat), (16, 8, unit), (8, 8, place), (0, 8, sev)], loc, s.clk, w3]
  let s := s.modDev fun d =>
    { d with cecnt := if sev = 1 then d.cecnt + 1 else d.cecnt, uecnt := if sev = 2 ∨ sev = 3 then d.uecnt + 1 else d.uecnt }
  if ringRoom d.errWidx d.errCons n then
    (s.putWords (locFast 0 (fld d.errbase 5 43 * 32 + 32 * (d.errWidx.toNat % n))) r).modDev fun d =>
      { d with errWidx := d.errWidx + 1 }
  else s

/-! ### What an access still owes -/

def AccKind.isLoad : AccKind → Bool
  | .load | .atom _ _ _ _ | .ldres _ => true
  | _ => false

def AccKind.isStore : AccKind → Bool
  | .store | .strm _ _ _ => true
  | _ => false

def AccKind.isAtom : AccKind → Bool
  | .atom _ _ _ _ => true
  | _ => false

def Access.sameStream (a b : Access) : Bool := a.eng == b.eng && a.sec == b.sec

/-- Both belong to one cluster (R90). -/
def sameClu (e f : Nat) : Bool := !isSeq e && !isSeq f && cluOf e == cluOf f

def Access.covers (a : Access) (l : Nat) : Option Byte :=
  a.parts.reverse.findSome? fun p => if p.loc ≤ l ∧ l < p.loc + p.n then some (.ofNat 8 (p.data / 2 ^ (8 * (l - p.loc)))) else none

/-- A part at a target outside the device: such a write is observed only once it has performed there (R94). -/
def Access.outside (a : Access) : Bool := a.parts.any fun p => isExt p.loc

/-- The two accesses touch a common byte; a parked access is taken to touch its whole object. -/
def Access.overlaps (a b : Access) : Bool :=
  if a.parked || b.parked then a.obj == b.obj
  else a.parts.any fun p => b.parts.any fun q => p.loc < q.loc + q.n && q.loc < p.loc + p.n

/-- The access has taken its value or is cluster-visible (R97, Class). -/
def Access.settled (a : Access) : Bool :=
  if a.kind.isLoad then a.taken.isSome else match a.kind with | .store => a.vis ≠ 0 | _ => true

/-- An earlier access that a release or FENCE at scope sc covers has reached it (R99, R102, R433); a listed write is not yet
device-visible. -/
def Access.reached (sc : Scope) (a : Access) : Bool :=
  if a.kind.isLoad then a.taken.isSome
  else if a.kind.isStore then match sc with
    | .stream => true
    | .core | .clu => isSeq a.eng || a.vis ≠ 0
    | .dev => a.window
    | _ => false
  else true

/-- A release or FENCE that follows operation `id` covers the access: an element of a write stream only once the SFLUSH that
wrote it has completed (R111). -/
def Access.coveredBy (a : Access) (id : Nat) : Bool :=
  a.id < id && match a.kind with
    | .strm _ _ f => (match f with | some n => n ≤ id | none => false)
    | _ => true

/-- Every write that the stream of engine e may have observed in its cluster is visible at scope sc (R99): at dev scope
or wider no cluster-visible write of the cluster but `self` is still on its way. -/
def observedOk (l : List Access) (e self : Nat) (sc : Scope) : Bool :=
  !sc.wide || l.all fun w => w.id == self || w.vis == 0 || !sameClu e w.eng

/-- A release or FENCE by the stream that has issued what precedes `id` may take effect at scope sc. -/
def releaseOk (l : List Access) (e : Nat) (sec : Bool) (id : Nat) (sc : Scope) (mask : BitVec 16) : Bool :=
  (l.all fun a => !(a.eng == e && a.sec == sec && a.coveredBy id && mask.getLsbD a.cls.toNat) || a.reached sc) &&
    observedOk l e id sc

/-- An outstanding operation whose completion is an acquire (R107, R109). -/
def PendKind.acquires : PendKind → Bool
  | .hwait _ _ _ | .xevp _ _ _ _ _ => true
  | _ => false

/-- What an access does next: take its value, become cluster-visible, or become device-visible. -/
inductive Level where
  | value | clu | dev
  deriving DecidableEq, Repr

/-- The earlier access a leaves b free to take the step lv (R97, R100, R105). Elements of write streams keep the order of common
bytes among themselves; a load may take the value of its stream's own store before that store is visible to others, where the
target lies in the device. -/
def Access.frees (lv : Level) (a b : Access) : Bool :=
  (!(a.overlaps b) || (if a.kind.isLoad then a.taken.isSome
    else if a.kind == .store || (a.kind.isStore && b.kind.isStore && b.kind != .store) then match lv with
      | .value => !b.kind.isAtom && !a.outside
      | .clu => a.vis ≠ 0
      | .dev => false
    else true)) &&
  (a.cls != b.cls || a.settled) &&
  (!a.kind.isLoad || b.kind == .load || a.taken.isSome || (match b.kind with | .ldres _ => true | _ => false)) &&
  (!(a.ann.isAq || (match a.kind with | .ldres _ => true | _ => false)) || a.taken.isSome) &&
  (!(a.sobj && b.sobj && a.cls == b.cls) || (if a.kind.isLoad then a.taken.isSome else a.kind != .store))

/-- Every FENCE before b whose mask holds b's class has its covered accesses complete (R102). -/
def fencesOk (l : List Access) (b : Access) : Bool :=
  l.all fun f => match f.kind with
    | .fence m => !(f.sameStream b && f.id < b.id && m.getLsbD b.cls.toNat) || releaseOk l f.eng f.sec f.id f.scope m
    | _ => true

/-- The write meets a line of a migrating granule that has been copied (R411). -/
def State.migBlocked (s : State) (l n : Nat) : Bool :=
  isFast l && (match (s.part (l / 2 ^ 40)).migr with
    | none => false
    | some m =>
      let a := l % 2 ^ 40
      match s.objEnt m.ctx m.oid with
      | none => false
      | some x => match (s.extsOf m.ctx m.oid x).bind (extAt · m.og) with
        | none => false
        | some e =>
          let base := (e.fg + m.og - e.og) * 65536
          decide (a < base + 128 * m.line ∧ base < a + n))

/-- No write that any cluster can see is still on its way to the 128-byte lines of the n bytes at l: every L2 has written them
back (R103, R114). -/
def State.allQuiet (s : State) (l n : Nat) : Bool :=
  let a := l / 128 * 128
  let b := (l + n + 127) / 128 * 128
  s.accs.all fun w => w.vis == 0 || !(w.parts.any fun p => p.loc < b && a < p.loc + p.n)

/-- An element of a write stream waits for its SFLUSH before memory holds it, while its task goes on and is not being saved (R85, R106,
R111). -/
def State.unflushed (s : State) (b : Access) : Bool :=
  match b.kind with
  | .strm _ _ none => b.task.isSome && s.taskOf b.eng == b.task && (s.eng b.eng).stat != .saving
  | _ => false

/-- An access of a stream as it enters flight, with nothing named yet. -/
def State.newAcc (s : State) (id e : Nat) (sec : Bool) (kind : AccKind) : Access :=
  { id := id, task := s.taskOf e, eng := e, sec := sec, kind := kind, cls := 0, ann := .plain, scope := .stream, sobj := false,
    window := false, far := false, t := .n64, parts := [], tagQ := none, dst := .none, tok := none, vis := 0, taken := none,
    takenTag := false, obj := (noCtx, 0), parked := false, pc := ((s.eng e).str sec).pc }

/-- Access b may take the step lv now (R94 to R105, R412). A write that is cluster-visible owes nothing further but the
coherence order of its bytes and, as an element of a write stream, its SFLUSH. A far atomic waits until every L2 has written back
its line (R103). -/
def State.mayStep (s : State) (lv : Level) (b : Access) : Bool :=
  let l := s.accs
  let coherent := l.all fun w => w.id == b.id || !(sameClu w.eng b.eng && w.vis ≠ 0 && (b.vis == 0 || w.vis < b.vis) && w.overlaps b)
  let clear := b.parts.all fun p => !s.migBlocked p.loc p.n && (!b.far || s.allQuiet p.loc p.n)
  if b.parked then false
  else if b.vis ≠ 0 then lv == .dev && coherent && clear && !s.unflushed b
  else
    (l.all fun a => !(a.sameStream b && a.id < b.id) || a.frees lv b) && fencesOk l b &&
    (!b.ann.isRl || releaseOk l b.eng b.sec b.id b.scope 0xFFFF) &&
    (s.pends.all fun q => !(q.eng == b.eng && q.sec == b.sec && q.id < b.id && q.kind.acquires)) &&
    (lv == .clu || b.kind == .load || (match b.kind with | .ldres _ => true | _ => false) || (coherent && clear))

/-- A unit that works for a stream reads the placed bytes as operation `id` in class cls: what the stream did before it that touches
the bytes or has the class is settled, its acquires have their values and its FENCEs hold nothing back (R97, R100, R102, R111). -/
def State.unitMay (s : State) (e : Nat) (sec : Bool) (id : Nat) (cls : BitVec 4) (l : List (Nat × Nat)) : Bool :=
  let b : Access := { s.newAcc id e sec .load with cls := cls, parts := l.map fun (a, n) => ⟨0, a, n, 0⟩ }
  (s.accs.all fun a => !(a.sameStream b && a.id < id) ||
    ((!(a.overlaps b) && a.cls != cls || a.settled) &&
      (!(a.ann.isAq || (match a.kind with | .ldres _ => true | _ => false)) || a.taken.isSome))) &&
    fencesOk s.accs b && s.pends.all fun q => !(q.eng == e && q.sec == sec && q.id < id && q.kind.acquires)

/-- The accesses that came before the bundle that issues. -/
def State.before (s : State) : State := { s with accs := s.accs.filter fun a => a.id < s.base }

/-! ### The value an agent sees (R94 to R96) -/

/-- The newest pending write that covers a byte and satisfies p, by the given measure. -/
def newest (l : List Access) (p : Access → Bool) (key : Access → Nat) (loc : Nat) : Option (Access × Byte) :=
  l.foldl (fun acc w => match (if p w then w.covers loc else none) with
    | none => acc
    | some b => match acc with
      | none => some (w, b)
      | some (v, _) => if key v ≤ key w then some (w, b) else acc) none

/-- The write of a byte that a stream observes before access `id`: its own newest pending store, then the newest
cluster-visible write of its cluster but for its own write-stream elements that no SFLUSH has completed (R85), then memory. Where
R96 lets the device return any of several visible writes the model returns the newest: DESIGN CHOICE, log 94. -/
def State.seenBy (s : State) (e : Nat) (sec : Bool) (id loc : Nat) : Option (Access × Byte) :=
  match newest s.accs (fun w => w.eng == e && w.sec == sec && w.id < id && w.vis == 0 && w.kind == .store && !w.parked) (·.id) loc with
  | some x => some x
  | none => newest s.accs (fun w => sameClu w.eng e && w.vis ≠ 0 && !(w.eng == e && w.sec == sec && s.unflushed w)) (·.vis) loc

def State.viewByte (s : State) (e : Nat) (sec : Bool) (id loc : Nat) : Byte :=
  match s.seenBy e sec id loc with
  | some (_, b) => b
  | none => mget s.mem loc

/-- n bytes as the stream sees them. -/
def State.view (s : State) (e : Nat) (sec : Bool) (id loc : Nat) : Nat → List Byte
  | 0 => []
  | n + 1 => s.viewByte e sec id loc :: s.view e sec id (loc + 1) n

/-- The tag of the quantum at loc as the stream sees it: that of the newest STH that wrote it whole, clear after any
other write (R75). -/
def State.viewTag (s : State) (e : Nat) (sec : Bool) (id loc : Nat) : Bool :=
  let ws := (rangeFrom loc 16).filterMap fun l => (s.seenBy e sec id l).map (·.1)
  match ws with
  | [] => hasTag loc && tagGet s.tags (loc / 16)
  | w :: _ => ws.length = 16 && (ws.all fun v => v.id == w.id) && !w.window && (match w.tagQ with | some (l, t) => l == loc && t | none => false)

/-- The newest write of a byte that every agent of cluster c sees. -/
def State.cluSeen (s : State) (c loc : Nat) : Option (Access × Byte) :=
  newest s.accs (fun w => !isSeq w.eng && cluOf w.eng == c && w.vis ≠ 0) (·.vis) loc

/-- n bytes as every agent of cluster c sees them. -/
def State.cluBytes (s : State) (c loc : Nat) : Nat → List Byte
  | 0 => []
  | n + 1 => (match s.cluSeen c loc with
      | some (_, b) => b
      | none => mget s.mem loc) :: s.cluBytes c (loc + 1) n

/-- The tag of the quantum at loc as every agent of cluster c sees it (R75). -/
def State.cluTag (s : State) (c loc : Nat) : Bool :=
  let ws := (rangeFrom loc 16).filterMap fun l => (s.cluSeen c l).map (·.1)
  match ws with
  | [] => hasTag loc && tagGet s.tags (loc / 16)
  | w :: _ => ws.length = 16 && (ws.all fun v => v.id == w.id) && !w.window && (match w.tagQ with | some (l, t) => l == loc && t | none => false)

/-- No write that agents of cluster c can already see is still on its way to the n bytes at loc, so that a write to them
by an engine keeps the coherence order (R95). -/
def State.quiet (s : State) (c loc n : Nat) : Bool :=
  s.accs.all fun w => w.vis == 0 || isSeq w.eng || cluOf w.eng != c || !(w.parts.any fun p => p.loc < loc + n && loc < p.loc + p.n)

/-! ### Atomics (R189) -/

/-- The new value of an atomic. -/
def atomNew (op : Fin 8) (t : ElemType) (old b c : Nat) : Nat :=
  let W := 2 ^ t.width
  let f := fmtOf t
  match op.val with
  | 0 => if t.isInt then (old + c) % W else (fAdd f .rne false (f.decode old) (f.decode c)).1
  | 1 => if t.isInt then (if rdInt t c < rdInt t old then c % W else old) else fMinMax f false old c
  | 2 => if t.isInt then (if rdInt t old < rdInt t c then c % W else old) else fMinMax f true old c
  | 3 => (old &&& c) % W
  | 4 => (old ||| c) % W
  | 5 => (old ^^^ c) % W
  | 6 => c % W
  | _ => if old = b % W then c % W else old

/-! ### Performing (R94, R177) -/

/-- The bytes that a target outside the device returns (R432, R434); with the PCIe link down every byte is all-ones. -/
def extRead (s : State) (loc n : Nat) : List Byte :=
  if loc < 2 ^ 66 && s.dev.pciSpeed = 0 then List.replicate n 0xFF
  else (rangeFrom loc n).map fun a => Config.extByte s.free a

/-- A request to a target outside the device leaves; a request over a PCIe link that is down fails (R432 to R434, R439). -/
def State.extSend (s : State) (id loc : Nat) (wr : Option (List Byte)) (relaxed : Bool) (atom : Option ExtAtom := none) : State :=
  let pcie := loc < 2 ^ 66
  if pcie && s.dev.pciSpeed = 0 then
    match wr with
    | some _ => s
    | none => s.errRecord 8 0 2 (.ofNat 64 (loc - 2 ^ 64)) none
  else
    let live := ((rangeFrom 0 18).filter fun k => match (tget SupPort.reset s.dev.sup k).st with | .up4 | .up8 => true | _ => false)
    let x := (loc - 2 ^ 67) / 2 ^ 48 % 4096 + (loc - 2 ^ 67) % 2 ^ 48 / 4096
    let plane := if pcie ∨ live = [] then 0 else live.getD (x % live.length) 0
    { s with ext := s.ext ++ [⟨id, s.clk.toNat, if pcie then 0 else 2, loc, wr, atom, relaxed, plane⟩], free := s.free + 1 }

/-- Perform a write for every agent (R94): its parts in ascending order, then the tag of an STH (R75). All bytes of a misaligned scalar
store perform at one moment, where R104 promises that only byte by byte: DESIGN CHOICE, log 18. -/
def State.performParts (s : State) (b : Access) : List Part → State
  | [] => s
  | p :: ps =>
    let s := if isExt p.loc then s.extSend b.id p.loc (some (leBytes p.n p.data)) (!(b.sobj || b.ann.isRl))
      else s.store p.loc (leBytes p.n p.data)
    s.performParts b ps

def State.performStore (s : State) (b : Access) : State :=
  let s := s.performParts b b.parts
  match b.tagQ with
  | some (l, t) => if hasTag l && !b.window && !s.guarded l 16 then { s with tags := tagPut s.tags (l / 16) t } else s
  | none => s

/-- The register bytes of a value: each part at its lane. -/
def partsValue (l : List (Part × List Byte)) : Nat := (l.map fun (p, bs) => leNat bs * 2 ^ (8 * p.lane)).sum

/-- An access takes its value (R94); an atomic also writes, at once for every agent, which is the earliest moment that R94 allows
(DESIGN CHOICE, log 94); LDRES.w parks while RES is clear (R197). No tag comes through a window (R71, R184). -/
def State.takeValue (s : State) (b : Access) : State :=
  let read (p : Part) : List Byte := if isExt p.loc then extRead s p.loc p.n else s.view b.eng b.sec b.id p.loc p.n
  let v := partsValue (b.parts.map fun p => (p, read p))
  let atom : Option ExtAtom := match b.kind with | .atom op t bb c => some ⟨op, t, bb, c⟩ | _ => none
  let send (s : State) : State := b.parts.foldl (fun s p => if isExt p.loc then s.extSend b.id p.loc none true atom else s) s
  let upd (s : State) (f : Access → Access) : State := { s with accs := s.accs.map fun x => if x.id = b.id then f x else x }
  match b.kind with
  | .load =>
    let tg := match b.tagQ with | some (l, _) => hasTag l && !b.window && s.viewTag b.eng b.sec b.id l | none => false
    send (upd s fun x => { x with taken := some (.ofNat 2048 v), takenTag := tg })
  | .ldres wait =>
    if wait && v < 2 ^ 63 then
      let c := b.obj.1
      let n := match b.parts with | p :: _ => (p.loc - s.resLoc c 0) / 8 | [] => 0
      let prio := fld (s.rd64 (s.img c ((s.section c 0x30).1 + 16 * n))) 32 5
      let (t, f) := s.absentReq c b.obj.2 prio (some n) 0
      if f then match (s.eng b.eng).gang with
        | some g => t.gangTrap g (s.eng b.eng).member b.sec (some b.eng) b.pc (s.layerTrap c n none)
        | none => t
      else (upd t fun x => { x with parked := true }).modEng b.eng fun e => { e with parkReq := true }
    else upd s fun x => { x with taken := some (.ofNat 2048 v) }
  | .atom op t bb c =>
    let s' := send (upd s fun x => { x with taken := some (.ofNat 2048 v) })
    match b.parts with
    | p :: _ => if isExt p.loc then s' else s'.store p.loc (leBytes p.n (atomNew op t v bb.toNat c.toNat))
    | [] => s'
  | .value => upd s fun x => { x with taken := some (.ofNat 2048 (partsValue (b.parts.map fun p => (p, leBytes p.n p.data)))) }
  | _ => s

/-- FENCEs that nothing waits for any more leave the list. -/
def dropFences (l : List Access) : List Access :=
  l.filter fun f => match f.kind with
    | .fence m => !releaseOk l f.eng f.sec f.id f.scope m
    | _ => true

/-- A value that lands in a destination under a token, as operation `id` (R177). -/
def State.deliver (s : State) (id e : Nat) (sec : Bool) (dst : ADst) (tok : Option Nat) (ann : Ann) (n v : Nat) (tag : Bool := false) : State :=
  { s with accs := s.accs ++
      [{ s.newAcc id e sec .value with ann := ann, scope := .dev, parts := [⟨0, 0, n, v⟩], dst := dst, tok := tok, takenTag := tag }] }

/-! ### The cluster event queue (R259 to R261) -/

def evKind (r : BitVec 128) : Nat := r.toNat / 2 ^ 24 % 256
def evGtag (r : BitVec 128) : Nat := r.toNat / 2 ^ 32 % 65536

/-- An event record but for SEQ (R259). -/
def evRecord (data tag gtag kind status member : Nat) (sec : Bool) : BitVec 128 :=
  .ofNat 128 (data % 2 ^ 64 * 2 ^ 64 + tag % 65536 * 2 ^ 48 + gtag % 65536 * 2 ^ 32 + kind * 2 ^ 24 + status * 2 ^ 20
    + member * 2 ^ 18 + sec.toNat * 2 ^ 17)

/-- The queue can take a record: it has room, or a gang-retired record to discard (R260). -/
def Cluster.evRoom (x : Cluster) : Bool := x.events.length < 256 || x.events.any fun e => evKind e.2 == 2

/-- Drop the oldest gang-retired record. -/
def dropRetired : List (Nat × BitVec 128) → List (Nat × BitVec 128)
  | [] => []
  | e :: es => if evKind e.2 = 2 then es else e :: dropRetired es

/-- A waiting or polling reader may remove the record (R261). -/
def evMatches (kinds : BitVec 3) (ctx : Nat) (gtag : Option Nat) (e : Nat × BitVec 128) : Bool :=
  kinds.getLsbD (evKind e.2 - 1) && (match gtag with | some g => evGtag e.2 == g | none => e.1 == ctx)

/-- Waiting XEVPs of a cluster take matching records, in issue order (R261). -/
def State.evWake (s : State) (clu : Nat) : List PendOp → State
  | [] => s
  | p :: ps => match p.kind with
    | .xevp d kinds ctx c gtag =>
      if c ≠ clu then s.evWake clu ps
      else match (s.clu clu).events.findIdx? (evMatches kinds ctx gtag) with
        | none => s.evWake clu ps
        | some i =>
          let r := ((s.clu clu).events.getD i (0, 0)).2
          let s := s.modClu clu fun x => { x with events := x.events.eraseIdx i }
          let s := { s with pends := s.pends.filter (·.id ≠ p.id) }
          (s.deliver p.id p.eng p.sec (.h d) p.tok .aq 16 r.toNat).evWake clu ps
    | _ => s.evWake clu ps

/-- Write a record that has room: SEQ is its sequence number (R259). -/
def State.evPut (s : State) (clu ctx : Nat) (r : BitVec 128) : State :=
  s.modClu clu fun x =>
    let l := if x.events.length < 256 then x.events else dropRetired x.events
    { x with events := l ++ [(ctx, r ||| x.evSeq.zeroExtend 128)], evSeq := x.evSeq + 1 }

/-- Move held completion records into the queue while it has room (R260). -/
def State.evHeldIn (s : State) (clu : Nat) : List (Nat × BitVec 128) → State
  | [] => s.modClu clu fun x => { x with evHeld := [] }
  | e :: es =>
    if (s.clu clu).evRoom then (s.evPut clu e.1 e.2).evHeldIn clu es
    else s.modClu clu fun x => { x with evHeld := e :: es }

/-- Readers and held records of a cluster after a change of its queue. -/
def State.evSettle (s : State) (clu : Nat) : State :=
  let s := s.evWake clu s.pends
  (s.evHeldIn clu (s.clu clu).evHeld).evWake clu s.pends

/-- Post a record: written where the queue has room, held otherwise (R260). -/
def State.evPost (s : State) (clu ctx : Nat) (r : BitVec 128) : State :=
  (s.modClu clu fun x => { x with evHeld := x.evHeld ++ [(ctx, r)] }).evSettle clu

/-- Every access that was admitted before identifier n through an object of context c that o names has performed (R275, R398): accesses
in flight, permute jobs, BCNT mailboxes, XCOMET reads. -/
def State.otQuiet (s : State) (c n : Nat) (o : Nat → Bool) : Bool :=
  (s.accs.all fun a => a.parked || n ≤ a.id || a.obj.1 != c || !o a.obj.2 || (a.kind.isLoad && a.taken.isSome)) &&
    (s.banks.all fun b => n ≤ b.id || b.ctx != c || (match b.mailOid with | some i => !o i | none => true)) &&
    (s.pends.all fun p => match p.kind with
      | .comet _ _ _ _ os => n ≤ p.id || s.ctxOf p.eng != c || !os.any o
      | _ => true) &&
    s.engines.all fun (e, x) => s.ctxOf e != c || x.perms.all fun j => n ≤ j.id || !j.objs.any o

/-- OTINVs whose admitted accesses have all performed complete: their tokens fall (R275). -/
def State.otSettle (s : State) : State :=
  let isDone (p : PendOp) : Bool := match p.kind with
    | .otinv c o => s.otQuiet c s.nextId (· == o)
    | _ => false
  (s.pends.filter isDone).foldl (fun s p => s.tokDone p.eng p.sec p.tok) { s with pends := s.pends.filter fun p => !isDone p }

/-- User event records whose earlier accesses are covered enter their queue (R260). -/
def State.evtSettle (s : State) : State :=
  let isDone (p : PendOp) : Bool := match p.kind with
    | .evt _ _ _ => releaseOk s.accs p.eng p.sec p.id .dev 0xFFFF
    | _ => false
  (s.pends.filter isDone).foldl (fun s p => match p.kind with
    | .evt c clu r => s.evPost clu c r
    | _ => s) { s with pends := s.pends.filter fun p => !isDone p }

/-- What waited for accesses that are done now. -/
def State.accSettle (s : State) : State := s.otSettle.evtSettle

/-! ### Landing (R177) -/

/-- Fill the queue entries that wait for operation id. -/
def fillS (id : Nat) (v : Word) (q : List SEnt) : List SEnt := q.map fun e => if e.fill = .token id then ⟨v, .ready⟩ else e

/-- Fill a vector-queue entry: the loaded bytes over what the entry holds. -/
def fillV (id : Nat) (m : PredBits) (v : Vec) (q : List VEnt) : List VEnt :=
  q.map fun e => if e.fill = .token id then ⟨mergeBytes m v e.val, .ready⟩ else e

/-- The register bytes that an access loads. -/
def partsMask (ps : List Part) : PredBits := .ofNat 256 ((ps.map fun p => (2 ^ p.n - 1) * 2 ^ p.lane).sum)

/-- Write a landed value to its destination register and queue entry in engine x at clk `now`. -/
def Engine.landVal (x : Engine) (now : Nat) (sec : Bool) (id : Nat) (t : ElemType) (dst : ADst) (m : PredBits) (v : Vec) (tg : Bool) : Engine :=
  match dst with
  | .none => x
  | .g d =>
    let w := ext64 t v.toNat
    let x := x.modStr sec fun y => { y with sq := fillS id w y.sq }
    match d with
    | .reg n => if n.val = 0 then x else x.modStr sec fun y => { y with g := tput 0 y.g n.val w }
    | .que => x
  | .h n => { x with hnew := x.hnew ++ [⟨now, sec, n, ⟨v.truncate 128, tg⟩⟩] }
  | .v d =>
    let x := { x with vq := fillV id m v x.vq }
    match d with
    | .reg n => { x with v := tput 0 x.v n.val (mergeBytes m v (tget 0 x.v n.val)) }
    | _ => x

/-- Two results go to one named register of one stream. -/
def ADst.same : ADst → ADst → Bool
  | .g (.reg a), .g (.reg b) => a == b
  | .h a, .h b => a == b
  | .v (.reg a), .v (.reg b) => a == b
  | _, _ => false

/-- Results to one named register land in program order (R177). -/
def State.mayLand (s : State) (b : Access) : Bool :=
  b.taken.isSome && s.accs.all fun a => !(a.sameStream b && a.id < b.id && a.dst.same b.dst)

/-- A taken value lands: destination, queue entry, token; the access leaves. -/
def State.land (s : State) (b : Access) : State :=
  let s := { s with accs := dropFences (s.accs.filter (·.id ≠ b.id)) }
  let s := s.modEng b.eng fun x => x.landVal s.clk.toNat b.sec b.id b.t b.dst (partsMask b.parts) (b.taken.getD 0) b.takenTag
  s.tokDone b.eng b.sec b.tok

/-! ### Copy GO (R79 to R83) -/

/-- A new value of a parameter register: its older value, class and issue cycle stand beside it (R82). -/
def CqReg.store (r : CqReg) (v : Word) (cls : BitVec 4) (cycle : Nat) : CqReg :=
  ⟨v, if r.cycle = cycle ∧ !r.settled then r.old else r.val, cls, false, cycle⟩

/-- The value a GO of class cls in issue cycle `cycle` snapshots; `newer` chooses where R82 leaves it open. -/
def CqReg.snap (r : CqReg) (cls : BitVec 4) (cycle : Nat) (newer : Bool) : Word :=
  if r.settled then r.val
  else if r.cycle = cycle then r.old
  else if r.cls = cls then r.val
  else if newer then r.val else r.old

/-- Bytes and rows of a job (R79). -/
def shpRows (w : Word) : Nat := fld w 52 12 + 1
def shpBytes (w : Word) : Nat := fld w 32 20
def shpS (w : Word) : Nat := fld w 16 16 * 64
def shpD (w : Word) : Nat := fld w 0 16 * 64

/-- R74 on every row of one side from row k on. -/
def rowsCheck (h : Handle) (right stride : Nat) (shp : Word) (k : Nat) : Option Nat :=
  match h.check right (h.cur + k * stride : Nat) (shpBytes shp) with
  | some c => some c
  | none => h.check right (h.cur + (shpRows shp - 1) * stride : Nat) (shpBytes shp)

/-- The field checks of R80 on the parameters, as their codes; `dem` is the gang's demand. -/
def cqFieldCheck (src dst shp flg go : Word) (dem : Nat) (sec : Bool) : Option Nat :=
  let eng := fld go 0 3
  if fld src 48 12 ≠ 0 ∨ fld dst 48 12 ≠ 0 ∨ outside flg [(0, 3), (4, 8)] ≠ 0 ∨ outside go [(0, 3), (16, 16)] ≠ 0 then some 1
  else if shpBytes shp = 0 then some 2
  else if fld flg 9 2 = 3 then some 3
  else if !((eng < 4 ∧ eng < dem) ∨ (eng = 7 ∧ dem ≠ 0)) then some 4
  else if sec ∧ 4 ≤ fld flg 0 3 then some 5
  else none

/-- Entries of copy engine e of cluster c's elastic buffer (R80). -/
def State.copyBuf (s : State) (c e : Nat) : Nat :=
  (s.copies.filter fun j => !j.started && j.phys == e && (match s.gangOf j.gk with | some g => g.clu == c | none => false)).length

/-- The engine a job goes to: the held engine ENG, or for ENG 7 the lowest held engine whose buffer has room. -/
def State.pickEngine (s : State) (g : Gang) (eng : Nat) : Option Nat :=
  if eng < 4 then
    let e := g.engs.getD eng 0
    if s.copyBuf g.clu e < 16 then some e else none
  else g.engs.find? fun e => s.copyBuf g.clu e < 16

/-- The address a handle names, displaced: CUR becomes (CUR + d) mod 2^48. -/
def Handle.move (h : Handle) (d : Int) : Handle := h.setCur (((h.cur : Int) + d) % 2 ^ 48).toNat

/-- A signed field. -/
def sfld (w : Word) (lo n : Nat) : Int :=
  let v := fld w lo n
  if 2 ^ (n - 1) ≤ v then (v : Int) - 2 ^ n else v

/-- R74 on the rows of one side, with the displaced cursor taken exactly. -/
def cqHandleCheck (h : Handle) (right : Nat) (off : Int) (stride : Nat) (shp : Word) : Option Nat :=
  let a : Int := h.cur + off
  match h.check right a (shpBytes shp) with
  | some c => some c
  | none => h.check right (a + (shpRows shp - 1) * stride) (shpBytes shp)

/-- A store to CQGO (R80): snapshot, checks, charge, enqueue. Where both handles fail, the source is checked wholly before the
destination: DESIGN CHOICE, log 95. -/
def State.cqGo (s : State) (cls : BitVec 4) (x : Word) : State :=
  match s.fe.gang.bind s.gangOf with
  | none => s
  | some g =>
    let b := s.fs.cq
    let (w, s) := s.draw
    let n := s.fs.cycle
    let src := b.src.snap cls n (w.getLsbD 0)
    let dst := b.dst.snap cls n (w.getLsbD 1)
    let shp := b.shp.snap cls n (w.getLsbD 2)
    let flg := b.flg.snap cls n (w.getLsbD 3)
    let hs := s.h (fin16 (fld src 60 4))
    let hd := s.h (fin16 (fld dst 60 4))
    match cqHandleCheck hs rR (sfld src 0 48) (shpS shp) shp with
    | some c => s.hTrapped c s.pos hs
    | none => match cqHandleCheck hd rW (sfld dst 0 48) (shpD shp) shp with
      | some c => s.hTrapped c s.pos hd
      | none => match cqFieldCheck src dst shp flg x g.dem s.focus.sec with
        | some c => s.trapped (trapOf 0x16 (s.pos * 16 + c))
        | none =>
          let bytes := shpRows shp * shpBytes shp
          tokAdd s (fld flg 0 3) bytes fun s =>
            match s.pickEngine g (fld x 0 3) with
            | none => s.stall
            | some e =>
              let (id, s) := s.fresh
              let j : CopyJob :=
                { id := id, clk := s.clk.toNat, core := s.focus.eng % 4, gk := g.gk, member := s.fe.member, sec := s.focus.sec, list := false,
                  src := hs.move (sfld src 0 48), dst := hd.move (sfld dst 0 48), shp := shp, flg := flg,
                  tag := .ofNat 16 (fld x 16 16), ent := .ofNat 3 (fld x 0 3), phys := e, started := false, row := 0, skip := 0,
                  resent := 0, buf := [], bufTags := [], retry := 0, retryAt := none, pc := s.fs.pc }
              ({ s with copies := s.copies ++ [j] } : State).modFs fun y => { y with lags := y.lags ++ [⟨id, y.cycle, .engine⟩] }

/-- The 40 readable bytes of a stream's copy-queue bank (R79). -/
def CopyBank.bytes (b : CopyBank) : List Byte :=
  (leBytes 8 b.src.val.toNat ++ leBytes 8 b.dst.val.toNat ++ leBytes 8 b.shp.val.toNat ++ leBytes 8 b.flg.val.toNat)

/-- n bytes of the window from offset a (R79): both banks, 0 beyond the parameter registers. -/
def State.cqRead (s : State) (a n : Nat) : List Byte :=
  let e := s.fe
  (rangeFrom a n).map fun o => (if o < 0x100 then e.prim.cq.bytes.getD o 0 else e.sec.cq.bytes.getD (o - 0x100) 0)

/-- The register word with some of its bytes replaced. -/
def patchWord (w : Word) (off : Nat) (bs : List Byte) : Word :=
  .ofNat 64 (leNat (((leBytes 8 w.toNat).zipIdx).map fun (b, i) => if off ≤ i then bs.getD (i - off) b else b))

/-- Store bytes at one copy-queue register of the stream's own bank (R79, R80). A store to some bytes of CQGO starts a job with the other
bytes zero: DESIGN CHOICE, log 95. -/
def State.cqReg (s : State) (cls : BitVec 4) (k off : Nat) (bs : List Byte) : State :=
  let n := s.fs.cycle
  let upd (r : CqReg) : CqReg := r.store (patchWord r.val off bs) cls n
  match k with
  | 0 => s.modFs fun y => { y with cq := { y.cq with src := upd y.cq.src } }
  | 1 => s.modFs fun y => { y with cq := { y.cq with dst := upd y.cq.dst } }
  | 2 => s.modFs fun y => { y with cq := { y.cq with shp := upd y.cq.shp } }
  | 3 => s.modFs fun y => { y with cq := { y.cq with flg := upd y.cq.flg } }
  | 4 => s.cqGo cls (patchWord 0 off bs)
  | _ => s

/-- A store of bytes into the window, register by register in ascending order; the other stream's bank is out of reach (R79). -/
def State.cqWrite (s : State) (cls : BitVec 4) : Nat → Nat → List Byte → State
  | 0, _, _ => s
  | f + 1, a, bs =>
    if bs = [] then s
    else if (256 ≤ a) ≠ s.focus.sec then s.trapped ⟨0x14, s.pos, some cqOid, none, none⟩
    else
      let o := a % 256
      let k := 8 - o % 8
      let t := s.cqReg cls (o / 8) (o % 8) (bs.take k)
      match t.slot with
      | .ok => t.cqWrite cls f (a + k) (bs.drop k)
      | _ => t

/-! ### Admission at the port (R74, R89, R175, R183, R190, R396, R419) -/

/-- An access as its issuing unit sends it: parts carry object addresses. `typ` is its TYPE in R413. -/
structure Req where
  kind : AccKind
  cls : BitVec 4
  ann : Ann
  scope : Scope
  t : ElemType
  h : Handle
  parts : List Part
  tagQ : Option (Nat × Bool)
  far : Bool
  dst : ADst
  tok : Option Nat
  typ : Nat

/-- The handle names a window object (R183). -/
def State.isWindow (s : State) (h : Handle) : Bool :=
  match s.objEnt s.fctx h.oid with | some x => x.space.val = 4 | none => false

/-- The fault that the port finds in the space of the object (R62, R190, R197). -/
def spaceFault (e : Nat) (r : Req) (x : ObjEnt) : Option Nat :=
  let sp := x.space.val
  if sp = 0 ∧ (isSeq e ∨ x.clu ≠ cluOf e) then some 0x21
  else if r.far ∧ (sp = 0 ∨ sp = 3 ∨ sp = 4) then some 0x21
  else match r.kind with
    | .ldres _ => if sp = 1 then none else some 0x21
    | .atom op t _ _ => if sp = 4 ∧ (!t.isInt ∨ (op.val ≠ 0 ∧ op.val ≠ 6 ∧ op.val ≠ 7)) then some 0x24 else none
    | _ => none

/-- Translate the pieces of the parts in order. -/
def State.placeParts (s : State) (c oid : Nat) (x : ObjEnt) : List Part → List (Part × Place)
  | [] => []
  | p :: ps =>
    ((granPieces p.loc p.n).map fun (a, n) =>
      let k := a - p.loc
      let q : Part := ⟨p.lane + k, a, n, p.data / 2 ^ (8 * k) % 2 ^ (8 * n)⟩
      (q, if x.size < a + n then Place.bounds else s.place c oid x a)) ++ s.placeParts c oid x ps

/-- The first fault, then the first non-resident piece, of the translated pieces. -/
def firstFault (l : List (Part × Place)) : Option Nat :=
  l.findSome? fun (_, p) => match p with | .noObject => some 0x20 | .bounds => some 0x22 | _ => none
def firstAbsent (l : List (Part × Place)) : Option (Option Nat × Nat) :=
  l.findSome? fun (_, p) => match p with | .absent y g => some (y, g) | _ => none

/-- Parked accesses of a core (R419). -/
def State.parkCount (s : State) (e : Nat) : Nat := (s.accs.filter fun a => a.parked && a.eng == e).length

/-- Admit a checked access. A fault of the port is an operator trap and the access is dropped (R175); a non-resident
core access parks, and a sequencer's stalls its bundle (R396). A store that a partition export does not let in is dropped and counted, and
an atomic finds no object there (R436). The parts of a parked access keep object addresses. -/
def State.admitReq (s : State) (id : Nat) (r : Req) : State :=
  let e := s.focus.eng
  let c := s.fctx
  let oid := r.h.oid
  let fault (n : Nat) : State := s.portTrap ⟨n, 0, some oid, none, none⟩
  let acc : Access :=
    { s.newAcc id e s.focus.sec r.kind with
      cls := r.cls, ann := r.ann, scope := r.scope, sobj := r.h.has rS, far := r.far, t := r.t, parts := r.parts, tagQ := r.tagQ,
      dst := r.dst, tok := r.tok, obj := (c, oid) }
  match s.objEnt c oid with
  | none => fault 0x20
  | some x => match spaceFault e r x with
    | some f => fault f
    | none =>
      let l := s.placeParts c oid x r.parts
      if s.exportBars c oid (!r.kind.isAtom) && (r.kind.isAtom || r.kind == .store) then
        (if r.kind.isAtom then fault 0x20 else s.inDrop)
      else match firstFault l with
      | some f => if f = 0x20 ∧ r.kind = .store ∧ s.isExport c oid then s.inDrop else fault f
      | none => match firstAbsent l with
        | some (y, g) =>
          if isSeq e then { s with slot := .wait c oid x.prio y g }
          else if 16 ≤ s.parkCount e then s.stall
          else
            let (t, f) := s.absentReq c oid x.prio y g
            if f then t.portTrap (s.swapTrap c oid y)
            else ({ t with accs := t.accs ++ [{ acc with parked := true }] } : State).modFe fun z => { z with parkReq := true }
        | none =>
          let ps := l.map fun (p, q) => match q with | .at_ a => { p with loc := a } | _ => p
          let tq := match r.tagQ with
            | none => none
            | some (a, t) => match s.place c oid x a with | .at_ q => some (q, t) | _ => none
          let s := if isSeq e then s
            else s.sample (cluOf e) r.typ s.focus.sec (e % 4) c oid [] (l.map fun (p, q) => (p.loc, match q with | .at_ a => a | _ => 0))
          { s with accs := s.accs ++ [{ acc with parts := ps, tagQ := tq, window := x.space.val = 4 }] }

/-- Put a checked access into effect: the copy-queue window of a core answers at once (R79), everything else goes to its
port; an access without active elements reaches nothing. -/
def State.access (s : State) (id : Nat) (r : Req) : State :=
  let own (ps : List Part) : Access :=
    { s.newAcc id s.focus.eng s.focus.sec .value with
      cls := r.cls, ann := r.ann, scope := r.scope, t := r.t, parts := ps, dst := r.dst, tok := r.tok, obj := (s.fctx, r.h.oid) }
  if r.parts = [] then
    if r.tok.isSome then { s with accs := s.accs ++ [own []] } else s
  else if r.h.oid = cqOid ∧ !isSeq s.focus.eng then
    match r.kind with
    | .load =>
      { s with accs := s.accs ++ [{ own (r.parts.map fun p => { p with data := leNat (s.cqRead p.loc p.n) }) with sobj := true }] }
    | .store => r.parts.foldl (fun s p => match s.slot with
        | .ok => s.cqWrite r.cls 33 p.loc (leBytes p.n p.data)
        | _ => s) s
    | _ => s.portTrap ⟨0x21, 0, some cqOid, none, none⟩
  else s.admitReq id r

/-- The window of a matrix operation of an earlier bundle is open, so that a release or wide FENCE of its primary stream waits (R110). -/
def State.windowOpen (s : State) : Bool := !isSeq s.focus.eng && !s.focus.sec && s.clk.toNat < s.win

/-- R74 on every element, then the alignment an access needs (R175). -/
def elemsCheck (h : Handle) (right : Nat) (align : Bool) (l : List (Int × Nat)) : Option Nat :=
  match l.findSome? fun (a, n) => h.check right a n with
  | some c => some c
  | none => if align && l.any (fun (a, n) => a % n ≠ 0) then some 7 else none

/-! ### Placed runs -/

/-- The n bytes at object address a as placed runs (place, object offset, length), cut where granules end. -/
def State.runs (s : State) (c oid : Nat) (x : ObjEnt) (a n : Nat) : Nat → List (Place × Nat × Nat)
  | 0 => []
  | f + 1 =>
    if n = 0 then []
    else
      let k := min n (65536 - a % 65536)
      let p := if x.size < a + k then Place.bounds else s.place c oid x a
      (p, a, k) :: s.runs c oid x (a + k) (n - k) f

/-- How an engine's access to n bytes of an object stands: a fault of the port, a non-resident page, or its runs of
(location, object offset, length). -/
inductive Reach where
  | fault (cause : Nat)
  | absent (prio : Nat) (layer : Option Nat) (granule : Nat)
  | runs (l : List (Nat × Nat × Nat))

def State.reach (s : State) (c oid a n : Nat) : Reach :=
  match s.objEnt c oid with
  | none => .fault 0x20
  | some x =>
    let rs := s.runs c oid x a n (n / 65536 + 2)
    match rs.findSome? fun (p, _, _) => match p with | .noObject => some 0x20 | .bounds => some 0x22 | _ => none with
    | some f => .fault f
    | none => match rs.findSome? fun (p, _, _) => match p with | .absent y g => some (y, g) | _ => none with
      | some (y, g) => .absent x.prio y g
      | none => .runs (rs.filterMap fun (p, o, k) => match p with | .at_ l => some (l, o, k) | _ => none)

/-- The bytes of placed runs as agents of cluster clu see them. -/
def State.runBytes (s : State) (clu : Nat) (l : List (Nat × Nat × Nat)) : List Byte :=
  l.flatMap fun (q, _, k) => if isExt q then extRead s q k else s.cluBytes clu q k

/-- Requests for runs outside the device (R432). -/
def State.runReads (s : State) (id : Nat) (l : List (Nat × Nat × Nat)) : State :=
  l.foldl (fun s (q, _, _) => if isExt q then s.extSend id q none true else s) s

end Sys2Proof.Machine
end

