-- ==== Sys2Proof/Machine/Streams.lean ====
section
/-!
DEFINITION. Bound streams (R84, R85, R195, R196): element addresses, the elements written at commit, and the commit of
every due result of a stream.
-/
namespace Sys2Proof.Machine

/-- Coordinates of element e in dimensions of the given counts, innermost first (R84). -/
def coords (e : Nat) : List Nat → List Nat
  | [] => []
  | n :: ns => e % n :: coords (e / n) ns

/-- Address of element e of a pattern of handle h (CUR already displaced by b). -/
def elemAddr (h : Handle) (geo : List Word) (e : Nat) : Int :=
  (h.cur : Int) + (((coords e (geo.map geoCount)).zip geo).map fun (i, w) => (i : Int) * geoStride w).sum

/-- Location of a byte of a scratchpad object, where it has one. -/
def State.locOf (s : State) (c oid : Nat) (a : Nat) : Option Nat :=
  match s.objEnt c oid with
  | none => none
  | some x => match s.place c oid x a with | .at_ l => some l | _ => none

/-- Where element e of a binding on engine `eng` lies, as placed bytes. -/
def State.strmAt (s : State) (eng : Nat) (b : Binding) (e : Nat) : List (Nat × Nat) :=
  match s.locOf (s.ctxOf eng) b.h.oid (elemAddr b.h b.geo e).toNat with
  | some l => [(l, 256)]
  | none => []

/-- The 256-byte element e of a binding on engine `eng`, as its transfer unit reads it. -/
def State.strmFetch (s : State) (eng : Nat) (b : Binding) (e : Nat) : Vec :=
  match s.strmAt eng b e with
  | (l, n) :: _ => bytesVec (s.cluBytes (cluOf eng) l n)
  | [] => 0

/-- A vector written to stream k of engine e when its result commits: the next element becomes an access of the stream
transfer unit (R85, R201). -/
def State.strmWrite (s : State) (e k : Nat) (v : Vec) : State :=
  match tget none (s.eng e).binds k with
  | none => s
  | some b =>
    if !b.write then s
    else
      let (id, s) := s.fresh
      let c := s.ctxOf e
      let s := s.modEng e fun x => { x with binds := tput none x.binds k (some { b with next := b.next + 1 }) }
      match s.locOf c b.h.oid (elemAddr b.h b.geo b.next).toNat with
      | none => s
      | some l =>
        let a : Access :=
          { s.newAcc id e false (.strm k b.next none) with
            cls := b.cls, t := .n8, parts := [⟨0, l, 256, v.toNat⟩], obj := (c, b.h.oid) }
        { s with accs := s.accs ++ [a] }

/-- Commit one result of a stream (R139, R171). -/
def State.commitOne (s : State) (e : Nat) (sec : Bool) (c : Commit) : State :=
  let s := s.modEng e fun x => x.apply s.clk.toNat sec c
  match c.dst with
  | .strm k v => s.strmWrite e k v
  | _ => s

/-- Insert a result behind those that are due no later, keeping issue order among equals. -/
def insertDue (c : Commit) : List Commit → List Commit
  | [] => [c]
  | d :: ds => if c.due < d.due then c :: d :: ds else d :: insertDue c ds

/-- Commit, in order of due cycle and then of issue, the results that satisfy p; the others stay pending. -/
def State.commitIf (s : State) (e : Nat) (sec : Bool) (p : Commit → Bool) : State :=
  let all := ((s.eng e).str sec).pend
  let due := (all.filter p).foldl (fun l c => insertDue c l) []
  let s := s.modEng e fun x => (x.settleNew s.clk.toNat).modStr sec fun y => { y with pend := all.filter fun c => !p c }
  due.foldl (fun s c => s.commitOne e sec c) s

/-- Results due before the stream's next issue cycle commit (R139). -/
def State.commitDue (s : State) (e : Nat) (sec : Bool) : State := s.commitIf e sec fun c => c.due ≤ ((s.eng e).str sec).cycle

/-- Every pending result commits, as at the end of a stream or at a save (R139). -/
def State.commitAll (s : State) (e : Nat) (sec : Bool) : State := s.commitIf e sec fun _ => true

/-- Elements written to stream k that await commit, up to issue cycle `due`, reach the pattern now; their flags keep their
commit. -/
def State.strmDrain (s : State) (e k due : Nat) : State :=
  let hit (c : Commit) : Bool := c.due ≤ due && match c.dst with | .strm j _ => j == k | _ => false
  let all := (s.eng e).prim.pend
  let out := (all.filter hit).foldl (fun l c => insertDue c l) []
  let s := s.modEng e fun x => { x with prim := { x.prim with pend := all.map fun c => if hit c then { c with dst := .none } else c } }
  out.foldl (fun s c => match c.dst with | .strm j v => s.strmWrite e j v | _ => s) s

/-- Elements written to stream k of engine e are not yet flushed. -/
def State.strmOwes (s : State) (e k : Nat) : Bool :=
  strmPending (s.eng e).prim k ≠ 0 || s.accs.any fun a => a.eng == e && s.unflushed a && match a.kind with | .strm j _ _ => j == k | _ => false

/-- The write streams among ks with the element that follows those written so far. -/
def State.strmUpto (s : State) (ks : List Nat) : List (Nat × Nat) :=
  ks.filterMap fun k => match s.bind k with
    | some b => if b.write then some (k, b.next + strmPending s.fe.prim k) else none
    | none => none

/-- The bindings made in a bundle take effect after it (R195). A write binding with elements not yet flushed first takes an implicit
SFLUSH, and the new binding stands when that completes (R85). -/
def State.bindNew (s : State) : State :=
  let e := s.focus.eng
  let l := s.fe.nbind
  let s := s.modFe fun x => { x with nbind := [] }
  l.foldl (fun s (k, b) =>
    if s.strmOwes e k then
      s.modFe fun x => { x with flushes := x.flushes ++
        [⟨s.strmUpto [k], [], none, (s.fe.prim.pend.map (·.due)).foldl max 0, some (k, b)⟩] }
    else s.setBind k (some b)) s

end Sys2Proof.Machine
end

