-- ==== Sys2Proof/Machine/Scalar.lean ====
section
/-!
DEFINITION. The S slot (R151 to R172): integer operations, predicates, control, slack, service calls, traps and CSRs.
-/
namespace Sys2Proof.Machine

abbrev Res := Host.Outcome State Fault Refusal

/-- A slot that executes only under bit 0 of its predicate (R134). -/
def slotP (pr : Pred) (f : State → State) (s : State) : Res :=
  .next (slotRun (fun s => if s.enabled pr then f s else s) s)

/-! ### Integer operations (R151 to R157) -/

/-- A two-source operation of latency L, its sources read as their low bits in types ta and tb. -/
def sbin (x : SBin) (tb : ElemType) (L : Nat) (f : Nat → Nat → Nat × Flags) (s : State) : Res :=
  slotP x.pr (fun s => withG s x.t x.a fun a => withG s tb x.b fun b =>
    let (r, fl) := f a.toNat b.toNat
    putG s x.d L (ext64 x.t r) fl) s

/-- An operation of the exact values of its sources (R153). -/
def sarith (x : SBin) (L : Nat) (f : Int → Int → Int) : State → Res :=
  sbin x x.t L fun a b => intResult x.t x.sat (f (rdInt x.t a) (rdInt x.t b))

/-- A bitwise operation (R153). -/
def sbits (x : SBin) (f : Nat → Nat → Nat) : State → Res := sbin x x.t 1 fun a b => (f (a % 2 ^ x.t.width) (b % 2 ^ x.t.width), 0)

/-- A one-source operation (R153). -/
def sun (x : SUn) (f : Nat → Nat) (s : State) : Res :=
  slotP x.pr (fun s => withG s x.t x.a fun a => putG s x.d 1 (ext64 x.t (f (a.toNat % 2 ^ x.t.width))) 0) s

def execAdd (x : SBin) (s : State) : Res := sarith x 1 (· + ·) s
def execSub (x : SBin) (s : State) : Res := sarith x 1 (· - ·) s
def execMul (x : SBin) (s : State) : Res := sarith x 3 (· * ·) s
/-- MULH (R153): the upper W bits of the exact product. -/
def execMulh (x : SBin) (s : State) : Res :=
  sbin x x.t 3 (fun a b => (wrapInt x.t (rdInt x.t a * rdInt x.t b / 2 ^ x.t.width), 0)) s
/-- DIV (R154). -/
def execDiv (x : SBin) (s : State) : Res := sbin x x.t 20 (fun a b => divInt x.t x.sat (rdInt x.t a) (rdInt x.t b)) s
/-- REM (R154). -/
def execRem (x : SBin) (s : State) : Res := sbin x x.t 20 (fun a b => remInt x.t (rdInt x.t a) (rdInt x.t b)) s
def execAnd (x : SBin) (s : State) : Res := sbits x (· &&& ·) s
def execOr (x : SBin) (s : State) : Res := sbits x (· ||| ·) s
def execXor (x : SBin) (s : State) : Res := sbits x (· ^^^ ·) s
/-- ANDN: x and not y (R153). -/
def execAndn (x : SBin) (s : State) : Res := sbits x (fun a b => a &&& (2 ^ x.t.width - 1 - b)) s
/-- SHL (R155); the count is read as n64. -/
def execShl (x : SBin) (s : State) : Res := sbin x .n64 1 (fun a b => shlInt x.t x.sat (rdInt x.t a) b) s
/-- SHR (R155). -/
def execShr (x : SBin) (s : State) : Res := sbin x .n64 1 (fun a b => (shrInt x.t a b, 0)) s
/-- SAR (R155). -/
def execSar (x : SBin) (s : State) : Res := sbin x .n64 1 (fun a b => (sarInt x.t a b, 0)) s
/-- CLZ (R153). -/
def execClz (x : SUn) (s : State) : Res := sun x (clzNat x.t.width) s
/-- POPC (R153). -/
def execPopc (x : SUn) (s : State) : Res := sun x (popNat x.t.width) s
def execMin (x : SBin) (s : State) : Res := sarith x 1 min s
def execMax (x : SBin) (s : State) : Res := sarith x 1 max s
/-- CMP (R157): 1 where the condition holds, else 0. -/
def execCmp (x : SCmp) (s : State) : Res :=
  slotP x.pr (fun s => withG s x.t x.a fun a => withG s x.t x.b fun b =>
    putG s x.d 1 (if condHolds x.c x.t a.toNat b.toNat then 1 else 0) 0) s
/-- SEL (R153): x where source C is not zero, else y. -/
def execSel (x : SSel) (s : State) : Res :=
  slotP x.pr (fun s => withG s x.t x.a fun a => withG s x.t x.b fun b => withG s x.t x.c fun c =>
    putG s x.d 1 (ext64 x.t (if c.toNat % 2 ^ x.t.width ≠ 0 then a.toNat else b.toNat)) 0) s
def execMov (x : SUn) (s : State) : Res := sun x id s
/-- BFX (R156). -/
def execBfx (x : SBfx) (s : State) : Res :=
  slotP x.pr (fun s => withG s x.t x.a fun a => putG s x.d 1 (ext64 x.t (bfxNat x.t a.toNat x.pos.toNat x.len1.toNat)) 0) s
/-- BFI (R156). -/
def execBfi (x : SBfi) (s : State) : Res :=
  slotP x.pr (fun s => withG s x.t x.a fun a => withG s x.t x.b fun b =>
    putG s x.d 1 (ext64 x.t (bfiNat x.t a.toNat b.toNat x.pos.toNat x.len1.toNat)) 0) s

/-! ### Control (R127, R159 to R164) -/

/-- The PC that fetches nothing: where JMP or CALL with a zero-valued target goes (R160). Its bits [47:0] are zero. -/
def zeroTarget : Word := .ofNat 64 (2 ^ 63)

/-- Transfer to an address: a target that is not a multiple of 64 takes the misaligned-transfer trap (R127). -/
def transfer (s : State) (a : Word) : State :=
  if a.toNat % 64 ≠ 0 then s.trapped (trapOf 0x02 0) else s.modFs fun x => { x with npc := a }

/-- The address `disp` bundles from the PC (R159). -/
def State.relTarget (s : State) {n : Nat} (disp : BitVec n) : Word := s.fs.pc + 64 * disp.signExtend 64

/-- A computed target of JMP or CALL (R160). -/
def computed (v : Word) : Word := if v = 0 then zeroTarget else v

def execBr (disp : BitVec 15) (pr : Pred) (s : State) : Res := slotP pr (fun s => transfer s (s.relTarget disp)) s
def execBrc (x : SBrc) (s : State) : Res :=
  slotP x.pr (fun s => withG s x.t x.a fun a => withG s x.t x.b fun b =>
    if condHolds x.c x.t a.toNat b.toNat then transfer s (s.relTarget x.disp) else s) s
def execJmp (a : GSrc) (pr : Pred) (s : State) : Res := slotP pr (fun s => withG s .n64 a fun v => transfer s (computed v)) s
/-- CALL relative: the link has latency 1 (R159); a zero target fetches nothing (R160). -/
def execCallRelative (d : GDst) (disp : BitVec 15) (pr : Pred) (s : State) : Res :=
  slotP pr (fun s => transfer (putG s d 1 (s.fs.pc + 64) 0) (computed (s.relTarget disp))) s
/-- CALL absolute: the target is read before the link is written (R159). -/
def execCallAbsolute (d : GDst) (a : GSrc) (pr : Pred) (s : State) : Res :=
  slotP pr (fun s => withG s .n64 a fun v => transfer (putG s d 1 (s.fs.pc + 64) 0) (computed v)) s
/-- RET; a zero-valued target ends the stream (R160). -/
def execRet (a : GSrc) (pr : Pred) (s : State) : Res :=
  slotP pr (fun s => withG s .n64 a fun v => if v = 0 then s.modFs fun x => { x with nended := true } else transfer s v) s

/-- The loop-structure checks of a LOOP or LOOPP of length len at the stream's PC (R162). -/
def loopRefused (x : Stream) (len : Nat) : Bool :=
  6 ≤ x.loops.length || match x.loops with | e :: _ => decide (e.stop.toNat ≤ x.pc.toNat + 64 * len) | [] => false

/-- LOOP and LOOPP with kernel count k (R162). -/
def pushLoop (s : State) (len k : Nat) (piped : Bool) (depth : BitVec 3) : State :=
  if loopRefused s.fs len then s.trapped (trapOf 0x09 0)
  else
    let stop := s.fs.pc + .ofNat 64 (64 * len)
    if k = 0 then s.modFs fun x => { x with npc := stop + 64 }
    else s.modFs fun x =>
      { x with npc := x.pc + 64, nloops := ⟨x.pc + 64, stop, 0, .ofNat 65 k, piped, depth⟩ :: x.nloops }

def execLoop (a : GSrc) (len : BitVec 12) (s : State) : Res :=
  .next (slotRun (fun s => withG s .n64 a fun n => pushLoop s len.toNat n.toNat false 0) s)
def execLoopp (a : GSrc) (depth : BitVec 3) (len : BitVec 12) (s : State) : Res :=
  .next (slotRun (fun s => withG s .n64 a fun n => pushLoop s len.toNat (n.toNat + depth.toNat - 1) true depth) s)
/-- LBRK (R164). -/
def execLbrk (pr : Pred) (s : State) : Res :=
  slotP pr (fun s => match s.fs.loops with
    | [] => s.trapped (trapOf 0x09 0)
    | e :: _ => s.modFs fun x => { x with npc := e.stop + 64, nloops := x.nloops.drop 1 }) s
/-- The LEND header bit (R163). -/
def execLend (s : State) : Res :=
  .next (slotRun (fun s => match s.fs.nloops with
    | [] => s.trapped (trapOf 0x09 0)
    | e :: l =>
      if e.stop ≠ s.fs.pc then s.trapped (trapOf 0x09 0)
      else
        let s := if e.piped then s.modFe fun x => { x with rb := x.rb + 1 } else s
        if 1 < e.rem.toNat then s.modFs fun x => { x with nloops := { e with rem := e.rem - 1, idx := e.idx + 1 } :: l, npc := e.start }
        else s.modFs fun x => { x with nloops := l, npc := x.pc + 64 }) s)

/-! ### Predicates (R158) -/

/-- A predicate whose elements i < n of type t are active. -/
def firstMask (t : ElemType) (n : Nat) : PredBits := .ofNat 256 (2 ^ (min n t.lanes * t.width / 8) - 1)

def pbin (x : PBin) (f : PredBits → PredBits → PredBits) (s : State) : Res :=
  .next (slotRun (fun s => putP s x.d 1 (f (s.pred x.a.val) (s.pred x.b.val)) 0) s)

def execPmaskFirst (t : ElemType) (d : Fin 8) (a : GSrc) (s : State) : Res :=
  .next (slotRun (fun s => withG s .n64 a fun n => putP s d 1 (firstMask t n.toNat) 0) s)
def execPmaskAnd (x : PBin) (s : State) : Res := pbin x (· &&& ·) s
def execPmaskOr (x : PBin) (s : State) : Res := pbin x (· ||| ·) s
def execPmaskAndn (x : PBin) (s : State) : Res := pbin x (fun a b => a &&& ~~~ b) s
def execPmaskXor (x : PBin) (s : State) : Res := pbin x (· ^^^ ·) s
def execPmaskNot (d a : Fin 8) (s : State) : Res := .next (slotRun (fun s => putP s d 1 (~~~ s.pred a.val) 0) s)
/-- PMASK.ins: the other bits are those the predicate register holds when it is read. -/
def execPmaskIns (d : Fin 8) (a : GSrc) (k : Fin 4) (s : State) : Res :=
  .next (slotRun (fun s => withG s .n64 a fun v =>
    let p := (s.pred d.val).toNat
    let lo := 64 * k.val
    putP s d 1 (.ofNat 256 (p / 2 ^ (lo + 64) * 2 ^ (lo + 64) + v.toNat * 2 ^ lo + p % 2 ^ lo)) 0) s)
def execPmaskGet (d : GDst) (a : Fin 8) (k : Fin 4) (s : State) : Res :=
  .next (slotRun (fun s => putG s d 1 (.ofNat 64 ((s.pred a.val).toNat / 2 ^ (64 * k.val))) 0) s)

/-! ### Slack, service calls, user traps (R165 to R169) -/

def execSlack (n : BitVec 4) (s : State) : Res := .next (slotRun (fun s => s.modFs fun x => { x with nslack := n }) s)

/-- SEND (R166, R168): a release at dev scope, so it waits until the stream's earlier accesses are device-visible. -/
def execSend (port : Fin 16) (a b c : GSrc) (s : State) : Res :=
  .next (slotRun (fun s => withG s .n64 a fun va => withG s .n64 b fun vb => withG s .n64 c fun vc =>
    let q := tget [] (s.ctx s.fctx).ports port.val
    if s.fe.sends.any (·.port == port.val) then s.trapped (trapOf 0x0A port.val)
    else if 64 ≤ q.length || s.windowOpen || !releaseOk s.accs s.focus.eng s.focus.sec s.nextId .dev 0xFFFF then s.stall
    else
      let r : SvcReq := ⟨va, vb, vc, s.fe.gang.getD 0, s.fe.member, s.focus.sec⟩
      let s := s.modCtx s.fctx fun x => { x with ports := tput [] x.ports port.val (q ++ [r]) }
      s.modFe fun x => { x with sends := x.sends ++ [⟨port.val, s.focus.sec, none⟩] }) s)

/-- RECV (R166): the stream waits for the reply. -/
def execRecv (d : GDst) (port : Fin 16) (s : State) : Res :=
  .next (slotRun (fun s => match s.fe.sends.find? (·.port == port.val) with
    | none => s.trapped (trapOf 0x0A port.val)
    | some x => match x.reply with
      | none => s.stall
      | some v => putG (s.modFe fun y => { y with sends := y.sends.filter (·.port ≠ port.val) }) d 1 v 0) s)

def execTrapi (code : BitVec 15) (pr : Pred) (s : State) : Res := slotP pr (fun s => s.trapped (trapOf 0x0B code.toNat)) s

/-! ### CSRs (R170, R171) -/

/-- The value of a CSR. -/
def State.csr (s : State) (n : Nat) : Word :=
  let x := s.fe
  let e := s.focus.eng
  if n = 0 then x.astat.zeroExtend 64
  else if n = 1 then x.rmode.zeroExtend 64
  else if n = 2 then x.rseed.zeroExtend 64
  else if n = 3 then s.fs.slack.zeroExtend 64
  else if n = 4 then x.rb.zeroExtend 64
  else if n = 8 then (if isSeq e then 0 else .ofNat 64 (e % 4))
  else if n = 9 then (if isSeq e then 0xF else .ofNat 64 (cluOf e))
  else if n = 10 then s.clk
  else if n = 12 then (if isSeq e then 0 else .ofNat 64 (x.gang.getD 0 % 65536))
  else if n = 13 then (if isSeq e then 0 else .ofNat 64 x.member)
  else if 16 ≤ n ∧ n < 24 then (s.fs.tok (n - 16)).zeroExtend 64
  else if n = 32 then x.tix.zeroExtend 64
  else if n = 33 then x.tdsc.zeroExtend 64
  else 0

def execCsrr (d : GDst) (csr : BitVec 12) (pr : Pred) (s : State) : Res := slotP pr (fun s => putG s d 2 (s.csr csr.toNat) 0) s
/-- CSRW: the write takes effect for the bundles that issue in a later clk; of two in one clk the secondary's is the later (R170,
R171). -/
def execCsrw (a : GSrc) (csr : BitVec 12) (pr : Pred) (s : State) : Res :=
  slotP pr (fun s => withG s .n64 a fun v =>
    if csr = 1 ∧ 6 ≤ v.toNat % 8 then s.trapped (trapOf 0x0C 1)
    else s.modFe fun x => { x with ncsr := x.ncsr ++ [⟨s.clk.toNat, s.focus.sec, csr.toNat, v⟩] }) s

end Sys2Proof.Machine
end

