-- ==== Sys2Proof/Machine/Address.lean ====
section
/-!
DEFINITION. The A slots (R173 to R198): handle arithmetic, loads and stores, atomics, FENCE, the software cache, streams and
layer residency.
-/
namespace Sys2Proof.Machine

/-! ### Handle arithmetic (R178 to R180) -/

/-- HOFF (R179): CUR moves modulo 2^48. -/
def execHoff (x : HArith) (s : State) : Res :=
  slotP x.pr (fun s => withG s .i64 x.b fun b => putH s x.d 1 ((s.h x.a).move b.toInt)) s
/-- HNAR.rights (R179): R, W, A, B, P may be cleared by b[7:3]. -/
def execHnarRights (x : HArith) (s : State) : Res :=
  slotP x.pr (fun s => withG s .n64 x.b fun b =>
    let h := s.h x.a
    putH s x.d 1 (h.setFld 100 8 (h.rights &&& (b.toNat % 256 ||| 7)))) s
/-- HNAR.low (R179). -/
def execHnarLow (x : HArith) (s : State) : Res :=
  slotP x.pr (fun s => withG s .n64 x.b fun b =>
    let h := s.h x.a
    putH s x.d 1 (h.setFld 72 24 (min (max h.low b.toNat) h.high))) s
/-- HNAR.high (R179). -/
def execHnarHigh (x : HArith) (s : State) : Res :=
  slotP x.pr (fun s => withG s .n64 x.b fun b =>
    let h := s.h x.a
    putH s x.d 1 (h.setFld 48 24 (max (min h.high b.toNat) h.low))) s

/-- The field that HGET reads (R180). -/
def Handle.get (h : Handle) : HField → Nat
  | .cur => h.cur | .low => h.lowB | .high => h.highB | .rights => h.rights | .gran => h.gran | .oid => h.oid
  | .tag => h.tag.toNat | .lo64 => h.bits.toNat % 2 ^ 64 | .hi64 => h.bits.toNat / 2 ^ 64

def execHget (f : HField) (d : GDst) (a : Fin 16) (pr : Pred) (s : State) : Res :=
  slotP pr (fun s => putG s d 1 (.ofNat 64 ((s.h a).get f)) 0) s

/-! ### Scalar loads and stores (R175, R177, R181 to R184) -/

/-- The address CUR + b·2^SCL (R175). -/
def Handle.addr (h : Handle) (b : Word) (scl : BitVec 3) : Int := (h.cur : Int) + b.toInt * 2 ^ scl.toNat

/-- Take the fault of a checked access, which names the slot's position and the handle's object, or go on. -/
def checked (s : State) (h : Handle) (f : Option Nat) (k : State) : State :=
  match f with
  | some c => s.hTrapped c s.pos h
  | none => k

/-- A token-delivered result: charge its token, reserve its queue entry, send the access (R177). -/
def tokenOp (s : State) (tok : Fin 8) (resv : State → Nat → State) (r : Req) : State :=
  tokAdd s tok.val 1 fun s =>
    let (id, s) := s.fresh
    (resv s id).access id r

def reserveG (s : State) (id : Nat) : State := s.reserve 0 (.token id)

/-- A write's access; a release waits for open matrix windows (R110). -/
def storeOp (s : State) (r : Req) : State :=
  if r.ann.isRl && s.windowOpen then s.stall
  else
    let (id, s) := s.fresh
    s.access id r

/-- Natural alignment is required (R183). -/
def State.mustAlign (s : State) (h : Handle) (ann : Ann) : Bool := ann != .plain || h.has rS || s.isWindow h

/-- LD (R182). -/
def execLd (x : ALd) (s : State) : Res :=
  slotP x.pr (fun s => withG s .i64 x.b fun b =>
    let h := s.h x.h
    let a := h.addr b x.scl
    let n := x.t.width / 8
    checked s h (elemsCheck h rR (s.mustAlign h x.ann) [(a, n)]) <|
      tokenOp s x.tok reserveG
        { kind := .load, cls := x.cls, ann := x.ann, scope := x.scope, t := x.t, h := h, parts := [⟨0, a.toNat, n, 0⟩], tagQ := none,
          far := false, dst := .g x.d, tok := some x.tok.val, typ := 0 }) s

/-- ST (R182). -/
def execSt (x : ASt) (s : State) : Res :=
  slotP x.pr (fun s => withG s .i64 x.b fun b => withG s x.t x.c fun c =>
    let h := s.h x.h
    let a := h.addr b x.scl
    let n := x.t.width / 8
    checked s h (elemsCheck h rW (s.mustAlign h x.ann) [(a, n)]) <|
      storeOp s
        { kind := .store, cls := x.cls, ann := x.ann, scope := x.scope, t := x.t, h := h,
          parts := [⟨0, a.toNat, n, c.toNat % 2 ^ x.t.width⟩], tagQ := none, far := false, dst := .none, tok := none, typ := 1 }) s

/-- LDH (R182, R184). -/
def execLdh (x : ALdh) (s : State) : Res :=
  slotP x.pr (fun s => withG s .i64 x.b fun b =>
    let h := s.h x.h
    let a := h.addr b x.scl
    checked s h (elemsCheck h rR true [(a, 16)]) <|
      tokenOp s x.tok (fun s _ => s)
        { kind := .load, cls := x.cls, ann := x.ann, scope := x.scope, t := .n64, h := h, parts := [⟨0, a.toNat, 16, 0⟩],
          tagQ := some (a.toNat, false), far := false, dst := .h x.d.val, tok := some x.tok.val, typ := 0 }) s

/-- STH (R182, R184). -/
def execSth (x : ASth) (s : State) : Res :=
  slotP x.pr (fun s => withG s .i64 x.b fun b =>
    let h := s.h x.h
    let a := h.addr b x.scl
    let v := s.h x.c
    checked s h (elemsCheck h rW true [(a, 16)]) <|
      storeOp s
        { kind := .store, cls := x.cls, ann := x.ann, scope := x.scope, t := .n64, h := h, parts := [⟨0, a.toNat, 16, v.bits.toNat⟩],
          tagQ := some (a.toNat, v.tag), far := false, dst := .none, tok := none, typ := 1 }) s

/-! ### Vector accesses (R185 to R187) -/

/-- The active elements of an access with their addresses (R186). -/
def State.elems (s : State) (t : ElemType) (pr : Pred) (addr : Nat → Int) : List (Nat × Int) :=
  let p := s.active pr
  ((rangeFrom 0 t.lanes).filter fun i => laneOn t p i).map fun i => (i, addr i)

/-- A v destination with its physical register and the queue entry it reserves (R146, R186, R201). -/
def State.physDst (s : State) : VDst → VDst
  | .reg n => .reg (fin32 (physV s.fe.rb n.val))
  | d => d

def reserveV (d : VDst) (s : State) (id : Nat) : State :=
  s.vreserve (match d with | .reg n => tget 0 s.fe.v (physV s.fe.rb n.val) | _ => 0) (.token id)

/-- A vector load of the active elements (R186): every element is checked before any is accessed. -/
def vload (t : ElemType) (cls : BitVec 4) (d : VDst) (h : Handle) (tok : Fin 8) (typ : Nat) (es : List (Nat × Int)) (s : State) : State :=
  let n := t.width / 8
  checked s h (elemsCheck h rR true (es.map fun (_, a) => (a, n))) <|
    tokenOp s tok (reserveV d)
      { kind := .load, cls := cls, ann := .plain, scope := .stream, t := t, h := h, parts := es.map fun (i, a) => ⟨i * n, a.toNat, n, 0⟩,
        tagQ := none, far := false, dst := .v (s.physDst d), tok := some tok.val, typ := typ }

/-- A vector store of the active elements in ascending order (R186, R187). -/
def vstore (t : ElemType) (cls : BitVec 4) (h : Handle) (typ : Nat) (es : List (Nat × Int)) (v : Vec) (s : State) : State :=
  let n := t.width / 8
  checked s h (elemsCheck h rW true (es.map fun (_, a) => (a, n))) <|
    storeOp s
      { kind := .store, cls := cls, ann := .plain, scope := .stream, t := t, h := h,
        parts := es.map fun (i, a) => ⟨i * n, a.toNat, n, lane t v i⟩, tagQ := none, far := false, dst := .none, tok := none, typ := typ }

def execVld (x : AVld) (s : State) : Res :=
  .next (slotRun (fun s => withG s .i64 x.b fun b =>
    let h := s.h x.h
    vload x.t x.cls x.d h x.tok 3 (s.elems x.t x.pr fun i => h.addr b x.scl + i * (x.t.width / 8)) s) s)
def execVst (x : AVst) (s : State) : Res :=
  .next (slotRun (fun s => withG s .i64 x.b fun b => withV s x.t x.c fun s c =>
    let h := s.h x.h
    vstore x.t x.cls h 4 (s.elems x.t x.pr fun i => h.addr b x.scl + i * (x.t.width / 8)) c s) s)
/-- VLDS: element i lies i strides from CUR. -/
def execVlds (x : AVld) (s : State) : Res :=
  .next (slotRun (fun s => withG s .i64 x.b fun b =>
    let h := s.h x.h
    vload x.t x.cls x.d h x.tok 3 (s.elems x.t x.pr fun i => h.cur + i * b.toInt) s) s)
def execVsts (x : AVst) (s : State) : Res :=
  .next (slotRun (fun s => withG s .i64 x.b fun b => withV s x.t x.c fun s c =>
    let h := s.h x.h
    vstore x.t x.cls h 4 (s.elems x.t x.pr fun i => h.cur + i * b.toInt) c s) s)

/-- The address that index element i gives (R186). -/
def gatherAddr (t : ElemType) (h : Handle) (v : Vec) (scl : BitVec 3) (i : Nat) : Int :=
  h.cur + rdInt t.index (lane t v i) * 2 ^ scl.toNat

def execVgth (x : AGth) (s : State) : Res :=
  .next (slotRun (fun s => withV s x.t.index x.b fun s b =>
    let h := s.h x.h
    vload x.t x.cls x.d h x.tok 5 (s.elems x.t x.pr (gatherAddr x.t h b x.scl)) s) s)
def execVsct (x : ASct) (s : State) : Res :=
  .next (slotRun (fun s => withV s x.t.index x.b fun s b => withV s x.t x.c fun s c =>
    let h := s.h x.h
    vstore x.t x.cls h 5 (s.elems x.t x.pr (gatherAddr x.t h b x.scl)) c s) s)

/-! ### Atomics (R188 to R190) -/

def atom (op : Fin 8) (x : AAtom) (s : State) : Res :=
  slotP x.pr (fun s => withG s (if op = 7 then x.t else .i64) x.b fun b => withG s x.t x.c fun c =>
    let h := s.h x.h
    let a : Int := if op = 7 then h.cur else h.cur + b.toInt
    let n := x.t.width / 8
    checked s h (elemsCheck h rA true [(a, n)]) <|
      if x.ann.isRl && s.windowOpen then s.stall
      else tokenOp s x.tok reserveG
        { kind := .atom op x.t b (.ofNat 64 (c.toNat % 2 ^ x.t.width)), cls := x.cls, ann := x.ann, scope := x.scope, t := x.t, h := h,
          parts := [⟨0, a.toNat, n, 0⟩], tagQ := none, far := x.far, dst := .g x.d, tok := some x.tok.val, typ := 2 }) s

def execAtomAdd (x : AAtom) (s : State) : Res := atom 0 x s
def execAtomMin (x : AAtom) (s : State) : Res := atom 1 x s
def execAtomMax (x : AAtom) (s : State) : Res := atom 2 x s
def execAtomAnd (x : AAtom) (s : State) : Res := atom 3 x s
def execAtomOr (x : AAtom) (s : State) : Res := atom 4 x s
def execAtomXor (x : AAtom) (s : State) : Res := atom 5 x s
def execAtomXchg (x : AAtom) (s : State) : Res := atom 6 x s
def execAtomCas (x : AAtom) (s : State) : Res := atom 7 x s

/-! ### FENCE (R102, R191) -/

/-- The parameter registers that a FENCE orders before later GOs (R82, R102). -/
def CqReg.fence (m : BitVec 16) (r : CqReg) : CqReg := if m.getLsbD r.cls.toNat then { r with settled := true } else r
def CopyBank.fence (m : BitVec 16) (b : CopyBank) : CopyBank := ⟨b.src.fence m, b.dst.fence m, b.shp.fence m, b.flg.fence m⟩

def execFence (mask : BitVec 16) (scope : Scope) (pr : Pred) (s : State) : Res :=
  slotP pr (fun s =>
    if scope != .stream && s.windowOpen then s.stall
    else
      let (id, s) := s.fresh
      let f : Access := { s.newAcc id s.focus.eng s.focus.sec (.fence mask) with scope := scope }
      { s with accs := dropFences (s.accs ++ [f]) }.modFs fun y => { y with cq := y.cq.fence mask }) s

/-! ### The software cache (R76 to R78, R192, R193) -/

/-- The way of a set that a probe of key (oid, blk) meets: a hit, a pending fill, or a victim. -/
inductive Probe where
  | hit (way : Nat) | filling | victim (way : Nat) (rotate : Bool) | busy
  deriving DecidableEq, Repr

def Cluster.way (x : Cluster) (set_ w : Nat) : TagSt := tget .invalid x.tagTable (set_ * 4 + w)

/-- R77. Where no way is invalid and some are filling, the victim is the first valid way from the rotation pointer on. -/
def Cluster.probe (x : Cluster) (set_ oid blk : Nat) : Probe :=
  let ws := [0, 1, 2, 3]
  match ws.find? fun w => x.way set_ w == .valid oid blk with
  | some w => .hit w
  | none =>
    if ws.any fun w => x.way set_ w == .filling oid blk then .filling
    else match ws.find? fun w => x.way set_ w == .invalid with
      | some w => .victim w false
      | none =>
        let r := tget 0 x.rot set_
        match [r, r + 1, r + 2, r + 3].find? fun w => match x.way set_ (w % 4) with | .valid _ _ => true | _ => false with
        | some w => .victim (w % 4) true
        | none => .busy

/-- PROBE, with the miss target's displacement where MT is set (R193). -/
def probeOp (x : AProbe) (mt : Option (BitVec 12)) (s : State) : Res :=
  slotP x.pr (fun s => withG s .i64 x.b fun b =>
    let h := s.h x.h
    let a := h.addr b 0
    let f := match h.check rR a 1 with
      | some 6 => if h.has rS then some 5 else some 6
      | none => if h.has rS then some 5 else none
      | e => e
    checked s h f <|
      let c := cluOf s.focus.eng
      let y := s.clu c
      if y.cacheB = 0 then s.trapped (trapOf 0x0F 0)
      else
        let blk := a.toNat / 2 ^ y.cacheK
        let sets := y.cacheB / 4
        let set_ := (blk ^^^ (h.oid % 4096)) % sets
        let slot (w : Nat) : Word := .ofNat 64 ((w * sets + set_) * 2 ^ y.cacheK)
        match y.probe set_ h.oid blk with
        | .hit w => putG s x.d 4 (slot w) 0
        | .filling => s.stall
        | .busy => s.stall
        | .victim w rot =>
          tokAdd s x.tok.val (2 ^ y.cacheK) fun s =>
            let (id, s) := s.fresh
            let job : FillJob :=
              { id := id, eng := s.focus.eng, sec := s.focus.sec, task := s.taskOf s.focus.eng, tok := x.tok.val, cls := x.cls, pc := s.fs.pc,
                ctx := s.fctx, h := h, blk := blk, set_ := set_, way := w, landed := 0, retry := 0, retryAt := none }
            let s := s.modClu c fun z =>
              { z with
                tagTable := tput .invalid z.tagTable (set_ * 4 + w) (.filling h.oid blk)
                rot := if rot then tput 0 z.rot set_ ((w + 1) % 4) else z.rot
                fills := z.fills ++ [job] }
            let s := putG s x.d 4 (slot w) 0
            match mt with
            | none => s
            | some d => s.modFs fun z => { z with npc := s.relTarget d }) s

def execProbe (x : AProbe) (s : State) : Res := probeOp x none s
def execProbeMissTarget (x : AProbe) (disp : BitVec 12) (s : State) : Res := probeOp x (some disp) s

/-! ### Streams (R84, R85, R194 to R196) -/

/-- Lowest and highest displacement of a pattern's elements from its origin. -/
def geoSpan (geo : List Word) : Int × Int :=
  geo.foldl (fun (lo, hi) w =>
    let d := (geoCount w - 1 : Nat) * geoStride w
    (lo + min d 0, hi + max d 0)) (0, 0)

/-- The fault of a binding (R84), if any. -/
def State.bindFault (s : State) (write : Bool) (h : Handle) (b : Int) (geo : List Word) : Option Nat :=
  let (lo, hi) := geoSpan geo
  let a := h.cur + b
  let r := if write then rW else rR
  match h.check r (a + lo) 256 with
  | some c => some c
  | none => match h.check r (a + hi) 256 with
    | some c => some c
    | none =>
      if b % 64 ≠ 0 || geo.any (fun w => geoStride w % 64 ≠ 0) then some 7
      else if h.has rS then some 5
      else match s.objEnt s.fctx h.oid with
        | some x => if x.space.val = 0 ∧ x.clu = cluOf s.focus.eng then none else some 0x14
        | none => some 0x14

/-- Entries of a core's stream-transfer buffer (R143). -/
def Engine.strmBuf (x : Engine) : Nat := (x.prim.lags.filter fun l => l.unit != .engine).length

/-- Hand SBIND or SFLUSH to the stream transfer units' buffer, which stalls the bundle when full (R143). -/
def strmUnit (cls : Option (BitVec 4)) (s : State) (k : State → Nat → State) : State :=
  if 16 ≤ s.fe.strmBuf then s.stall
  else
    let (id, s) := s.fresh
    k (s.modFs fun y => { y with lags := y.lags ++ [⟨id, y.cycle, .strm cls⟩] }) id

/-- SBIND (R195): the new binding stands from the next bundle. -/
def execSbind (x : ASbind) (s : State) : Res :=
  .next (slotRun (fun s => withG s .i64 x.b fun b =>
    let h := s.h x.h
    let geo := [0, 1, 2, 3].map fun j => if x.gc.val + j = 0 then 0 else tget 0 s.fs.g (x.gc.val + j)
    checked s h (s.bindFault x.write h b.toInt geo) <|
      strmUnit (some x.cls) s fun s id =>
        let n : Binding := { id := id, write := x.write, h := h.move b.toInt, geo := geo, cls := x.cls, next := 0, window := [] }
        s.modFe fun z => { z with nbind := z.nbind ++ [(x.k.val, n)] }) s)

/-- SFLUSH (R196). -/
def execSflush (k : Option (Fin 8)) (unb : Bool) (tok : Fin 8) (s : State) : Res :=
  .next (slotRun (fun s => tokAdd s tok.val 1 fun s => strmUnit none s fun s _ =>
    let named := match k with | some j => [j.val] | none => rangeFrom 0 8
    let due := (s.fs.pend.map (·.due)).foldl max 0
    s.modFe fun z => { z with flushes := z.flushes ++ [⟨s.strmUpto named, if unb then named else [], some tok.val, due, none⟩] }) s)

/-- Access a is an element that the SFLUSH f of engine e awaits. -/
def Sflush.awaits (f : Sflush) (e : Nat) (a : Access) : Bool :=
  a.eng == e && match a.kind with | .strm k n none => f.ks.any fun (j, m) => j == k && n < m | _ => false

/-- An SFLUSH of engine e is complete: its elements are flushed, UNB and a rebinding take effect, its token falls (R85, R196). -/
def State.flushed (s : State) (e i : Nat) (f : Sflush) : State :=
  let mark (a : Access) : Access := match a.kind with
    | .strm k n none => if f.awaits e a then { a with kind := .strm k n (some s.nextId) } else a
    | _ => a
  let s := { s with accs := s.accs.map mark }
  let s := s.modEng e fun x =>
    let binds := f.unb.foldl (fun b k => tput none b k none) x.binds
    { x with
      flushes := x.flushes.eraseIdx i
      binds := match f.rebind with | some (k, b) => tput none binds k (some b) | none => binds }
  s.tokDone e false f.tok

/-- SFLUSH_COMPLETE: the i-th SFLUSH of engine e. The elements written before it reach their pattern; once they are
cluster-visible it is complete (R196). -/
def execSflushComplete (e i : Nat) (s : State) : Res :=
  .next (match (s.eng e).flushes.drop i with
    | [] => s
    | f :: _ =>
      let s := f.ks.foldl (fun s (k, _) => s.strmDrain e k f.due) s
      if s.accs.any fun a => a.vis == 0 && f.awaits e a then s else s.flushed e i f)

/-- STREAM_FETCH: the transfer unit fetches the next vector of read stream k, at most eight ahead, in the order that its SBIND has
in its stream (R85, R111). -/
def execStreamFetch (e : Nat) (k : Fin 8) (s : State) : Res :=
  .next (match tget none (s.eng e).binds k.val with
    | none => s
    | some b =>
      let n := b.next + b.window.length
      if b.write || 8 ≤ b.window.length || b.total ≤ n || !s.unitMay e false b.id b.cls (s.strmAt e b n) then s
      else s.modEng e fun x => { x with binds := tput none x.binds k.val (some { b with window := b.window ++ [s.strmFetch e b n] }) })

/-! ### Layer residency (R197) -/

def ldres (x : ALdres) (wait : Bool) (s : State) : Res :=
  slotP x.pr (fun s => withG s .i64 x.b fun b =>
    let h := s.h x.h
    let a := h.addr b x.scl
    checked s h (elemsCheck h rR true [(a, 8)]) <|
      tokenOp s x.tok reserveG
        { kind := .ldres wait, cls := 0, ann := .aq, scope := .dev, t := .n64, h := h, parts := [⟨0, a.toNat, 8, 0⟩], tagQ := none,
          far := false, dst := .g x.d, tok := some x.tok.val, typ := 0 }) s

def execLdres (x : ALdres) (s : State) : Res := ldres x false s
def execLdresW (x : ALdres) (s : State) : Res := ldres x true s

/-! ### Accesses in flight (R94, R177) -/

/-- TOKEN_RESULT_LANDS: a token-delivered result takes its value, or lands (R94 to R105, R177). -/
def execTokenResultLands (id : Nat) (ph : LandPhase) (s : State) : Res :=
  .next (match s.accs.find? (·.id == id) with
    | none => s
    | some b => match ph with
      | .perform =>
        if b.taken.isNone && (b.kind.isLoad || b.kind == .value) && s.mayStep (if b.kind.isAtom then .dev else .value) b then
          let t := s.takeValue b
          ({ t with accs := dropFences t.accs } : State).accSettle
        else s
      | .land => if s.mayLand b then s.land b else s)

/-- WRITE_VISIBLE: a store or stream write becomes cluster-visible, or device-visible (R94 to R105). -/
def execWriteVisible (id : Nat) (dev : Bool) (s : State) : Res :=
  .next (match s.accs.find? (·.id == id) with
    | none => s
    | some b =>
      if !b.kind.isStore then s
      else if dev then
        if s.mayStep .dev b then
          let t := s.performStore b
          ({ t with accs := dropFences (t.accs.filter (·.id ≠ id)) } : State).accSettle
        else s
      else if b.vis = 0 && !isSeq b.eng && !b.sobj && !b.window && s.mayStep .clu b then
        let (n, s) := s.fresh
        { s with accs := dropFences (s.accs.map fun a => if a.id = id then { a with vis := n + 1 } else a) }
      else s)

/-! ### Fills (R78, R112) -/

/-- The placed runs of bytes a … a + n − 1 of a fill's block that lie within LOW·G … HIGH·G − 1, or the port's answer where one of them
has no place (R193, R396). -/
def State.fillReach (s : State) (j : FillJob) (a n : Nat) : Reach :=
  let lo := max a j.h.lowB
  let hi := min (a + n) j.h.highB
  if hi ≤ lo then .runs [] else s.reach j.ctx j.h.oid lo (hi - lo)

/-- The bytes a … a + n − 1 of a fill's block: zero outside LOW·G … HIGH·G − 1 (R78). -/
def State.fillBytes (s : State) (h : Handle) (clu a n : Nat) (l : List (Nat × Nat × Nat)) : List Byte :=
  (List.replicate (min n (h.lowB - a)) 0 ++ s.runBytes clu l ++ List.replicate n 0).take n

/-- The cache region of a cluster starts at this scratchpad offset. -/
def Cluster.cacheBase (x : Cluster) : Nat := match x.regions.find? (·.cache) with | some r => r.first * 16384 | none => 0

/-- Fill j of cluster clu leaves the queue, its entry in state t (R77). -/
def State.fillGone (s : State) (clu i : Nat) (j : FillJob) (t : TagSt) : State :=
  s.modClu clu fun z => { z with fills := z.fills.eraseIdx i, tagTable := tput .invalid z.tagTable (j.set_ * 4 + j.way) t }

/-- A fill's fault is an operator trap of the stream that probed (R175, R417). -/
def State.fillTrap (s : State) (clu i : Nat) (j : FillJob) (x : TrapInfo) : State :=
  let s := s.fillGone clu i j .invalid
  match j.task with
  | some (g, m) => s.gangTrap g m j.sec (some j.eng) j.pc x
  | none => s

/-- A free number of 4-byte units, at least one, of the n bytes that remain (R104). -/
def State.drawUnits (s : State) (n : Nat) : Nat × State :=
  let (w, s) := s.draw
  (min n (4 * (w.toNat % ((n + 3) / 4) + 1)), s)

/-- FILL_COMPLETE: some of the bytes that the i-th queued fill of a cluster still owes land and discharge its token, a free number of
4-byte units; with the last of them its entry becomes valid (R78, R104, R193). A fault of the port is an operator trap; a non-resident
page parks the fill for yo-yo retry (R420). A fill reads scratchpad of any cluster, as a copy engine does: DESIGN CHOICE, log 96. -/
def execFillComplete (clu i : Nat) (s : State) : Res :=
  .next (match (s.clu clu).fills.drop i with
    | [] => s
    | j :: _ =>
      let y := s.clu clu
      let n := 2 ^ y.cacheK
      let a := j.blk * n
      if j.retryAt.isSome then s
      else match s.fillReach j a n with
        | .fault f => s.fillTrap clu i j ⟨f, 0, some j.h.oid, none, none⟩
        | .absent prio l g =>
          let (t, f) := s.absentReq j.ctx j.h.oid prio l g
          if f then t.fillTrap clu i j (s.swapTrap j.ctx j.h.oid l)
          else t.modClu clu fun z =>
            { z with fills := z.fills.map fun q => if q.id = j.id then { q with retry := 1, retryAt := some (t.retryAt 1) } else q }
        | .runs all =>
          let (m, t) := s.drawUnits (n - j.landed)
          let dst := locSp clu (y.cacheBase + (j.way * (y.cacheB / 4) + j.set_) * n) + j.landed
          match s.fillReach j (a + j.landed) m with
          | .runs l =>
            if !s.quiet clu dst m || !s.unitMay j.eng j.sec j.id j.cls (all.map fun (q, _, k) => (q, k)) then s
            else
              let t := (t.runReads j.id l).put dst (s.fillBytes j.h clu (a + j.landed) m l)
              let t := t.tokSub j.eng j.sec j.tok m
              if j.landed + m < n then
                t.modClu clu fun z => { z with fills := z.fills.map fun q => if q.id = j.id then { q with landed := q.landed + m } else q }
              else t.fillGone clu i j (.valid j.h.oid j.blk)
          | _ => s)

/-- CQGO: a store of x to CQGO by the stream in focus, in class cls (R80). -/
def execCqgo (cls : BitVec 4) (x : Word) (s : State) : Res := .next (slotRun (fun s => s.cqGo cls x) s)

end Sys2Proof.Machine
end

