-- ==== Sys2Proof/Machine/Vector.lean ====
section
/-!
DEFINITION. The V slots (R199 to R225): element-wise arithmetic, comparison, moves, conversions, dot products, special
functions, reductions, compress and expand, permutes, dual-exponent pack and unpack.
-/
namespace Sys2Proof.Machine

/-! ### Shared operations -/

/-- A rounding mode with DYN resolved; `sr` says whether the operation permits SR (R44). -/
def State.mode (s : State) (sr : Bool) : RMode → RMode
  | .dyn => match s.fe.rmode.toNat with
    | 1 => .rz
    | 2 => .ru
    | 3 => .rd
    | 4 => .rna
    | 5 => if sr then .sr else .rne
    | _ => .rne
  | m => m

/-- The next n draws of SR, and the state after them (R45). -/
def drawsFrom : Nat → BitVec 32 → List Nat × BitVec 32
  | 0, x => ([], x)
  | n + 1, x =>
    let r := drawsFrom n (srDraw x)
    ((srDraw x).toNat :: r.1, r.2)

/-- Take the draws of an operation that rounds n elements: none unless it rounds under SR (R45). -/
def withDraws (s : State) (m : RMode) (n : Nat) (k : State → (Nat → Nat) → State) : State :=
  match m with
  | .sr =>
    let r := drawsFrom n s.fe.rseed
    k (s.modFe fun x => { x with rseed := r.2 }) (fun i => (r.1.drop i).headD 0)
  | _ => k s fun _ => 0

/-- A vector of type t with the flags of its active elements (R201). -/
def velems (t : ElemType) (m : PredBits) (f : Nat → Nat × Flags) : Vec × Flags :=
  let l := (rangeFrom 0 t.lanes).map fun i => (i, f i)
  (.ofNat 2048 (fromLanes t (l.map fun x => x.2.1)),
    l.foldl (fun a x => if laneOn t m x.1 then a ||| x.2.2 else a) 0)

/-- The result of R201: element i of type t is f i, merged under the predicate. -/
def vput (s : State) (d : VDst) (L : Nat) (t : ElemType) (pr : Pred) (f : Nat → Nat × Flags) : State :=
  let m := s.active pr
  let r := velems t m f
  putV s d L (laneMask t m) r.1 r.2

/-- A result that writes every element of its destination. -/
def vputAll (s : State) (d : VDst) (L : Nat) (t : ElemType) (f : Nat → Nat × Flags) : State :=
  let r := velems t (.allOnes 256) f
  putV s d L (.allOnes 256) r.1 r.2

/-- A V slot has no predicate test of its own. -/
def vslot (f : State → State) (s : State) : Res := .next (slotRun f s)

/-- A two-source element operation, with B read as tb. -/
def vbin (x : VBin) (tb : ElemType) (L : Nat) (f : RMode → Nat → Nat → Nat × Flags) (s : State) : Res :=
  vslot (fun s => withV s x.t x.a fun s a => withV s tb x.b fun s b =>
    let m := s.mode false x.rm
    vput s x.d L x.t x.pr fun i => f m (lane x.t a i) (lane tb b i)) s

/-- A one-source element operation. -/
def vun (x : VUn) (L : Nat) (f : RMode → Nat → Nat × Flags) (s : State) : Res :=
  vslot (fun s => withV s x.t x.a fun s a =>
    let m := s.mode false x.rm
    vput s x.d L x.t x.pr fun i => f m (lane x.t a i)) s

/-! ### Element-wise arithmetic (R206 to R208) -/

/-- x + y in type t (R206). -/
def addElem (t : ElemType) (sat : Bool) (m : RMode) (a b : Nat) : Nat × Flags :=
  if isFloat t then fAdd (fmtOf t) m sat (valueOf t a) (valueOf t b) else intResult t sat (rdInt t a + rdInt t b)

def subElem (t : ElemType) (sat : Bool) (m : RMode) (a b : Nat) : Nat × Flags :=
  if isFloat t then fAdd (fmtOf t) m sat (valueOf t a) (valueOf t b).negate else intResult t sat (rdInt t a - rdInt t b)

def mulElem (t : ElemType) (sat : Bool) (m : RMode) (a b : Nat) : Nat × Flags :=
  if isFloat t then fMul (fmtOf t) m sat (valueOf t a) (valueOf t b) else intResult t sat (rdInt t a * rdInt t b)

/-- VMIN and VMAX (R207). -/
def minMaxElem (t : ElemType) (isMax : Bool) (a b : Nat) : Nat × Flags :=
  if isFloat t then (fMinMax (fmtOf t) isMax a b, 0)
  else (wrapInt t (if isMax then max (rdInt t a) (rdInt t b) else min (rdInt t a) (rdInt t b)), 0)

/-- The sign of a float pattern set to `neg`, with NaN canonical (R207). -/
def signElem (t : ElemType) (neg : Bool → Bool) (a : Nat) : Nat :=
  let f := fmtOf t
  if (f.decode a).isNan then f.nanBits
  else a % 2 ^ (t.width - 1) + f.signBit (neg (2 ^ (t.width - 1) ≤ a))

def absElem (t : ElemType) (sat : Bool) (a : Nat) : Nat × Flags :=
  if isFloat t then (signElem t (fun _ => false) a, 0) else intResult t sat ((rdInt t a).natAbs : Int)

def negElem (t : ElemType) (sat : Bool) (a : Nat) : Nat × Flags :=
  if isFloat t then (signElem t (fun n => !n) a, 0) else intResult t sat (-(rdInt t a))

/-- Latency of an operation that takes I cycles on integers and 4 on floats (R140). -/
def latIF (t : ElemType) (i : Nat) : Nat := if isFloat t then 4 else i

def execVadd (x : VBin) (s : State) : Res := vbin x x.t (latIF x.t 1) (addElem x.t x.sat) s
def execVsub (x : VBin) (s : State) : Res := vbin x x.t (latIF x.t 1) (subElem x.t x.sat) s
def execVmul (x : VBin) (s : State) : Res := vbin x x.t (latIF x.t 3) (mulElem x.t x.sat) s

/-- VFMA and VFMS (R206). -/
def vfused (x : VTri) (c : FV → FV) (s : State) : Res :=
  vslot (fun s => withV s x.t x.a fun s va => withV s x.t x.b fun s vb => withV s x.t x.c fun s vc =>
    let m := s.mode false x.rm
    vput s x.d 4 x.t x.pr fun i =>
      fFma (fmtOf x.t) m x.sat (valueOf x.t (lane x.t va i)) (valueOf x.t (lane x.t vb i)) (c (valueOf x.t (lane x.t vc i)))) s

def execVfma (x : VTri) (s : State) : Res := vfused x id s
def execVfms (x : VTri) (s : State) : Res := vfused x FV.negate s
def execVmin (x : VBin) (s : State) : Res := vbin x x.t (latIF x.t 1) (fun _ => minMaxElem x.t false) s
def execVmax (x : VBin) (s : State) : Res := vbin x x.t (latIF x.t 1) (fun _ => minMaxElem x.t true) s
def execVabs (x : VUn) (s : State) : Res := vun x 1 (fun _ => absElem x.t x.sat) s
def execVneg (x : VUn) (s : State) : Res := vun x 1 (fun _ => negElem x.t x.sat) s
def execVand (x : VBin) (s : State) : Res := vbin x x.t 1 (fun _ a b => (a &&& b, 0)) s
def execVor (x : VBin) (s : State) : Res := vbin x x.t 1 (fun _ a b => (a ||| b, 0)) s
def execVxor (x : VBin) (s : State) : Res := vbin x x.t 1 (fun _ a b => (a ^^^ b, 0)) s
/-- VSHL, VSHR and VSAR (R208): the count is read as nW. -/
def execVshl (x : VBin) (s : State) : Res := vbin x x.t.unsignedOf 1 (fun _ a b => shlInt x.t x.sat (rdInt x.t a) b) s
def execVshr (x : VBin) (s : State) : Res := vbin x x.t.unsignedOf 1 (fun _ a b => (shrInt x.t a b, 0)) s
def execVsar (x : VBin) (s : State) : Res := vbin x x.t.unsignedOf 1 (fun _ a b => (sarInt x.t a b, 0)) s
def execVpcnt (x : VUn) (s : State) : Res := vun x 2 (fun _ a => (popNat x.t.width a, 0)) s

/-! ### Compare, select and move (R209 to R211) -/

/-- A condition of R209 on two elements of type t. -/
def vcondHolds (c : VCond) (t : ElemType) (a b : Nat) : Bool :=
  let x := valueOf t a
  let y := valueOf t b
  let nan := x.isNan || y.isNan
  match c with
  | .eq => fEq x y
  | .ne => !fEq x y
  | .lt => fLt false x y
  | .le => !nan && !fLt false y x
  | .gt => fLt false y x
  | .ge => !nan && !fLt false x y
  | .tst => a &&& b != 0
  | .ntst => a &&& b == 0
  | .un => nan
  | .ord => !nan

/-- VCMP (R209): the byte bits of the active elements whose condition holds. -/
def execVcmp (x : VCmpW) (s : State) : Res :=
  vslot (fun s => withV s x.t x.a fun s a => withV s x.t x.b fun s b =>
    let m := s.active x.pr
    let on := (rangeFrom 0 x.t.lanes).map fun i => laneOn x.t m i && vcondHolds x.c x.t (lane x.t a i) (lane x.t b i)
    let ones := 2 ^ (x.t.width / 8) - 1
    putP s x.d 2 (.ofNat 256 (on.foldr (fun c acc => (if c then ones else 0) + 2 ^ (x.t.width / 8) * acc) 0)) 0) s

/-- VSEL (R210). -/
def execVsel (x : VSelW) (s : State) : Res :=
  vslot (fun s => withV s x.t x.a fun s a => withV s x.t x.b fun s b =>
    let m := s.active (.on x.neg x.p)
    vputAll s x.d 1 x.t fun i => (if laneOn x.t m i then lane x.t a i else lane x.t b i, 0)) s

def execVmov (x : VUn) (s : State) : Res := vun x 1 (fun _ a => (a, 0)) s

/-- VBCAST (R210). -/
def execVbcast (x : VBcastW) (s : State) : Res :=
  vslot (fun s => withG s x.t x.a fun a => vput s x.d 2 x.t x.pr fun _ => (a.toNat % 2 ^ x.t.width, 0)) s

/-- VEXT (R211). -/
def execVext (x : VExtW) (s : State) : Res :=
  vslot (fun s => withV s x.t x.a fun s a => withG s .n64 x.b fun i =>
    putG s x.d 2 (if i.toNat < x.t.lanes then ext64 x.t (lane x.t a i.toNat) else 0) 0) s

/-- VINS (R211). -/
def execVins (x : VInsW) (s : State) : Res :=
  vslot (fun s => withV s x.t x.a fun s a => withG s .n64 x.b fun i => withG s x.t x.c fun v =>
    vputAll s x.d 2 x.t fun j => (if j = i.toNat then v.toNat % 2 ^ x.t.width else lane x.t a j, 0)) s

/-! ### Conversions (R212, R213) -/

/-- Types into which SR may round (R44). -/
def srType : ElemType → Bool
  | .bf16 | .f16 | .f8e4 | .f8e5 | .dx8 | .dx4 => true
  | _ => false

/-- VCVT (R212). -/
def execVcvt (x : VCvtW) (s : State) : Res :=
  vslot (fun s => withV s x.s x.a fun s a =>
    let m := s.mode (srType x.t) x.rm
    if x.t.width < x.s.width then
      withV s x.t (x.c.getD (.const 0)) fun s c =>
        let base := x.part.toNat * x.s.lanes
        withDraws s m x.s.lanes fun s r => vput s x.d 4 x.t x.pr fun j =>
          if base ≤ j ∧ j < base + x.s.lanes then convert x.t x.s m x.sat (r (j - base)) (lane x.s a (j - base))
          else (lane x.t c j, 0)
    else
      withDraws s m x.t.lanes fun s r => vput s x.d 4 x.t x.pr fun j =>
        convert x.t x.s m x.sat (r j) (lane x.s a (x.part.toNat * x.t.lanes + j))) s

/-- VRINT of one element (R213). -/
def rintElem (t : ElemType) (m : RMode) (a : Nat) : Nat × Flags :=
  let f := fmtOf t
  match f.decode a with
  | .nan => (f.nanBits, 0)
  | .inf _ => (a, 0)
  | .fin n k e =>
    let r := roundToInt m n k e
    ((roundFin f .rne false 0 n r.1.natAbs 0).1, flagIf r.2 fNX)

def execVrint (x : VUn) (s : State) : Res := vun x 4 (rintElem x.t) s

/-! ### Dot products (R214, R215) -/

/-- The accumulator type and group size of VDOT (R214). -/
def dotType (t : ElemType) : ElemType × Nat :=
  match t with
  | .i8 => (.i32, 4)
  | .n8 => (.n32, 4)
  | .i16 => (.i32, 2)
  | .f8e4 | .f8e5 => (.f32, 4)
  | _ => (.f32, 2)

/-- One VDOT element: the accumulator c and the paired source elements (R214). -/
def dotElem (t : ElemType) (sat : Bool) (m : RMode) (c : Nat) (l : List (Nat × Nat)) : Nat × Flags :=
  let ta := (dotType t).1
  if isFloat t then
    let ps := l.map fun p => (mulFV (valueOf t p.1) (valueOf t p.2)).1
    if ps.any FV.isNan then ((fmtOf .f32).nanBits, fNV)
    else
      let v := sumFV m (valueOf .f32 c :: ps)
      let r := roundFV (fmtOf .f32) m sat 0 v.1
      (r.1, r.2 ||| flagIf v.2 fNV)
  else intResult ta sat (l.foldl (fun z p => z + rdInt t p.1 * rdInt t p.2) (rdInt ta c))

def execVdot (x : VTri) (s : State) : Res :=
  vslot (fun s => withV s x.t x.a fun s a => withV s x.t x.b fun s b =>
    let ta := (dotType x.t).1
    let g := (dotType x.t).2
    withV s ta x.c fun s c =>
      let m := s.mode false x.rm
      vput s x.d 6 ta x.pr fun i =>
        dotElem x.t x.sat m (lane ta c i) ((rangeFrom (g * i) g).map fun k => (lane x.t a k, lane x.t b k))) s

/-- The carry-less product of x and the low n bits of y (R215). -/
def clmulNat (x y : Nat) : Nat → Nat
  | 0 => 0
  | n + 1 => (if y.testBit n then x * 2 ^ n else 0) ^^^ clmulNat x y n

/-- VCLMUL (R215). -/
def execVclmul (x : VClmulW) (s : State) : Res :=
  vslot (fun s => withV s .n64 x.a fun s a => withV s .n64 x.b fun s b =>
    vput s x.d 4 .n64 x.pr fun i =>
      let p := clmulNat (lane .n64 a i) (lane .n64 b i) 64
      (if x.hi then p / 2 ^ 64 else p % 2 ^ 64, 0)) s

/-! ### Special functions (R216, R217) -/

def execVrcp (x : VUn) (s : State) : Res := vun x 8 (fun _ => specialFn .rcp x.t x.sat) s
def execVrsq (x : VUn) (s : State) : Res := vun x 8 (fun _ => specialFn .rsq x.t false) s
def execVexp2 (x : VUn) (s : State) : Res := vun x 10 (fun _ => specialFn .exp2 x.t x.sat) s
def execVlog2 (x : VUn) (s : State) : Res := vun x 10 (fun _ => specialFn .log2 x.t false) s
def execVtanh (x : VUn) (s : State) : Res := vun x 12 (fun _ => specialFn .tanh x.t false) s
def execVsigm (x : VUn) (s : State) : Res := vun x 12 (fun _ => specialFn .sigm x.t false) s

/-! ### Reductions and scans (R54, R55, R218, R219) -/

/-- The identity of a reduction (R54). -/
def redIdentity (op : RedOp) (t : ElemType) : Nat :=
  let f := fmtOf t
  if isFloat t then match op with
    | .add => f.signBit true
    | .max => if f.inf then f.infBits true else f.signBit true + f.maxBits
    | .min => if f.inf then f.infBits false else f.maxBits
  else match op with
    | .add => 0
    | .max => wrapInt t (minInt t)
    | .min => wrapInt t (maxInt t)

/-- One operation of a reduction (R218). -/
def redElem (op : RedOp) (t : ElemType) (sat : Bool) (m : RMode) (a b : Nat) : Nat × Flags :=
  match op with
  | .add => addElem t sat m a b
  | .max => minMaxElem t true a b
  | .min => minMaxElem t false a b

/-- One level of the pairwise tree (R54). -/
def pairUp (f : Nat → Nat → Nat × Flags) : List Nat → List Nat × Flags
  | a :: b :: l =>
    let r := f a b
    let t := pairUp f l
    (r.1 :: t.1, r.2 ||| t.2)
  | l => (l, 0)

/-- The levels above the leaves, the root's first; `n` bounds their number. -/
def treeUp (f : Nat → Nat → Nat × Flags) : Nat → List Nat → List (List Nat) × Flags
  | 0, l => ([l], 0)
  | n + 1, l =>
    if l.length ≤ 1 then ([l], 0)
    else
      let p := pairUp f l
      let r := treeUp f n p.1
      (r.1 ++ [l], p.2 ||| r.2)

/-- The exclusive prefixes of a level's nodes from those of their parents (R55). -/
def scanDown (f : Nat → Nat → Nat × Flags) : List Nat → List Nat → List Nat × Flags
  | e :: es, a :: _ :: l =>
    let r := f a e
    let t := scanDown f es l
    (e :: r.1 :: t.1, r.2 ||| t.2)
  | _, _ => ([], 0)

/-- The leaves of a reduction (R54). -/
def redLeaves (op : RedOp) (t : ElemType) (m : PredBits) (a : Vec) : List Nat :=
  (rangeFrom 0 t.lanes).map fun i => if laneOn t m i then lane t a i else redIdentity op t

/-- VRED (R218). -/
def execVred (x : VRedW) (s : State) : Res :=
  vslot (fun s => withV s x.t x.a fun s a =>
    let f := redElem x.op x.t x.sat (s.mode false x.rm)
    let r := treeUp f 10 (redLeaves x.op x.t (s.active x.pr) a)
    putV s x.d 10 (.allOnes 256) (.ofNat 2048 (((r.1.headD []).headD 0))) r.2) s

/-- VSCAN (R219). -/
def execVscan (x : VScanW) (s : State) : Res :=
  vslot (fun s => withV s x.t x.a fun s a =>
    let f := redElem x.op x.t x.sat (s.mode false x.rm)
    let leaves := redLeaves x.op x.t (s.active x.pr) a
    let up := treeUp f 10 leaves
    let down := (up.1.drop 1).foldl (fun (acc : List Nat × Flags) level =>
      let r := scanDown f acc.1 level
      (r.1, acc.2 ||| r.2)) ([redIdentity x.op x.t], 0)
    let out := if x.inc then (down.1.zip leaves).map fun p => f p.1 p.2 else down.1.map fun v => (v, 0)
    putV s x.d 14 (.allOnes 256) (.ofNat 2048 (fromLanes x.t (out.map (·.1)))) (out.foldl (fun z p => z ||| p.2) (up.2 ||| down.2))) s

/-! ### Compress and expand (R220, R221) -/

/-- VCMPR (R220): the vector entry is reserved first. -/
def execVcmpr (x : VCmprW) (s : State) : Res :=
  vslot (fun s => withV s x.t x.a fun s a =>
    let m := s.active x.pr
    let l := ((rangeFrom 0 x.t.lanes).filter (laneOn x.t m)).map (lane x.t a)
    putG (putV s x.d 6 (.allOnes 256) (.ofNat 2048 (fromLanes x.t l)) 0) x.c 6 (.ofNat 64 l.length) 0) s

/-- The elements of VEXPD: lanes l of va at the active indices, zero elsewhere (R221). -/
def expandLanes : List Bool → List Nat → List Nat
  | [], _ => []
  | false :: bs, l => 0 :: expandLanes bs l
  | true :: bs, l => l.headD 0 :: expandLanes bs (l.drop 1)

def execVexpd (x : VUn) (s : State) : Res :=
  vslot (fun s => withV s x.t x.a fun s a =>
    let ix := rangeFrom 0 x.t.lanes
    let l := expandLanes (ix.map (laneOn x.t (s.active x.pr))) (ix.map (lane x.t a))
    putV s x.d 6 (.allOnes 256) (.ofNat 2048 (fromLanes x.t l)) 0) s

/-! ### Permutes and shuffles (R222, R223) -/

def execVperm (x : VBin) (s : State) : Res :=
  vslot (fun s => withV s x.t x.a fun s a => withV s x.t.unsignedOf x.b fun s b =>
    vput s x.d 4 x.t x.pr fun i =>
      let j := lane x.t b i
      (if j < x.t.lanes then lane x.t a j else 0, 0)) s

/-- Element i of a shuffle (R223). -/
def shufElem (p : ShufPat) (n k : Nat) (a b : Nat → Nat) (i : Nat) : Nat :=
  let h := n / 2
  match p with
  | .ziplo => if i % 2 = 0 then a (i / 2) else b (i / 2)
  | .ziphi => if i % 2 = 0 then a (h + i / 2) else b (h + i / 2)
  | .uzpev => if i < h then a (2 * i) else b (2 * (i - h))
  | .uzpod => if i < h then a (2 * i + 1) else b (2 * (i - h) + 1)
  | .rot => if i + k < n then a (i + k) else b (i + k - n)
  | .rev => a (n - 1 - i)
  | .splat => a k

def execVshuf (x : VShufW) (s : State) : Res :=
  vslot (fun s => withV s x.t x.a fun s a => withV s x.t (x.b.getD (.const 0)) fun s b =>
    vput s x.d 2 x.t x.pr fun i => (shufElem x.pat x.t.lanes x.k.toNat (lane x.t a) (lane x.t b) i, 0)) s

/-! ### Dual-exponent pack and unpack (R224, R225) -/

/-- The values of the 32 elements of source block b (R42 step 1). -/
def dxBlock (t : ElemType) (a : Vec) (b : Nat) : List FV := (rangeFrom (32 * b) 32).map fun i => dxSource t (lane t a i)

/-- VDXP, element form (R224). -/
def execVdxp (x : VDxpW) (s : State) : Res :=
  vslot (fun s => withV s x.s x.a fun s a => withV s x.t x.c fun s c =>
    let dx4 := x.t = .dx4
    let m := s.mode true x.rm
    let n := x.s.lanes
    let base := x.part.toNat * n
    let nv := (rangeFrom 0 (n / 32)).foldl (fun z b => z ||| dxBlockNV (dxBlock x.s a b)) 0
    withDraws s m n fun s r =>
      let scales := (rangeFrom 0 (n / 32)).map fun b => dxScale dx4 (dxBlock x.s a b)
      let v := velems x.t (.allOnes 256) fun j =>
        if base ≤ j ∧ j < base + n then
          dxElem dx4 m (r (j - base)) ((scales.drop ((j - base) / 32)).headD 0) (dxSource x.s (lane x.s a (j - base)))
        else (lane x.t c j, 0)
      putV s x.d 6 (.allOnes 256) v.1 (v.2 ||| nv)) s

/-- VDXP, scale form (R224). -/
def execVdxpScale (x : VDxpW) (s : State) : Res :=
  vslot (fun s => withV s x.s x.a fun s a => withV s .n16 x.c fun s c =>
    let nb := x.s.lanes / 32
    let base := x.part.toNat * nb
    vputAll s x.d 6 .n16 fun j =>
      (if base ≤ j ∧ j < base + nb then dxScale (x.t = .dx4) (dxBlock x.s a (j - base)) else lane .n16 c j, 0)) s

/-- VDXU (R225). -/
def execVdxu (x : VDxuW) (s : State) : Res :=
  vslot (fun s => withV s x.s x.a fun s a => withV s .n16 x.b fun s b =>
    let m := s.mode (srType x.t) x.rm
    withDraws s m x.t.lanes fun s r => vputAll s x.d 4 x.t fun j =>
      let k := x.part.toNat * x.t.lanes + j
      roundFV (fmtOf x.t) m x.sat (r j) (dxVal (x.s = .dx4) (lane x.s a k) (lane .n16 b (k / 32)))) s

end Sys2Proof.Machine
end

