-- ==== Sys2Proof/Machine/Matrix.lean ====
section
/-!
DEFINITION. The M slot (R226 to R248): accumulators, operand tiles, products, plane sets, drains, and the hazard monitor.
-/
namespace Sys2Proof.Machine

/-! ### Accumulators (R226) -/

/-- Address of byte b of row i of accumulator d. -/
def accAddr (d i b : Nat) : Nat := d * 131072 + i * 1024 + b

/-- The 1,024 bytes of row i of accumulator d. -/
def Engine.accRow (x : Engine) (d i : Nat) : List Byte :=
  let a := accAddr d i 0
  mgets (x.acc.filter fun c => a ≤ c.1 && c.1 < a + 1024) a 1024

/-- Replace the 128 rows of accumulator d. -/
def Engine.setAcc (x : Engine) (d : Nat) (rows : List (List Byte)) : Engine :=
  { x with acc := mputs x.acc (accAddr d 0 0) rows.flatten }

/-- The flags of accumulator d (R56). -/
def Engine.flagsOf (x : Engine) (d : Nat) : Flags := tget 0 x.accFlags d

/-- Raise flags of accumulator d; through the f64 pair view, of both (R226). -/
def Engine.accRaise (x : Engine) (d : Nat) (pair : Bool) (f : Flags) : Engine :=
  let x := { x with accFlags := tput 0 x.accFlags d (x.flagsOf d ||| f) }
  if pair then { x with accFlags := tput 0 x.accFlags (d + 1) (x.flagsOf (d + 1) ||| f) } else x

/-- The W-bit elements of type t of a run of bytes. -/
def elemsOf (t : ElemType) (bs : List Byte) : List Nat :=
  if t = .dx4 then bs.flatMap fun b => [b.toNat % 16, b.toNat / 16]
  else (chunks (t.width / 8) bs.length bs).map leNat

/-- The 256 elements of row i in the view of a 32-bit type, or of the f64 pair (R226). -/
def Engine.accElems (x : Engine) (pair : Bool) (d i : Nat) : List Nat :=
  if pair then elemsOf .f64 (x.accRow d i) ++ elemsOf .f64 (x.accRow (d + 1) i) else elemsOf .n32 (x.accRow d i)

/-- Replace every element of accumulator d, or of the pair, by rows of patterns. -/
def Engine.setElems (x : Engine) (pair : Bool) (d : Nat) (rows : List (List Nat)) : Engine :=
  if pair then
    (x.setAcc d (rows.map fun r => (r.take 128).flatMap (leBytes 8))).setAcc (d + 1) (rows.map fun r => (r.drop 128).flatMap (leBytes 8))
  else x.setAcc d (rows.map fun r => r.flatMap (leBytes 4))

/-! ### Operand tiles (R229, R231) -/

/-- R231: the handle, alignment and side-effect checks on `rows` rows of `bytes` bytes at `a`, `stride` apart. -/
def tileFault (h : Handle) (right : Nat) (a : Int) (rows bytes stride : Nat) : Option Nat :=
  match h.check right a bytes with
  | some c => some c
  | none => match h.check right (a + (rows - 1) * stride) bytes with
    | some c => some c
    | none => if a % 64 ≠ 0 ∨ stride % 64 ≠ 0 then some 7 else none

/-- Where a run in scratchpad lies: not in scratchpad of the cluster, a fault that the port will find, or a location. -/
inductive TileAt where
  | wrong | port (cause : Nat) | at_ (l : Nat)
  deriving DecidableEq, Repr

/-- The scratchpad tile at `a` (R231); a missing object and rows beyond the object are found at the port (R74). -/
def State.tileAt (s : State) (h : Handle) (a : Int) (rows bytes stride : Nat) : TileAt :=
  match s.objEnt s.fctx h.oid with
  | none => .port 0x20
  | some x =>
    if x.space.val = 0 ∧ x.clu = cluOf s.focus.eng then
      if a.toNat + (rows - 1) * stride + bytes ≤ x.size then .at_ (locSp x.clu (x.base * 16384 + a.toNat)) else .port 0x22
    else .wrong

/-- The precise checks of a scratchpad tile, in the order of R231. -/
def withTile (s : State) (h : Handle) (right : Nat) (a : Int) (rows bytes stride : Nat) (k : TileAt → State) : State :=
  match tileFault h right a rows bytes stride with
  | some c => s.hTrapped c s.pos h
  | none => match s.tileAt h a rows bytes stride with
    | .wrong => s.hTrapped 0x14 s.pos h
    | t => if right = rW ∧ h.has rS then s.hTrapped 5 s.pos h else k t

/-- Go on with a run's location, or take the fault that the port finds after issue (R175). -/
def atPort (s : State) (h : Handle) (t : TileAt) (k : Nat → State) : State :=
  match t with
  | .at_ l => k l
  | .port c => s.portTrap ⟨c, 0, some h.oid, none, none⟩
  | .wrong => s.hTrapped 0x14 s.pos h

/-- n bytes as the primary stream of core e sees them. -/
def State.primBytes (s : State) (e l n : Nat) : List Byte := s.view e false s.nextId l n
/-- n bytes as the primary stream of the core in focus sees them. -/
def State.tileBytes (s : State) (l n : Nat) : List Byte := s.primBytes s.focus.eng l n

/-- No store of the core or visible write of its cluster is on its way to the n bytes at l, so that an engine may write. -/
def State.clearFor (s : State) (e l n : Nat) : Bool :=
  s.quiet (cluOf e) l n &&
    s.accs.all fun w => !(w.eng == e && !w.sec && w.kind == .store) || !(w.parts.any fun p => p.loc < l + n && l < p.loc + p.n)

/-- The primary stream's loads and atomics of the n bytes at l have their values, so that a later write of its engine may follow (R95). -/
def State.loadsDone (s : State) (e l n : Nat) : Bool :=
  s.accs.all fun w => !(w.eng == e && !w.sec && w.kind.isLoad && w.taken.isNone) || !(w.parts.any fun p => p.loc < l + n && l < p.loc + p.n)

/-- The rows of a tile can be written now. -/
def State.rowsClear (s : State) (l rows bytes stride : Nat) : Bool :=
  s.before.clearFor s.focus.eng l ((rows - 1) * stride + bytes) && s.before.loadsDone s.focus.eng l ((rows - 1) * stride + bytes)

/-! ### Accumulator operations (R232 to R240) -/

/-- Column n of rows. -/
def column (rows : List (List Nat)) (n : Nat) : List Nat := rows.map fun r => r.getD n 0

/-- Runs of n bytes as rows of elements of type t. -/
def rowsOf (t : ElemType) (n : Nat) (bs : List Byte) : List (List Nat) := (chunks n bs.length bs).map (elemsOf t)

/-- K of an MMA in format t (R232). -/
def mmaK (t : ElemType) : Nat :=
  match t with
  | .f16 | .bf16 => 128
  | .f32 => 32
  | .f64 => 8
  | _ => 256

/-- The format of the B tile (R230). -/
def bFormat (t : ElemType) (bx : Bool) : ElemType :=
  match t, bx with
  | .f8e4, true => .f8e5
  | .f8e5, true => .f8e4
  | t, _ => t

/-- A row of A paired with a column of B; a position that a sparse column leaves out contributes a product of zeros (R51). -/
def pairMasked (row : List Nat) (col : List (Option Nat)) : List (Nat × Nat) :=
  (row.zip col).map fun (a, b) => match b with | some v => (a, v) | none => (0, 0)

/-- Update every element of accumulator d by rows of A and columns of B (R234, R51). -/
def Engine.mulInto (x : Engine) (fa fb : ElemType) (d : Nat) (a : List (List Nat)) (cols : List (List (Option Nat))) : Engine :=
  let pair := decide (fa = .f64)
  let out := (a.zip (rangeFrom 0 128)).map fun (row, i) =>
    ((x.accElems pair d i).zip cols).map fun (acc, col) => mmaChain fa fb acc (pairMasked row col)
  let fl := out.foldl (fun z r => r.foldl (fun z p => z ||| p.2) z) 0
  (x.setElems pair d (out.map fun r => r.map (·.1))).accRaise d pair fl

/-- The columns of a dense B tile. -/
def denseCols (rows : List (List Nat)) : List (List (Option Nat)) := (rangeFrom 0 256).map fun n => (column rows n).map some

/-- The first of the masks (group · 256 + column) whose count of set bits is not n. -/
def badMask (n : Nat) : Nat → List Nat → Option Nat
  | _, [] => none
  | i, m :: ms => if popNat 128 m ≠ n then some i else badMask n (i + 1) ms

/-- Expand one column of a group (R233): kept values at the set bits of the mask, nothing elsewhere. -/
def expandMask (mask : Nat) (vals : List Nat) (p : Nat) : Nat → List (Option Nat)
  | 0 => []
  | f + 1 =>
    if mask.testBit p then some (vals.headD 0) :: expandMask mask (vals.drop 1) (p + 1) f
    else none :: expandMask mask vals (p + 1) f

/-- The columns of a sparse B tile with n kept values in each group (R233). -/
def sparseCols (n : Nat) (masks : List Nat) (vals : List (List Nat)) : List (List (Option Nat)) :=
  (rangeFrom 0 256).map fun c =>
    let v := column vals c
    (rangeFrom 0 (256 / n)).flatMap fun q => expandMask (masks.getD (256 * q + c) 0) (v.drop (n * q)) 0 128

/-- One partial-sum plane element (R52): products of the k whose selectors are (xh, yh). -/
def planeSum (dx4 : Bool) (xh yh : Bool) (a b : List Nat) : Int :=
  (a.zip b).foldl (fun z (p, q) =>
    let u := dxFields dx4 p
    let v := dxFields dx4 q
    if u.1 = xh ∧ v.1 = yh then
      let m : Int := (u.2.2 * v.2.2 : Nat)
      if u.2.1 = v.2.1 then z + m else z - m
    else z) 0

/-- The selectors of plane k: hh, hl, lh, ll. -/
def planeSel (k : Nat) : Bool × Bool := (k < 2, k % 2 = 0)

/-- The four planes of a dual-exponent product of 128 rows and 256 columns, where not zero (R237). -/
def planesOf (dx4 : Bool) (rows cols : List (List Nat)) : Tbl Int :=
  (rangeFrom 0 4).flatMap fun k =>
    let sel := planeSel k
    (rows.zip (rangeFrom 0 128)).flatMap fun (r, i) =>
      (cols.zip (rangeFrom 0 256)).filterMap fun (c, n) =>
        let v := planeSum dx4 sel.1 sel.2 r c
        if v = 0 then none else some (32768 * k + 256 * i + n, v)

/-- MSCA's effect on accumulator d (R238). -/
def Engine.fold (x : Engine) (d : Nat) (dx4 : Bool) (va vb vc : Vec) (planes : Tbl Int) : Engine :=
  let out := (rangeFrom 0 128).map fun i =>
    let mine := planes.filter fun p => p.1 / 256 % 128 == i
    ((x.accElems false d i).zip (rangeFrom 0 256)).map fun (acc, n) =>
      mscaElem dx4 (fun k => tget 0 mine (32768 * k + 256 * i + n)) (lane .n16 vc i)
        (if n < 128 then lane .n16 va n else lane .n16 vb (n - 128)) acc
  let fl := out.foldl (fun z r => r.foldl (fun z p => z ||| p.2) z) 0
  (x.setElems false d (out.map fun r => r.map (·.1))).accRaise d false fl

/-- MZERO's effect on accumulator d (R239). -/
def Engine.zeroAcc (x : Engine) (d : Nat) : Engine := { x with acc := mputs x.acc (accAddr d 0 0) (List.replicate 131072 0) }

/-- The operation takes effect on its accumulator. -/
def Engine.accOp (x : Engine) : AccOp → Engine
  | .zero d => x.zeroAcc d.val
  | .fold d dx4 va vb vc planes => x.fold d.val dx4 va vb vc planes

def AccOp.acc : AccOp → Fin 8
  | .zero d => d
  | .fold d _ _ _ _ _ => d

/-- The source type of a drain kind (R240). -/
def drainSrc : DrainKind → ElemType
  | .f32 => .f32
  | .i32 => .i32
  | .f64 => .f64

/-- One converted row: its bytes, its flags and the state of SR after it (R240). -/
def drainRow (x : Engine) (w : MMdrainW) (mode : RMode) (i : Nat) : List Byte × Flags × BitVec 32 :=
  let src := x.accElems (w.kind = .f64) w.d.val i
  let draws := match mode with | .sr => drawsFrom 256 x.rseed | _ => ([], x.rseed)
  let out := (src.zip (rangeFrom 0 256)).map fun (v, n) => convert w.out (drainSrc w.kind) mode w.sat (draws.1.getD n 0) v
  (out.flatMap fun p => leBytes (w.out.width / 8) p.1, out.foldl (fun z p => z ||| p.2) 0, draws.2)

/-- The mode of a drain (R240, R44). -/
def State.drainMode (s : State) (w : MMdrainW) : RMode := s.mode (w.kind = .f32 && srType w.out) w.rm

/-- A converted row leaves its flags in the accumulator and advances the generator (R240). -/
def Engine.drained (x : Engine) (w : MMdrainW) (f : Flags) (seed : BitVec 32) : Engine :=
  { x.accRaise w.d.val (w.kind = .f64) f with rseed := seed }

/-- The flags that a drain ORs into astat (R240). -/
def Engine.drainFlags (x : Engine) (w : MMdrainW) : Flags := x.flagsOf w.d.val

/-! ### The open window (R110, R243, R245) -/

/-- The runs (location, length) that an operation reads, and the bytes of one element of each. -/
def ChanOp.reads : ChanOp → List (Nat × Nat × Nat)
  | .mma w la lb =>
    let k := mmaK w.t
    [(la, 16 * k * w.t.width, w.t.width / 8), (lb, 32 * k * w.t.width, w.t.width / 8)]
  | .mmas _ l _ => [(l, 65536, 1)]
  | .mmdx w la lb => let b := if w.dx4 then 4 else 8; [(la, 512 * b, 1), (lb, 1024 * b, 1)]
  | .mldacc _ l st => (rangeFrom 0 128).map fun i => (l + i * st, 1024, 4)
  | .mstacc _ _ _ => []
  | .mdrain _ _ _ _ => []

/-- The operation reads or changes accumulator d. -/
def ChanOp.touches (d : Fin 8) : ChanOp → Bool
  | .mma w _ _ => w.d == d || (w.t == .f64 && w.d.val + 1 == d.val)
  | .mmas w _ _ => w.d == d || w.a == d
  | .mmdx _ _ _ => false
  | .mldacc a _ _ => a == d
  | .mstacc a _ _ => a == d
  | .mdrain w _ _ _ => w.d == d || (w.kind == .f64 && w.d.val + 1 == d.val)

/-- Rows that the operation writes to scratchpad. -/
def ChanOp.rows : ChanOp → Nat
  | .mstacc _ _ _ => 128
  | .mdrain _ _ _ _ => 128
  | _ => 0

/-- The operand bytes of an operation as the primary stream of core e sees them now. -/
def State.operands (s : State) (e : Nat) (op : ChanOp) : List Byte := op.reads.flatMap fun (l, n, _) => s.primBytes e l n

/-- Of the elements of k bytes that were written inside the window each is read as it was at issue or as it is now, which one being
free (R110). -/
def mixElems (base k : Nat) (old now : List Byte) : List Byte :=
  if old = now then old
  else (((chunks k old.length old).zip (chunks k old.length now)).zipIdx).flatMap fun (p, i) =>
    if (Config.freeWord (base + i)).getLsbD 0 then p.1 else p.2

/-- The operand bytes that an operation reads, run by run. -/
def mixRuns (base : Nat) : List (Nat × Nat × Nat) → List Byte → List Byte → List (List Byte)
  | [], _, _ => []
  | (_, n, k) :: rs, old, now => mixElems base k (old.take n) (now.take n) :: mixRuns (base + n) rs (old.drop n) (now.drop n)

/-- The effect of an operation on the engine, given the bytes of its operand runs (R234 to R239). -/
def Engine.chanOp (x : Engine) (op : ChanOp) (bs : List (List Byte)) : Engine :=
  match op with
  | .mma w _ _ =>
    let k := mmaK w.t
    let fb := bFormat w.t w.bx
    x.mulInto w.t fb w.d.val (rowsOf w.t (k * w.t.width / 8) (bs.getD 0 [])) (denseCols (rowsOf fb (32 * w.t.width) (bs.getD 1 [])))
  | .mmas w _ masks =>
    let n := if w.n64 then 64 else 32
    let a := (rangeFrom 0 128).map fun i => ((x.accRow w.a.val i).take (128 * (256 / n))).map BitVec.toNat
    x.mulInto w.t (bFormat w.t w.bx) w.d.val a (sparseCols n masks (rowsOf .n8 256 (bs.getD 0 [])))
  | .mmdx w _ _ =>
    let t : ElemType := if w.dx4 then .dx4 else .dx8
    let planes := planesOf w.dx4 (rowsOf t (4 * t.width) (bs.getD 0 []))
      ((rangeFrom 0 256).map (column (rowsOf t (32 * t.width) (bs.getD 1 []))))
    let upd (p : PlaneSet) : PlaneSet := { p with planes := planes }
    if w.ps then { x with ps1 := x.ps1.map upd } else { x with ps0 := x.ps0.map upd }
  | .mldacc d _ _ => x.setAcc d.val bs
  | .mstacc _ _ _ => x
  | .mdrain _ _ _ _ => x

/-- The next row of an operation that writes scratchpad (R239, R240). -/
def State.chanRow (s : State) (e : Nat) (j : ChanJob) : State :=
  let i := j.row
  let up (x : Engine) : Engine := { x with chan := some { j with row := i + 1 } }
  match j.op with
  | .mstacc d l st => (s.put (l + i * st) ((s.eng e).accRow d.val i)).modEng e up
  | .mdrain w l st mode =>
    let r := drainRow (s.eng e) w mode i
    (s.put (l + i * st) r.1).modEng e fun x => { (up x).drained w r.2.1 r.2.2 with row := i + 1 }
  | _ => s

/-- The next n rows. -/
def State.chanRows (s : State) (e : Nat) : Nat → State
  | 0 => s
  | n + 1 => match (s.eng e).chan with
    | some j => if j.row < j.op.rows then (s.chanRow e j).chanRows e n else s
    | none => s

/-- The window closes: the operation is done, and what waited for it follows in program order (R245). -/
def State.closeChan (s : State) (e : Nat) (j : ChanJob) : State :=
  let s := s.chanRows e (j.op.rows - j.row)
  let bs := mixRuns s.free j.op.reads j.snap (s.operands e j.op)
  let s := { s with free := s.free + j.snap.length }
  s.modEng e fun x =>
    let x := x.chanOp j.op bs
    let x := match j.op with | .mdrain w _ _ _ => { x with astat := x.astat ||| x.drainFlags w } | _ => x
    { j.after.foldl Engine.accOp x with chan := none }

/-- A window of core e whose last clk has passed closes. -/
def State.closeDue (s : State) (e : Nat) : State :=
  match (s.eng e).chan with
  | some j => if j.close ≤ s.clk.toNat then s.closeChan e j else s
  | none => s

/-- RESULT_COMMIT: the results of a stream that are due commit (R139, R171); in its primary stream an open window that has passed closes,
and another that writes scratchpad writes its next row (R110, R243). -/
def execResultCommit (e : Nat) (sec : Bool) (s : State) : Host.Outcome State Fault Refusal :=
  let s := s.commitDue e sec
  .next (if sec then s
    else match (s.eng e).chan with
      | none => s
      | some j => if j.close ≤ s.clk.toNat then s.closeChan e j else s.chanRows e 1)

/-! ### The hazard monitor (R243 to R246) -/

/-- A matrix-hazard trap. -/
def hazard (s : State) (code : Nat) : State := s.trapped (trapOf 0x15 code)

/-- An operation on the channel: hazard 1, or it occupies the channel for ii clk from its issue (R243). -/
def onChannel (s : State) (ii : Nat) (k : State → State) : State :=
  if s.clk.toNat < s.fe.chanFree then hazard s 1
  else
    let t := k (s.closeDue s.focus.eng)
    match t.slot with
    | .ok => t.modFe fun x => { x with chanFree := s.clk.toNat + ii }
    | _ => t

/-- The window of an operation opens for ii clk: its operands stand as they are now, or as racing writes leave them (R110). -/
def State.openChan (s : State) (ii : Nat) (op : ChanOp) : State :=
  s.modFe fun x => { x with chan := some ⟨op, s.clk.toNat + ii, s.operands s.focus.eng op, 0, []⟩ }

/-- The update of accumulator d, or of its pair, completes after n clk, and not before an earlier one (R242). -/
def State.accBusy (s : State) (d : Nat) (pair : Bool) (n : Nat) : State :=
  s.modFe fun x =>
    let t := s.clk.toNat + n
    let f := tput 0 x.accFree d (max (tget 0 x.accFree d) t)
    { x with accFree := if pair then tput 0 f (d + 1) (max (tget 0 f (d + 1)) t) else f }

/-- An operation of no window takes effect now, or after the open one where that works on its accumulator (R245). -/
def State.accOp (s : State) (op : AccOp) : State :=
  s.modFe fun x => match x.chan with
    | some j =>
      if j.op.touches op.acc || j.after.any fun o => o.acc == op.acc then { x with chan := some { j with after := j.after ++ [op] } }
      else x.accOp op
    | none => x.accOp op

/-- The plane set k of an engine (R227). -/
def Engine.planeSet (x : Engine) (k : Bool) : Option PlaneSet := if k then x.ps1 else x.ps0
def Engine.setPlane (x : Engine) (k : Bool) (p : Option PlaneSet) : Engine := if k then { x with ps1 := p } else { x with ps0 := p }

/-! ### Products (R234 to R238) -/

/-- MMA (R234). -/
def execMma (x : MMmaW) (s : State) : Res :=
  slotP x.pr (fun s => withG s .n64 x.c fun g =>
    let ii := if x.t = .f64 then 128 else 64
    let ha := s.h x.a
    let hb := s.h x.b
    let k := mmaK x.t
    let w := x.t.width
    withTile s ha rR (ha.cur + sfld g 0 32) 128 (k * w / 8) (k * w / 8) fun ta =>
      withTile s hb rR (hb.cur + sfld g 32 32) k (32 * w) (32 * w) fun tb =>
        onChannel s ii fun s => atPort s ha ta fun la => atPort s hb tb fun lb =>
          (s.openChan ii (.mma x la lb)).accBusy x.d.val (x.t = .f64) ii) s

/-- MMAS (R235): the mask plane is checked before accumulator D changes; a bad mask is held for the trap of R236. -/
def execMmas (x : MMmasW) (s : State) : Res :=
  slotP x.pr (fun s => withG s .n64 x.c fun g =>
    let hb := s.h x.b
    let n := if x.n64 then 64 else 32
    let grp := 256 / n
    withTile s hb rR (hb.cur + sfld g 0 32) 1 (65536 + 4096 * grp) 0 fun tb =>
      onChannel s 64 fun s => atPort s hb tb fun l =>
        let masks := (chunks 16 (256 * grp) (s.tileBytes (l + 65536) (4096 * grp))).map leNat
        let s := s.accBusy x.d.val false 64
        match badMask n 0 masks with
        | some i => s.modFe fun e => { e with sparse := some ⟨i / 256, i % 256, s.clk.toNat + 24, s.fs.pc⟩ }
        | none => s.openChan 64 (.mmas x l masks)) s

/-- SPARSE_MASK: the mask check of an MMAS on core e detects its fault (R236). -/
def execSparseMask (e : Nat) (s : State) : Res :=
  .next (match (s.eng e).sparse with
    | none => s
    | some f =>
      let s := s.modEng e fun x => { x with sparse := none }
      match (s.eng e).gang with
      | none => s
      | some g => s.gangTrap g (s.eng e).member false (some e) f.pc (trapOf 0x25 (f.group * 256 + f.col)))

/-- MMDX (R237): the plane set is full from its issue; its planes land when the window closes. -/
def execMmdx (x : MMdxW) (s : State) : Res :=
  slotP x.pr (fun s => withG s .n64 x.c fun g =>
    let ii := if x.dx4 then 4 else 8
    let ha := s.h x.a
    let hb := s.h x.b
    let w := if x.dx4 then 4 else 8
    withTile s ha rR (ha.cur + sfld g 0 32) 1 (512 * w) 0 fun ta =>
      withTile s hb rR (hb.cur + sfld g 32 32) 1 (1024 * w) 0 fun tb =>
        onChannel s ii fun s =>
          if (s.fe.planeSet x.ps).isSome then hazard s 5
          else atPort s ha ta fun la => atPort s hb tb fun lb =>
            (s.modFe fun e => e.setPlane x.ps (some ⟨x.dx4, [], s.clk.toNat + ii, false⟩)).openChan ii (.mmdx x la lb)) s

/-- PLANE_SET_LANDS: the planes of a set land at the end of its MMDX's interval (R237). -/
def execPlaneSetLands (e : Nat) (ps : Bool) (s : State) : Res :=
  .next (match (s.eng e).planeSet ps with
    | none => s
    | some p =>
      if p.landAt ≤ s.clk.toNat then (s.closeDue e).modEng e fun x => x.setPlane ps ((x.planeSet ps).map fun q => { q with landed := true })
      else s)

/-- The lowest hazard code of an MSCA (R246). -/
def mscaHazard (x : MMscaW) (s : State) : Option Nat :=
  let e := s.fe
  if (match e.lastMsca with | some c => decide (s.clk.toNat < c + 4) | none => false) then some 2
  else match e.planeSet x.ps with
    | none => some 3
    | some p => if !p.landed && s.clk.toNat < p.landAt then some 4 else if p.dx4 ≠ x.dx4 then some 7 else none

/-- MSCA (R238): it latches its plane set, which is empty from then on. -/
def execMsca (x : MMscaW) (s : State) : Res :=
  slotP x.pr (fun s => withV s .n16 x.a fun s va => withV s .n16 x.b fun s vb => withV s .n16 x.c fun s vc =>
    match mscaHazard x s with
    | some c => hazard s c
    | none =>
      let s := s.closeDue s.focus.eng
      let planes := match s.fe.planeSet x.ps with | some p => p.planes | none => []
      let s := s.accOp (.fold x.d x.dx4 va vb vc planes)
      (s.modFe fun e => { e.setPlane x.ps none with lastMsca := some s.clk.toNat }).accBusy x.d.val false 4) s

/-! ### Moving accumulators (R239) -/

def execMzero (d : Fin 8) (pr : Pred) (s : State) : Res := slotP pr (fun s => s.accOp (.zero d)) s

/-- The row stride of a one-tile form (R229). -/
def tileStride (g : Word) (packed : Nat) : Nat := if fld g 32 32 = 0 then packed else fld g 32 32

/-- MLDACC (R239). -/
def execMldacc (x : MMoveW) (s : State) : Res :=
  slotP x.pr (fun s => withG s .n64 x.c fun g =>
    let h := s.h x.h
    let st := tileStride g 1024
    withTile s h rR (h.cur + sfld g 0 32) 128 1024 st fun t =>
      onChannel s 128 fun s => atPort s h t fun l => (s.openChan 128 (.mldacc x.d l st)).accBusy x.d.val false 128) s

/-- MSTACC (R239): rows in ascending order. -/
def execMstacc (x : MMoveW) (s : State) : Res :=
  slotP x.pr (fun s => withG s .n64 x.c fun g =>
    let h := s.h x.h
    let st := tileStride g 1024
    withTile s h rW (h.cur + sfld g 0 32) 128 1024 st fun t =>
      onChannel s 128 fun s => atPort s h t fun l =>
        if !s.rowsClear l 128 1024 st then s.stall else s.openChan 128 (.mstacc x.d l st)) s

/-! ### Drains (R240, R241) -/

/-- MDRAIN (R240, R241). -/
def execMdrain (x : MMdrainW) (s : State) : Res :=
  slotP x.pr (fun s => withG s .n64 x.c fun g =>
    let h := s.h x.h
    let row := 32 * x.out.width
    let st := tileStride g row
    let a : Int := h.cur + sfld g 0 32
    let long := match s.objEnt s.fctx h.oid with | some y => decide (y.space.val ≠ 0) | none => false
    let window := match s.objEnt s.fctx h.oid with | some y => decide (y.space.val = 4) | none => false
    let ii := if x.kind = .f64 then 256 else 128
    let begins (s : State) : State := s.modFe fun e => { e with drn := long, dacc := x.d, row := 0 }
    if !long then
      withTile s h rW a 128 row st fun t =>
        onChannel s ii fun s => atPort s h t fun l =>
          if !s.rowsClear l 128 row st then s.stall
          else ((begins s).openChan ii (.mdrain x l st (s.drainMode x))).accBusy x.d.val (x.kind = .f64) ii
    else match tileFault h rW a 128 row st with
      | some c => s.hTrapped c s.pos h
      | none =>
        if window then s.hTrapped 0x14 s.pos h
        else if h.has rS then s.hTrapped 5 s.pos h
        else onChannel s 0 fun s => (begins s).modFe fun e => { e with drain := some ⟨x, a.toNat, st, h, s.fs.pc, false⟩ }) s

/-- Write one row of a long drain to its placed pieces. -/
def State.storePieces (s : State) : List (Nat × Nat) → List Byte → State
  | [], _ => s
  | (l, n) :: ps, bs => (s.store l (bs.take n)).storePieces ps (bs.drop n)

/-- LONG_DRAIN_ROW_PERFORMS: the next row of core e's long drain performs at its destination (R241). -/
def execLongDrainRowPerforms (e : Nat) (s : State) : Res :=
  .next (match (s.eng e).drain, (s.eng e).gang with
    | some d, some g =>
      let x := s.eng e
      let i := x.row
      let c := s.ctxOf e
      let ends (s : State) (x : TrapInfo) : State :=
        (s.modEng e fun y => { y with drain := none, drn := false }).gangTrap g (s.eng e).member false (some e) d.pc x
      let trap (n : Nat) : State := ends s ⟨n, i, some d.hnd.oid, none, none⟩
      match s.objEnt c d.hnd.oid with
      | none => trap 0x20
      | some o =>
        let n := 32 * d.w.out.width
        let a := d.base + i * d.stride
        let ps := (granPieces a n).map fun (q, k) => (if o.size < q + k then Place.bounds else s.place c d.hnd.oid o q, k, q)
        match ps.findSome? fun (p, _) => match p with | .noObject => some 0x20 | .bounds => some 0x22 | _ => none with
        | some f => trap f
        | none => match ps.findSome? fun (p, _) => match p with | .absent y q => some (y, q) | _ => none with
          | some (y, q) =>
            let (t, f) := s.absentReq c d.hnd.oid o.prio y q
            if f then ends t (s.swapTrap c d.hnd.oid y)
            else if x.ps0.isSome || x.ps1.isSome then t
            else t.modEng e fun z => { z with parkReq := true }
          | none =>
            let ls := ps.filterMap fun (p, k, _) => match p with | .at_ l => some (l, k) | _ => none
            if ls.any fun (l, k) => !s.clearFor e l k || !s.loadsDone e l k || s.migBlocked l k then s
            else
              let r := drainRow x d.w (({ s with focus := ⟨e, false⟩ } : State).drainMode d.w) i
              let s := s.sample (cluOf e) 1 false (e % 4) c d.hnd.oid [] (ps.map fun (p, _, q) => (q, match p with | .at_ l => l | _ => 0))
              let s := s.storePieces ls r.1
              s.modEng e fun y =>
                let y := { y.drained d.w r.2.1 r.2.2 with row := i + 1 }
                if i + 1 < 128 then y
                else
                  let y := { y with drain := none, drn := false, astat := y.astat ||| y.drainFlags d.w }
                  if d.resumed then { y with prim := { y.prim with pc := d.pc + 64 } } else y
    | _, _ => s)

/-- MSTAT (R242). -/
def execMstat (d : GDst) (acc : Fin 8) (clr : Bool) (pr : Pred) (s : State) : Res :=
  slotP pr (fun s =>
    let e := s.fe
    if s.clk.toNat < tget 0 e.accFree acc.val then s.stall
    else
      let w := pack [(28, 1, e.ps1.isSome.toNat), (27, 1, e.ps0.isSome.toNat), (24, 3, e.dacc.val), (16, 8, e.row), (8, 1, e.drn.toNat),
        (0, 4, (e.flagsOf acc.val).toNat)]
      let s := if clr then s.modFe fun e => { e with accFlags := tput 0 e.accFlags acc.val 0 } else s
      putG s d 2 w 0) s

end Sys2Proof.Machine
end

