-- ==== Sys2Proof/Machine/Pool.lean ====
section
/-!
DEFINITION. What is free: the fast granules, capacity granules and shared-bank units of a partition that nothing uses
(R68, R69, R296, R371, R404, R425, R426), and the layers of an image (R279).
-/
namespace Sys2Proof.Machine

/-! ### Runs of units -/

/-- Units in a list of runs (first, count). -/
def runTotal (l : List (Nat × Nat)) : Nat := (l.map (·.2)).sum

/-- Unit number k of the runs. -/
def runNth : List (Nat × Nat) → Nat → Option Nat
  | [], _ => none
  | (a, n) :: l, k => if k < n then some (a + k) else runNth l (k - n)

/-- Remove n units from g. -/
def runTake (l : List (Nat × Nat)) (g n : Nat) : List (Nat × Nat) :=
  l.flatMap fun (a, m) =>
    if g + n ≤ a ∨ a + m ≤ g then [(a, m)]
    else (if a < g then [(a, g - a)] else []) ++ (if g + n < a + m then [(g + n, a + m - (g + n))] else [])

/-- The runs hold n units from g. -/
def runHas (l : List (Nat × Nat)) (g n : Nat) : Bool := l.any fun (a, m) => a ≤ g && g + n ≤ a + m

/-- The places at which n units in a row begin, as runs. -/
def runStarts (l : List (Nat × Nat)) (n : Nat) : List (Nat × Nat) :=
  l.filterMap fun (a, m) => if n ≤ m then some (a, m - n + 1) else none

/-- Bytes [a, a + n) in units of u. -/
def toUnits (u : Nat) (r : Nat × Nat) : Nat × Nat := (r.1 / u, (r.1 + r.2 + u - 1) / u - r.1 / u)

/-! ### Layers (R279, R399) -/

/-- Layers of a context's image; a context without an image has none. -/
def State.layers (s : State) (c : Nat) : Nat := if (s.ctx c).img = 0 then 0 else (s.section c 0x30).2 / 16
/-- The first word of layer n's entry. -/
def State.layerEnt (s : State) (c n : Nat) : Word := s.rd64 (s.img c ((s.section c 0x30).1 + 16 * n))
/-- The descriptors of a layer. -/
def State.layerDescs (s : State) (c n : Nat) : List Nat := rangeFrom (fld (s.layerEnt c n) 0 16) (fld (s.layerEnt c n) 16 16)
/-- The objects of a layer, in descriptor order. -/
def State.layerOids (s : State) (c n : Nat) : List Nat := (s.layerDescs c n).map fun d => s.descOid c d
def State.layerPrio (s : State) (c n : Nat) : Nat := fld (s.layerEnt c n) 32 5
/-- Bytes of a layer. -/
def State.layerBytes (s : State) (c n : Nat) : Nat := ((s.layerOids c n).map fun o => match s.objEnt c o with | some x => x.size | none => 0).sum

/-! ### The objects of a context -/

/-- The OIDs that a context's object table, or the runtime's own list, holds. -/
def State.oidsOf (s : State) (c : Nat) : List Nat :=
  if (s.ctx c).otdir.getLsbD 0 then (rangeFrom 0 (2 ^ 20)).filter fun o => (s.objEnt c o).isSome
  else (tkeys (s.ctx c).objs).filter fun o => (s.objEnt c o).isSome

/-- The entries of all objects of a context. -/
def State.objsOf (s : State) (c : Nat) : List (Nat × ObjEnt) :=
  (s.oidsOf c).filterMap fun o => (s.objEnt c o).map fun x => (o, x)

/-- Extents of an object of the fast tier; none where it has another space. -/
def State.extents (s : State) (c oid : Nat) : List Extent :=
  match s.objEnt c oid with
  | some x => if x.space.val = 2 then (s.extsOf c oid x).getD [] else []
  | none => []

/-! ### What the device owns of a partition's fast tier -/

/-- Retired pseudo-channels of a stack, ascending (R425). -/
def State.retired (s : State) (stack : Nat) : List Nat := (rangeFrom 0 64).filter fun k => (tget 0 s.dev.rpcLive stack).getLsbD k

/-- Pages that a stack holds (R69, R425). -/
def State.stackPages (s : State) (stack : Nat) : Nat := 786432 - 12288 * (s.retired stack).length

/-- Fast granules that exist in a partition. -/
def State.granuleExists (s : State) (p g : Nat) : Bool := g / s.stacks < s.stackPages (p * s.stacks + g % s.stacks)

/-- The granules that exist, as runs. -/
def State.fastRuns (s : State) (p : Nat) : List (Nat × Nat) :=
  let ns := s.stacks
  let pages := (rangeFrom 0 ns).map fun k => s.stackPages (p * ns + k)
  let lo := pages.foldl min 786432
  let hi := pages.foldl max 0
  (0, ns * lo) :: (rangeFrom lo (hi - lo)).flatMap fun r =>
    ((rangeFrom 0 ns).filter fun k => s.granuleExists p (r * ns + k)).map fun k => (r * ns + k, 1)

/-- The byte ranges of a partition's fast tier that hold images, object tables, save areas, frames, rings and tables. -/
def State.ownRanges (s : State) (p : Nat) : List (Nat × Nat) :=
  let x := s.part p
  let cs := (tkeys s.ctxs).filter fun c => (s.ctx c).part.val = p
  let ctxR := cs.flatMap fun c =>
    let y := s.ctx c
    let dir := fld y.otdir 13 35 * 8192
    let leaves := (rangeFrom 0 1024).filterMap fun k =>
      let d := s.rd64 (locFast p (dir + 8 * k))
      if d.getLsbD 0 then some (fld d 15 33 * 32768, 32768) else none
    (if y.img ≠ 0 then [((s.imgRange c).1 % 2 ^ 40, (s.imgRange c).2 - (s.imgRange c).1)] else []) ++
      (if y.gsa ≠ 0 then [(fld y.gsa 12 36 * 4096, 4096)] else []) ++ (if y.otdir.getLsbD 0 then (dir, 8192) :: leaves else [])
  let qs := (tkeys s.queues).filter fun q => (s.queue q).part.val = p && (s.queue q).en
  let qR := qs.flatMap fun q =>
    let y := s.queue q
    [(fld y.ring 7 41 * 128, 128 * 2 ^ y.ldep)] ++
      (if y.nbase.getLsbD 63 then [] else [(fld y.nbase 4 44 * 16, 16 * 2 ^ (y.lnent + 4))])
  let clR := ((rangeFrom 0 12).filter fun c => s.cluOn c && (s.clu c).part.val = p).flatMap fun c =>
    let y := s.clu c
    [(fld y.frbase 16 32 * 65536, y.frcnt * 0x110000)] ++
      (if y.hscfg.getLsbD 0 then [(fld y.hsring 5 43 * 32, 32 * 2 ^ (fld y.hsring 0 4 + 6))] else [])
  let ring (base : Word) (lo n log : Nat) : List (Nat × Nat) :=
    if base = 0 then [] else [(fld base lo (48 - lo) * 2 ^ lo, n * 2 ^ (fld base 0 4 + log))]
  ctxR ++ qR ++ clR ++ ring x.orcbase 6 32 4 ++ ring x.orebase 6 32 4 ++ ring x.tqbase 6 64 4 ++ ring x.rhring 4 16 6 ++
    (if x.wincnt = 0 then [] else [(fld x.winbase 5 43 * 32, 32 * x.wincnt)]) ++
    (if x.expcnt = 0 then [] else [(fld x.expbase 5 43 * 32, 32 * x.expcnt)]) ++
    (if p = 0 then ring s.dev.errbase 5 32 6 else [])

/-! ### Free units -/

/-- Free fast granules of a partition: those that exist, that no object holds, that are not retired (R404, R426), that no
MOVE has claimed and that the device does not own. -/
def State.freeFast (s : State) (p : Nat) : List (Nat × Nat) :=
  let x := s.part p
  let held := ((tkeys s.ctxs).filter fun c => (s.ctx c).part.val = p).flatMap fun c =>
    (s.oidsOf c).flatMap fun o => (s.extents c o).filterMap fun e => if e.st.val = 0 then none else some (e.fg, e.ng)
  let claimed := match x.job with | .moveObj _ _ _ ng fg k => [(fg + k, ng - k)] | _ => []
  (held ++ claimed ++ x.gone.map (fun g => (g, 1)) ++ (s.ownRanges p).map (toUnits 65536)).foldl
    (fun l (g, n) => if n = 0 then l else runTake l g n) (s.fastRuns p)

/-- Free capacity granules of a partition (R360, R371). -/
def State.freeCap (s : State) (p : Nat) : List (Nat × Nat) :=
  let n := if s.dev.mode = 0 then 2 ^ 24 else if s.dev.mode = 1 then 2 ^ 23 else 2 ^ 22
  let held := (tkeys s.ctxs).flatMap fun c => (s.objsOf c).flatMap fun (o, x) =>
    if x.space.val = 3 then [toUnits 65536 (x.base, x.size)] else (s.extents c o).map fun e => (e.bg, e.ng)
  held.foldl (fun l (g, k) => if k = 0 then l else runTake l g k) (runTake [(p * n, n)] 0 (2 ^ 20))

/-- Free 256-byte units of shared bank memory, by the banks of a partition (R68, R371). -/
def State.freeSbm (s : State) (p : Nat) : List (Nat × Nat) :=
  let all := if s.dev.mode = 0 then [(0, 2 ^ 18)]
    else
      let k := if s.dev.mode = 1 then 256 else 128
      (rangeFrom 0 512).map fun r => (512 * r + k * p, k)
  let held := (tkeys s.ctxs).flatMap fun c =>
    let y := s.ctx c
    ((s.objsOf c).filterMap fun (_, x) => if x.space.val = 1 then some (toUnits 256 (x.base, x.size)) else none) ++
      [toUnits 256 (fld y.rwbase 3 23 * 8, 8 * fld y.rwbase 36 12)]
  ((toUnits 256 (collLoc - locSbm 0, 2 ^ 18)) :: held).foldl (fun l (g, k) => if k = 0 then l else runTake l g k) all

/-- A free fast granule, which one being a free choice. -/
def State.claim (s : State) (p : Nat) : Option Nat × State :=
  let l := s.freeFast p
  let (w, t) := s.draw
  if runTotal l = 0 then (none, s) else (runNth l (w.toNat % runTotal l), t)

/-- A place for n units in a row among free runs, which one being a free choice. -/
def State.placeRun (s : State) (l : List (Nat × Nat)) (n : Nat) : Option Nat × State :=
  let st := runStarts l n
  let (w, t) := s.draw
  if runTotal st = 0 then (none, s) else (runNth st (w.toNat % runTotal st), t)

end Sys2Proof.Machine
end

