-- ==== Sys2Proof/Machine/Transfer.lean ====
section
/-!
DEFINITION. The X slot as kernels use it (R249 to R265): permutes, bank commands, barriers, the cluster event queue, tokens,
ways, and cache maintenance.
-/
namespace Sys2Proof.Machine

/-! ### Shared operations -/

/-- The physical cluster at index i of the focus context's set (R11, R465). -/
def State.cluIdx (s : State) (i : Nat) : Option Nat := ((cluList (s.ctx s.fctx).clset).drop i).head?

/-- The cluster that a form names: on a sequencer by index, or the cluster-index trap (R465); on a core its own. -/
def withClu (s : State) (a : GSrc) (k : State → Nat → State) : State :=
  if isSeq s.focus.eng then
    withG s .n64 a fun i => match s.cluIdx i.toNat with
      | none => s.trapped (trapOf 0x55 (i.toNat % 65536))
      | some c => k s c
  else k s (cluOf s.focus.eng)

/-- Every access that `mine` selects and that has class cls, and every such FENCE whose mask holds it, is done (R108). -/
def State.orderedBy (s : State) (mine : Access → Bool) (cls : BitVec 4) : Bool :=
  s.accs.all fun a => !mine a ||
    match a.kind with
    | .fence m => !m.getLsbD cls.toNat || releaseOk s.accs a.eng a.sec a.id a.scope m
    | _ => a.cls != cls || (a.kind.isLoad && a.taken.isSome && !a.kind.isAtom)

/-- Work of an engine in class cls that stream (e, sec) started as operation `id` may run (R108). -/
def State.ordered (s : State) (e : Nat) (sec : Bool) (id : Nat) (cls : BitVec 4) : Bool :=
  s.orderedBy (fun a => a.eng == e && a.sec == sec && a.id < id) cls

/-- An operation of the X slot that stays outstanding under a token (R249). -/
def pendOp (s : State) (tok : Fin 8) (kind : PendKind) : State :=
  tokAdd s tok.val 1 fun s =>
    let (id, s) := s.fresh
    { s with pends := s.pends ++ [⟨id, s.focus.eng, s.focus.sec, some tok.val, kind⟩] }

/-- The pending operation `id`. -/
def State.pendOf (s : State) (id : Nat) : Option PendOp := s.pends.find? (·.id == id)

/-- An outstanding operation ends: its token falls (R142). -/
def State.pendDone (s : State) (p : PendOp) : State :=
  ({ s with pends := s.pends.filter (·.id ≠ p.id) } : State).tokDone p.eng p.sec p.tok

/-- Where n bytes at object address a lie in scratchpad of the focus cluster. -/
def State.ownSp (s : State) (h : Handle) (a n : Nat) : TileAt := s.tileAt h a 1 n 0

/-- Go on where a run may lie in scratchpad of the cluster, or take the wrong-space fault at issue (R175). -/
def inScratchpad (s : State) (h : Handle) (a n : Nat) (k : TileAt → State) : State :=
  match s.ownSp h a n with
  | .wrong => s.hTrapped 0x14 s.pos h
  | t => k t

/-! ### Permutes (R251, R252) -/

/-- The order of source dimensions of an order code (R251). -/
def permOrder (code : Nat) : Nat × Nat × Nat :=
  match code with
  | 0 => (0, 1, 2)
  | 1 => (0, 2, 1)
  | 2 => (1, 0, 2)
  | 3 => (1, 2, 0)
  | 4 => (2, 0, 1)
  | _ => (2, 1, 0)

def pick3 (x : Nat × Nat × Nat) (k : Nat) : Nat := match k with | 0 => x.1 | 1 => x.2.1 | _ => x.2.2

/-- The source element of each destination element, in destination order (R251). -/
def permSource (n : Nat × Nat × Nat) (code e : Nat) : Nat :=
  let o := permOrder code
  let m0 := pick3 n o.1
  let m1 := pick3 n o.2.1
  let j0 := e % m0
  let j1 := e / m0 % m1
  let j2 := e / m0 / m1
  let at_ (d : Nat) : Nat := if o.1 = d then j0 else if o.2.1 = d then j1 else j2
  (at_ 2 * n.2.1 + at_ 1) * n.1 + at_ 0

/-- XTRN and XPRM. -/
def permOp (x : XPermW) (order : Nat) (one : Bool) (s : State) : Res :=
  slotP x.pr (fun s => withG s .n64 x.b fun b => withG s .n64 x.c fun c =>
    let wd := 2 ^ x.wc.toNat
    let n : Nat × Nat × Nat := (fld c 0 12 + 1, fld c 16 12 + 1, if one then 1 else fld c 32 12 + 1)
    let total := n.1 * n.2.1 * n.2.2 * wd
    let hs := s.h x.a
    let hd := s.h x.d
    let as : Int := hs.cur + sfld b 0 32
    let ad : Int := hd.cur + sfld b 32 32
    match hs.check rR as total with
    | some f => s.hTrapped f s.pos hs
    | none => match hd.check rW ad total with
      | some f => s.hTrapped f s.pos hd
      | none =>
        if as % 64 ≠ 0 then s.hTrapped 7 s.pos hs
        else if ad % 64 ≠ 0 then s.hTrapped 7 s.pos hd
        else inScratchpad s hs as.toNat total fun ts => inScratchpad s hd ad.toNat total fun td =>
          let overlap := match ts, td with | .at_ ls, .at_ ld => decide (ls < ld + total ∧ ld < ls + total) | _, _ => false
          if 2 ^ 20 < total then s.trapped (trapOf 0x12 0)
          else if overlap then s.trapped (trapOf 0x13 0)
          else if 4 ≤ s.fe.perms.length then s.stall
          else atPort s hs ts fun ls => atPort s hd td fun ld =>
            tokAdd s x.tok.val total fun s =>
              let (id, s) := s.fresh
              let j : PermJob :=
                { id := id, sec := s.focus.sec, wd := wd, src := ls, dst := ld, n := n, order := order, tok := x.tok.val, cls := x.cls,
                  objs := [hs.oid, hd.oid] }
              s.modFe fun e => { e with perms := e.perms ++ [j] }) s

/-- XTRN: the order swap with n2 taken as 1 (R251). -/
def execXtrn (x : XPermW) (s : State) : Res := permOp x 2 true s
def execXprm (x : XPermW) (s : State) : Res := permOp x x.order.val false s

/-- PERMUTE_JOB_LANDS: the oldest permute job of core e runs and lands, and its token falls (R252). -/
def execPermuteJobLands (e : Nat) (s : State) : Res :=
  .next (match (s.eng e).perms with
    | [] => s
    | j :: js =>
      let k := j.n.1 * j.n.2.1 * j.n.2.2
      if !s.ordered e j.sec j.id j.cls || !s.clearFor e j.dst (k * j.wd) then s
      else
        let src := s.cluBytes (cluOf e) j.src (k * j.wd)
        let out := (rangeFrom 0 k).flatMap fun i => (src.drop (permSource j.n j.order i * j.wd)).take j.wd
        let s := s.put j.dst out
        ((s.modEng e fun x => { x with perms := js }).tokSub e j.sec j.tok (k * j.wd)).otSettle)

/-! ### Bank commands (R253 to R257) -/

/-- Commands of a stream in its buffer: those that the path has not started (R143); a parked one has left it. -/
def State.bankCount (s : State) : Nat := (s.banks.filter fun b => b.eng == s.focus.eng && b.sec == s.focus.sec && b.retry == 0).length

/-- Send a checked bank command to its buffer (R143, R254). -/
def sendBank (s : State) (op : BankOp) (x : XBopW) (g : Word) (a : Int) (src : Nat × Nat) (payload : List Byte) (mailbox : Nat)
    (mailOid tok : Option Nat) : State :=
  if 16 ≤ s.bankCount then s.stall
  else
    let (id, s) := s.fresh
    let c : BankCmd :=
      { id := id, eng := s.focus.eng, sec := s.focus.sec, op := op, bt := x.bt, ctx := s.fctx, oid := (s.h x.a).oid, addr := a.toNat,
        src := src, operand := .ofNat 32 (fld g 32 32), payload := payload, mailbox := mailbox, mailOid := mailOid, tok := tok, pc := s.fs.pc,
        retry := 0, retryAt := none }
    ({ s with banks := s.banks ++ [c] } : State).modFs fun y => { y with lags := y.lags ++ [⟨id, y.cycle, .engine⟩] }

/-- The checks of the target (R253): right B, bounds, alignment. -/
def bankTarget (s : State) (x : XBopW) (n align : Nat) (k : State → Word → Int → State) : State :=
  withG s .n64 x.b fun g =>
    let h := s.h x.a
    let a : Int := h.cur + sfld g 0 32
    checked s h (match h.check rB a n with | some c => some c | none => if a % align ≠ 0 then some 7 else none) (k s g a)

/-- ROWZ (R253). -/
def execRowz (x : XBopW) (s : State) : Res :=
  slotP x.pr (fun s => bankTarget s x 1024 1024 fun s g a => sendBank s .rowz x g a (0, 0) [] 0 none none) s

/-- ROWCP and ROWXF: the source row needs right R. -/
def rowOp (op : BankOp) (x : XBopW) (s : State) : Res :=
  slotP x.pr (fun s => bankTarget s x 1024 1024 fun s g a =>
    let h := s.h x.c
    checked s h (match h.check rR h.cur 1024 with | some c => some c | none => if h.cur % 1024 ≠ 0 then some 7 else none) <|
      sendBank s op x g a (h.oid, h.cur) [] 0 none none) s

def execRowcp (x : XBopW) (s : State) : Res := rowOp .rowcp x s
def execRowxf (x : XBopW) (s : State) : Res := rowOp .rowxf x s

/-- The load of a payload at l, as a relaxed load of its class that would issue now (R254). -/
def State.payloadLoad (s : State) (cls : BitVec 4) (l n : Nat) : Access :=
  { s.newAcc s.nextId s.focus.eng s.focus.sec .load with cls := cls, t := .n8, parts := [⟨0, l, n, 0⟩], obj := (s.fctx, 0) }

/-- BADD, BMAX, BMIN and BAXPY: the payload is read in the issue cycle (R254). -/
def aluOp (op : BankOp) (x : XBopW) (s : State) : Res :=
  slotP x.pr (fun s => bankTarget s x 256 256 fun s g a =>
    let h := s.h x.c
    checked s h (match h.check rR h.cur 256 with | some c => some c | none => if h.cur % 64 ≠ 0 then some 7 else none) <|
      inScratchpad s h h.cur 256 fun t => atPort s h t fun l =>
        if !s.before.mayStep .value (s.payloadLoad x.cls l 256) then s.stall
        else sendBank s op x g a (0, 0) (s.view s.focus.eng s.focus.sec s.nextId l 256) 0 none none) s

def execBadd (x : XBopW) (s : State) : Res := aluOp .badd x s
def execBmax (x : XBopW) (s : State) : Res := aluOp .bmax x s
def execBmin (x : XBopW) (s : State) : Res := aluOp .bmin x s
def execBaxpy (x : XBopW) (s : State) : Res := aluOp .baxpy x s

/-- BCNT: a counter target and a mailbox, under a token (R253, R254). -/
def execBcnt (x : XBopW) (s : State) : Res :=
  slotP x.pr (fun s => bankTarget s x 8 8 fun s g a =>
    let h := s.h x.c
    checked s h (match h.check rW h.cur 8 with | some c => some c | none => if h.cur % 8 ≠ 0 then some 7 else none) <|
      inScratchpad s h h.cur 8 fun t => atPort s h t fun l =>
        tokAdd s x.tok.val 1 fun s => sendBank s .bcnt x g a (0, 0) [] l (some h.oid) (some x.tok.val)) s

/-- Stack, bank and subarray of a fast-tier location (R69, R425). -/
def State.bankOf (s : State) (l : Nat) : Nat × Nat × Nat :=
  let p := l / 2 ^ 40
  let fa := l % 2 ^ 40
  let ns := s.stacks
  let pg := fa / 65536
  let j := fa / 1024 % 64
  let stack := p * ns + pg % ns
  let q := pg / ns
  let bk := (q % 16) ^^^ (q / 16 % 16)
  let pc := j ^^^ (q / 16 % 64)
  let dead := s.retired stack
  match dead.findIdx? (· == pc) with
  | none => (stack, 16 * pc + bk, q / 16 / 512)
  | some m =>
    let r := dead.length
    let u := q / 16
    let live := (rangeFrom 0 64).filter fun k => !dead.contains k
    let row := 49152 - 768 * r + u / (64 - r) * r + m
    (stack, 16 * live.getD (u % (64 - r)) 0 + bk, row / 512)

/-- The type of a bank type's elements; dxw is a 32-bit container (R43). -/
def bankElem : BankType → ElemType
  | .f32 => .f32
  | .i32 => .i32
  | .f16 => .f16
  | .bf16 => .bf16
  | .dxw => .n32
  | .n64 => .n64

/-- One element of a bank ALU command (R254). -/
def bankAlu (op : BankOp) (bt : BankType) (a : Nat) (y x : Nat) : Nat × Flags :=
  let t := bankElem bt
  match op with
  | .bmax => minMaxElem t true y x
  | .bmin => minMaxElem t false y x
  | .baxpy => fFma (fmtOf t) .rne false (valueOf .f32 a) (valueOf t x) (valueOf t y)
  | _ => if bt = .dxw then dxwStore (dxwRead y + dxwRead x) else addElem t false .rne y x

/-- The new bytes of a bank ALU target and the command's flags. -/
def bankApply (c : BankCmd) (y : List Byte) : List Byte × Flags :=
  let t := bankElem c.bt
  let r := ((elemsOf t y).zip (elemsOf t c.payload)).map fun (a, b) => bankAlu c.op c.bt c.operand.toNat a b
  (r.flatMap fun p => leBytes (t.width / 8) p.1, r.foldl (fun z p => z ||| p.2) 0)

/-- The gang of core e stops for a trap found after issue in the bundle at pc. -/
def State.engTrap (s : State) (e : Nat) (sec : Bool) (pc : Word) (x : TrapInfo) : State :=
  match (s.eng e).gang with
  | none => s
  | some g => s.gangTrap g (s.eng e).member sec (some e) pc x

/-- A command has left its buffer. -/
def State.bankGone (s : State) (c : BankCmd) : State :=
  ({ s with banks := s.banks.filter (·.id ≠ c.id) } : State).modEng c.eng fun x =>
    x.modStr c.sec fun y => { y with lags := y.lags.filter (·.id ≠ c.id) }

/-- Where a byte of an object lies for a bank command, or the fault of the port: `sbm` says whether shared bank memory is
permitted (R62). -/
def State.bankPlace (s : State) (c oid a n : Nat) (sbm : Bool) : Place × Nat :=
  match s.objEnt c oid with
  | none => (.noObject, 0x20)
  | some x =>
    if x.space.val ≠ 2 ∧ !(sbm ∧ x.space.val = 1) then (.noObject, 0x21)
    else if x.size < a + n then (.bounds, 0x22)
    else (s.place c oid x a, 0x20)

/-- Perform a bank command at its bank: target l, source row ls (R254 to R256). -/
def State.bankPerform (s : State) (c : BankCmd) (l ls : Nat) : State :=
  let done (s : State) (f : Flags) : State :=
    (s.bankGone c).modEng c.eng fun x => x.modStr c.sec fun y => { y with bankStatus := y.bankStatus ||| f }
  match c.op with
  | .rowz => done (s.store l (List.replicate 1024 0)) 0
  | .rowcp | .rowxf => done (s.store l (s.bytes ls 1024)) 0
  | .bcnt =>
    let old := s.rdNat l 8
    let s := s.store l (leBytes 8 ((old + (c.operand.signExtend 64).toNat) % 2 ^ 64))
    ((done (s.put c.mailbox (leBytes 8 old)) 0).tokDone c.eng c.sec c.tok).otSettle
  | _ =>
    let r := bankApply c (s.bytes l 256)
    done (s.store l r.1) r.2

/-- Bytes at a command's target. -/
def BankOp.len : BankOp → Nat
  | .rowz | .rowcp | .rowxf => 1024
  | .bcnt => 8
  | _ => 256

/-- A non-resident target or source of a bank command parks it for yo-yo retry (R255, R420); its entry
has left the buffer, since the path has started it (R143). -/
def State.bankPark (s : State) (c : BankCmd) (oid : Nat) (layer : Option Nat) (g : Nat) : State :=
  let prio := match s.objEnt c.ctx oid with | some x => x.prio | none => 0
  let (t, f) := s.absentReq c.ctx oid prio layer g
  if f then (t.bankGone c).engTrap c.eng c.sec c.pc (s.swapTrap c.ctx oid layer)
  else
    let t : State := { t with banks := t.banks.map fun b => if b.id = c.id then { b with retry := 1, retryAt := some (t.retryAt 1) } else b }
    t.modEng c.eng fun x => x.modStr c.sec fun y => { y with lags := y.lags.filter (·.id ≠ c.id) }

/-- The bank that a command's target lies in (R68, R69); none where the target has no place now. -/
def State.cmdBank (s : State) (c : BankCmd) : Option (Nat × Nat) :=
  match (s.bankPlace c.ctx c.oid c.addr c.op.len (c.op.len ≠ 1024)).1 with
  | .at_ l => if isSbm l then some (2 ^ 20, (l - 2 ^ 48) / 256 % 512) else some ((s.bankOf l).1, (s.bankOf l).2.1)
  | _ => none

/-- An earlier command of the stream goes to the same bank as c, or to one that is not known yet (R113). -/
def State.bankBehind (s : State) (c : BankCmd) : Bool :=
  s.banks.any fun b => b.eng == c.eng && b.sec == c.sec && b.id < c.id && ((s.cmdBank b).isNone || s.cmdBank b == s.cmdBank c)

/-- BANK_COMMAND_PERFORMS: a command performs at its bank, takes a fault of the port or of placement, or parks (R113, R254,
R255). Commands of one stream to one bank perform in issue order. -/
def execBankCommandPerforms (id : Nat) (s : State) : Res :=
  .next (match s.banks.find? (·.id == id) with
    | none => s
    | some c =>
      let n := c.op.len
      let row := n = 1024
      let fenced := s.pends.any fun p => p.eng == c.eng && p.sec == c.sec && p.id < c.id &&
        match p.kind with | .xbfen _ none => true | _ => false
      let trap (f : Nat) (oid : Nat) : State := (s.bankGone c).engTrap c.eng c.sec c.pc ⟨f, 0, some oid, none, none⟩
      if s.bankBehind c || fenced || c.retryAt.isSome then s
      else match s.bankPlace c.ctx c.oid c.addr n (!row) with
        | (.absent y g, _) => s.bankPark c c.oid y g
        | (.at_ l, _) =>
          let src := if c.op = .rowcp ∨ c.op = .rowxf then s.bankPlace c.ctx c.src.1 c.src.2 1024 false else (.at_ l, 0)
          match src with
          | (.absent y g, _) => s.bankPark c c.src.1 y g
          | (.at_ ls, _) =>
            let t := s.bankOf l
            let u := s.bankOf ls
            if (c.op = .rowcp ∧ t ≠ u) ∨ (c.op = .rowxf ∧ t.1 ≠ u.1) then trap 0x23 c.oid
            else if !s.allQuiet l n || !s.allQuiet ls (if row then 1024 else 0) || (c.op = .bcnt && !s.clearFor c.eng c.mailbox 8)
                || s.migBlocked l n then s
            else s.bankPerform c l ls
          | (_, f) => trap f c.src.1
        | (_, f) => trap f c.oid)

/-- XBFEN (R115, R257). -/
def execXbfen (x : XBfenW) (s : State) : Res :=
  slotP x.pr (fun s =>
    let go (range : Option (Nat × Nat × Nat × Nat)) : State :=
      tokAdd s x.tok.val 1 fun s =>
        let (id, s) := s.fresh
        let s := s.reserve 0 (.token id)
        { s with pends := s.pends ++ [⟨id, s.focus.eng, s.focus.sec, some x.tok.val, .xbfen x.d range⟩] }
    match x.a with
    | none => go none
    | some r =>
      let h := s.h r
      if h.tag then go (some (s.fctx, h.oid, h.lowB, h.highB)) else s.hTrapped 4 s.pos h) s

/-- The placed bytes of a named range; none where part of it has no place now, so that everything is taken to meet it. -/
def State.rangeRuns (s : State) (r : Nat × Nat × Nat × Nat) : Option (List (Nat × Nat)) :=
  let (c, oid, lo, hi) := r
  match s.objEnt c oid with
  | none => none
  | some x =>
    if min hi x.size ≤ lo then some []
    else match s.reach c oid lo (min hi x.size - lo) with
      | .runs l => some (l.map fun (q, _, k) => (q, k))
      | _ => none

/-- n bytes at l meet a named range; a range of none is every bank. -/
def rangeMeets (l : Option (List (Nat × Nat))) (a n : Nat) : Bool :=
  match l with
  | none => true
  | some rs => rs.any fun (q, k) => q < a + n && a < q + k

/-- An earlier bank command, store or atomic of the stream to the range of an XBFEN has not reached every agent of the device (R115). -/
def State.fenceOwes (s : State) (p : PendOp) (range : Option (Nat × Nat × Nat × Nat)) : Bool :=
  let rs := range.bind s.rangeRuns
  let own (ctx oid : Nat) : Bool := match range with | some (c, o, _, _) => c == ctx && o == oid | none => true
  (s.banks.any fun b => b.eng == p.eng && b.sec == p.sec && b.id < p.id &&
    match (s.bankPlace b.ctx b.oid b.addr b.op.len (b.op.len ≠ 1024)).1 with
    | .at_ l => rangeMeets rs l b.op.len
    | _ => own b.ctx b.oid || rs.isNone) ||
  s.accs.any fun a => a.eng == p.eng && a.sec == p.sec && a.id < p.id && (a.kind.isStore || (a.kind.isAtom && a.taken.isNone)) &&
    if a.parked then own a.obj.1 a.obj.2 else a.parts.any fun q => rangeMeets rs q.loc q.n

/-- XBFEN_COMPLETE: the stream's earlier commands to the range have performed and its earlier stores and atomics to it are
device-visible; the bank status word is delivered and cleared (R115, R257). -/
def execXbfenComplete (id : Nat) (s : State) : Res :=
  .next (match s.pendOf id with
    | some p => match p.kind with
      | .xbfen d range =>
        if s.fenceOwes p range then s
        else
          let v := ((s.eng p.eng).str p.sec).bankStatus
          let s := s.modEng p.eng fun x =>
            (x.modStr p.sec fun y => { y with bankStatus := 0 }).landVal s.clk.toNat p.sec id .n64 (.g d) 0 (.ofNat 2048 v.toNat) false
          s.pendDone p
      | _ => s
    | none => s)

/-! ### Cluster barrier (R258) -/

/-- Update member m of a gang. -/
def Gang.modMember (g : Gang) (m : Nat) (f : Member → Member) : Gang :=
  { g with members := (g.members.zipIdx).map fun (x, i) => if i = m then f x else x }

/-- The primary stream in focus waits at a barrier. -/
def State.atBarrier (s : State) : Bool :=
  match s.fe.gang.bind s.gangOf with
  | none => false
  | some g => match g.members[s.fe.member]? with | some m => m.barrier.isSome | none => false

/-- The lowest-numbered arrived member with its barrier. -/
def Gang.arrived (g : Gang) : Option (Nat × Nat × Word) :=
  (g.members.zipIdx).findSome? fun (m, i) => match m.barrier with | some (n, pc) => some (i, n, pc) | none => none

/-- The core on which a member runs. -/
def Member.core (m : Member) : Option Nat := match m.st with | .running e => some e | _ => none

/-- The barrier-mismatch trap on gang g, where `other` is the member that ended or named another number (R258). -/
def State.barrierTrap (s : State) (g : Gang) (ended : Bool) (other : Nat) : State :=
  match g.arrived with
  | none => s
  | some (i, n, pc) =>
    let core := (g.members[i]?).bind Member.core
    s.gangTrap g.gk i false core pc (trapOf 0x26 (n + (if ended then 16 else 0) + 32 * other))

/-- XBAR (R258): a release at clu scope; arrivals that name different numbers trap. -/
def execXbar (n : Fin 16) (s : State) : Res :=
  .next (slotRun (fun s =>
    if s.windowOpen then s.stall
    else match s.fe.gang with
      | none => s
      | some gk =>
        let s := s.modGang gk fun g => g.modMember s.fe.member fun m => { m with barrier := some (n.val, s.fs.pc) }
        match s.gangOf gk with
        | none => s
        | some g => match g.arrived with
          | none => s
          | some (_, k, _) =>
            match (g.members.zipIdx).find? fun (m, _) => match m.barrier with | some (j, _) => j ≠ k | none => false with
            | some (_, j) =>
              let t := s.barrierTrap g false j
              { t with slot := s.slot }
            | none => s) s)

/-- What a member did before its arrival at a barrier has reached its cluster (R258). -/
def State.memberReached (s : State) (clu : Nat) (m : Member) : Bool :=
  match m.st with
  | .running e => releaseOk s.accs e false s.nextId .clu 0xFFFF
  | .parked f => releaseOk s.accs (frameKey clu f) false s.nextId .clu 0xFFFF
  | .saved f => releaseOk s.accs (frameKey clu f) false s.nextId .clu 0xFFFF
  | _ => true

/-- BARRIER_COMPLETE: every member of the gang that has not ended has arrived at one barrier and what it did before has reached the
cluster; each leaves (R258). -/
def execBarrierComplete (g : Nat) (s : State) : Res :=
  .next (match s.gangOf g with
    | none => s
    | some x => match x.arrived with
      | none => s
      | some (_, n, _) =>
        if x.members.all fun m => m.st == .ended || ((match m.barrier with | some (k, _) => k == n | none => false) && s.memberReached x.clu m) then
          s.modGang g fun y => { y with members := y.members.map fun m => { m with barrier := none } }
        else s)

/-! ### The cluster event queue (R259 to R261) -/

/-- XEVT (R260): a release at dev scope; a full queue stalls it. The record is written once the accesses of XEVT's own bundle
are covered too. -/
def execXevt (a b : GSrc) (pr : Pred) (s : State) : Res :=
  slotP pr (fun s => withG s .n64 a fun v => withG s .n64 b fun t =>
    let c := cluOf s.focus.eng
    if s.windowOpen || !(s.clu c).evRoom || (s.clu c).evHeld ≠ [] ||
        !releaseOk s.accs s.focus.eng s.focus.sec s.base .dev 0xFFFF then s.stall
    else
      let (id, s) := s.fresh
      ({ s with pends := s.pends ++
          [⟨id, s.focus.eng, s.focus.sec, none, .evt s.fctx c (evRecord v.toNat t.toNat (s.fe.gang.getD 0) 3 0 s.fe.member s.focus.sec)⟩] }
        : State).accSettle) s

/-- XEVP (R261): the oldest matching record, or none. -/
def xevp (x : XEvpW) (wait : Bool) (s : State) : Res :=
  slotP x.pr (fun s => withClu s x.a fun s c =>
    let gtag := if isSeq s.focus.eng then none else some (s.fe.gang.getD 0 % 65536)
    tokAdd s x.tok.val 1 fun s =>
      let (id, s) := s.fresh
      match (s.clu c).events.findIdx? (evMatches x.kinds s.fctx gtag) with
      | some i =>
        let r := ((s.clu c).events.getD i (0, 0)).2
        let s := s.modClu c fun y => { y with events := y.events.eraseIdx i }
        (s.deliver id s.focus.eng s.focus.sec (.h x.d.val) (some x.tok.val) .aq 16 r.toNat).evSettle c
      | none =>
        if wait then
          { s with pends := s.pends ++ [⟨id, s.focus.eng, s.focus.sec, some x.tok.val, .xevp x.d.val x.kinds s.fctx c gtag⟩] }
        else s.deliver id s.focus.eng s.focus.sec (.h x.d.val) (some x.tok.val) .aq 16 0) s

def execXevpPoll (x : XEvpW) (s : State) : Res := xevp x false s
def execXevpWait (x : XEvpW) (s : State) : Res := xevp x true s

/-! ### Tokens and ways (R262, R263) -/

def execXtokSet (tok : Fin 8) (a : GSrc) (pr : Pred) (s : State) : Res :=
  slotP pr (fun s => withG s .n64 a fun v => s.modFs fun x => x.setTok tok.val (v.truncate 32)) s
def execXtokAdd (tok : Fin 8) (a : GSrc) (pr : Pred) (s : State) : Res :=
  slotP pr (fun s => withG s .n64 a fun v => tokAdd s tok.val (v.toNat % 2 ^ 32) id) s

/-- The lend count that new grants may count on: the least of the count in force and those under way (R263). -/
def State.effWays (s : State) (c : Nat) : Nat :=
  s.pends.foldl (fun w p => match p.kind with | .wayLend d n => if d = c then min w n else w | _ => w) (s.clu c).ways

/-- XCWAY (R66, R67, R263). -/
def execXcway (n : Fin 9) (a : GSrc) (tok : Fin 8) (pr : Pred) (s : State) : Res :=
  slotP pr (fun s => withClu s a fun s c =>
    let allowed := isSeq s.focus.eng || match s.fe.gang.bind s.gangOf with | some g => g.wlp | none => false
    if !allowed then s.trapped (trapOf 0x10 0)
    else if (s.clu c).regions.any fun r => 1536 + 16 * n.val < r.first + r.n then s.trapped (trapOf 0x11 0)
    else pendOp s tok (.wayLend c n.val)) s

/-- Zero lent ways j, j + 1, … (k of them), tags included (R66). -/
def State.zeroWays (s : State) (c j : Nat) : Nat → State
  | 0 => s
  | k + 1 => (s.put (locSp c (0x1800000 + j * 0x40000)) (List.replicate 0x40000 0)).zeroWays c (j + 1) k

/-- WAY_LEND_COMPLETE: the new lend count is in force, newly lent ways are zero, and the token falls (R66, R263). -/
def execWayLendComplete (id : Nat) (s : State) : Res :=
  .next (match s.pendOf id with
    | some p => match p.kind with
      | .wayLend c n =>
        if s.pends.any fun q => q.id < id && (match q.kind with | .wayLend d _ => d == c | _ => false) then s
        else
          let w := (s.clu c).ways
          ((s.zeroWays c w (n - w)).modClu c fun x => { x with ways := n }).pendDone p
      | _ => s
    | none => s)

/-! ### Cache maintenance and prefetch (R264, R265) -/

/-- XINV and XWB: no line holds a value that differs for any agent, so both only complete. -/
def cacheOp (x : XRangeW) (s : State) : Res :=
  slotP x.pr (fun s => withG s .i64 x.b fun b => withG s .n64 x.c fun c =>
    let h := s.h x.h
    let f := match h.check rR h.lowB 0 with
      | some 4 => some 4
      | some 5 => some 5
      | _ => if c = 0 then none else if 2 ^ 32 < c.toNat then some 6 else h.check rR (h.cur + b.toInt) c.toNat
    checked s h f <|
      if c = 0 then tokAdd s x.tok.val 1 fun s => s.tokSub s.focus.eng s.focus.sec x.tok.val 1
      else pendOp s x.tok (.cache x.cls s.fctx h.oid (h.cur + b.toInt).toNat (if h.has rN then 0 else c.toNat) none)) s

def execXinv (x : XRangeW) (s : State) : Res := cacheOp x s
def execXwb (x : XRangeW) (s : State) : Res := cacheOp x s

/-- The writes on their way to the fast or capacity tier in the lines of a range that some L2 holds (R264). Only these two tiers have lines;
a page that is not resident has none. -/
def State.dirtyIn (s : State) (c oid a n : Nat) : List Nat :=
  let rs := match s.objEnt c oid with
    | some x => (s.runs c oid x a n (n / 65536 + 2)).filterMap fun ((p, _, k) : Place × Nat × Nat) => match p with
      | .at_ l => if isFast l || isCap l then some (l / 128 * 128, (l + k + 127) / 128 * 128) else none
      | _ => none
    | none => []
  (s.accs.filter fun w => w.vis ≠ 0 && w.parts.any fun p => rs.any fun (b, e) => p.loc < e && b < p.loc + p.n).map (·.id)

/-- CACHE_WRITEBACK_COMPLETE: the form starts after the stream's earlier accesses of its class; once every line of the range that was
dirty then has reached its tier its token falls (R264). -/
def execCacheWritebackComplete (id : Nat) (s : State) : Res :=
  .next (match s.pendOf id with
    | some p => match p.kind with
      | .cache cls c oid a n started =>
        if started.isNone && !s.ordered p.eng p.sec id cls then s
        else
          let ids := started.getD (s.dirtyIn c oid a n)
          if s.accs.any fun w => ids.contains w.id then
            { s with pends := s.pends.map fun q => if q.id = id then { q with kind := .cache cls c oid a n (some ids) } else q }
          else s.pendDone p
      | _ => s
    | none => s)

/-- XPREF (R265): a prefetch changes no value that any access returns. -/
def execXpref (x : XRangeW) (s : State) : Res :=
  slotP x.pr (fun s => withG s .i64 x.b fun _ => withG s .n64 x.c fun _ => s) s

end Sys2Proof.Machine
end

