-- ==== Sys2Proof/Machine/Copy.lean ====
section
/-!
DEFINITION. Copy jobs (R79 to R83, R108, R143, R420, R422): starting a job, landing its rows, its completion record.
-/
namespace Sys2Proof.Machine

/-- The line requests of runs, for sampling (R413). -/
def runLines (l : List (Nat × Nat × Nat)) : List (Nat × Nat) :=
  l.flatMap fun (q, o, k) => (rangeFrom (q / 128) ((q + k - 1) / 128 + 1 - q / 128)).map fun i => (o + (max q (i * 128) - q), max q (i * 128))

/-- Write bytes over placed runs. -/
def State.runStore (s : State) (id : Nat) : List (Nat × Nat × Nat) → List Byte → State
  | [], _ => s
  | (q, _, k) :: l, bs =>
    let s := if isExt q then s.extSend id q (some (bs.take k)) true else s.store q (bs.take k)
    s.runStore id l (bs.drop k)

/-- The runs can be written without breaking the coherence order or a migration (R95, R411). -/
def State.runsClear (s : State) (clu : Nat) (l : List (Nat × Nat × Nat)) : Bool :=
  l.all fun (q, _, k) => isExt q || (s.quiet clu q k && !s.migBlocked q k)

/-! ### Footprints (R83) -/

/-- One side of a job's footprint as object addresses and lengths: the lines that its rows touch, the range from the lowest to the highest
byte, or the whole object. -/
def sideRanges (s : State) (c : Nat) (h : Handle) (stride : Nat) (j : CopyJob) : List (Nat × Nat) :=
  let rows := (rangeFrom 0 (shpRows j.shp)).map fun i => h.cur + i * stride
  match fld j.flg 9 2 with
  | 0 => rows.map fun a => (a / 64 * 64, (a + shpBytes j.shp + 63) / 64 * 64 - a / 64 * 64)
  | 1 => [(h.cur, (shpRows j.shp - 1) * stride + shpBytes j.shp)]
  | _ => [(0, match s.objEnt c h.oid with | some x => x.size | none => 0)]

/-- The located intervals of one side. -/
def State.side (s : State) (c : Nat) (h : Handle) (stride : Nat) (j : CopyJob) : List (Nat × Nat) :=
  match s.objEnt c h.oid with
  | none => []
  | some x => (sideRanges s c h stride j).flatMap fun (a, n) =>
    if x.space.val = 2 then
      (s.runs c h.oid x a (min n (x.size - a)) (n / 65536 + 2)).filterMap fun ((p, _, k) : Place × Nat × Nat) =>
        match p with | .at_ l => some (l, k) | _ => none
    else match s.place c h.oid x a with
      | .at_ l => [(l, n)]
      | _ => []

def meets (l m : List (Nat × Nat)) : Bool := l.any fun (a, n) => m.any fun (b, k) => a < b + k && b < a + n

/-- Context and cluster of a job. -/
def State.jobHome (s : State) (j : CopyJob) : Nat × Nat :=
  match s.gangOf j.gk with | some g => (g.ctx, g.clu) | none => (noCtx, 12)

/-- Jobs j and k overlap (R83): read after write, write after read or write after write; one object on both sides always
meets where a page of it has no place now. -/
def State.jobsMeet (s : State) (j k : CopyJob) : Bool :=
  let c := (s.jobHome j).1
  let d := (s.jobHome k).1
  let js := s.side c j.src (shpS j.shp) j
  let jd := s.side c j.dst (shpD j.shp) j
  let ks := s.side d k.src (shpS k.shp) k
  let kd := s.side d k.dst (shpD k.shp) k
  meets jd ks || meets js kd || meets jd kd ||
    (c == d && (j.dst.oid == k.src.oid || j.src.oid == k.dst.oid || j.dst.oid == k.dst.oid) && [js, jd, ks, kd].any fun l => l.isEmpty)

/-! ### Start (R83, R108, R143) -/

/-- The stream's core, where its member runs. -/
def State.jobCore (s : State) (j : CopyJob) : Option Nat :=
  ((s.gangOf j.gk).bind fun g => g.members[j.member]?).bind Member.core

/-- GO order (R83): by clk, then by core with the primary stream first, then as issued. Between a gang's list and a GO of the same clk
the spec gives no order: list jobs stand with core 0, DESIGN CHOICE, log 95. -/
def CopyJob.goBefore (k j : CopyJob) : Bool :=
  let a := 2 * k.core + k.sec.toNat
  let b := 2 * j.core + j.sec.toNat
  k.clk < j.clk || (k.clk == j.clk && (a < b || (a == b && k.id < j.id)))

/-- The stream's earlier accesses of the job's class and its FENCEs that hold the class are done, wherever its member is now (R108). -/
def State.jobOrdered (s : State) (j : CopyJob) : Bool :=
  j.list || s.orderedBy (fun a => a.task == some (j.gk, j.member) && a.sec == j.sec && a.id < j.id) (.ofNat 4 (fld j.flg 4 4))

/-- Update a job. -/
def State.modJob (s : State) (id : Nat) (f : CopyJob → CopyJob) : State :=
  { s with copies := s.copies.map fun j => if j.id = id then f j else j }

/-- COPY_JOB_START: the oldest job of an engine's buffer starts, in a later clk than its GO, once the engine is free, the job's class is
ordered and every overlapping job before it has completed. -/
def execCopyJobStart (id : Nat) (s : State) : Res :=
  .next (match s.copies.find? (·.id == id) with
    | none => s
    | some j =>
      let clu := (s.jobHome j).2
      let mine := s.copies.filter fun k => k.phys == j.phys && (s.jobHome k).2 == clu
      if j.started || mine.any (fun k => k.started || k.goBefore j) || s.clk.toNat ≤ j.clk || !s.jobOrdered j ||
          s.copies.any (fun k => k.goBefore j && (s.jobHome k).2 == clu && s.jobsMeet j k) then s
      else
        let s := s.modJob id fun k => { k with started := true }
        match s.jobCore j with
        | some e => s.modEng e fun x => x.modStr j.sec fun y => { y with lags := y.lags.filter (·.id ≠ id) }
        | none => s)

/-! ### Rows (R80, R81) -/

/-- A trap that a job raises on its gang; the job ends without its token falling (R21, R420, R422). -/
def State.jobTrap (s : State) (j : CopyJob) (x : TrapInfo) : State :=
  let core := s.jobCore j
  (({ s with copies := s.copies.filter (·.id ≠ j.id) } : State)).gangTrap j.gk j.member j.sec core (if j.list then 0 else j.pc) x

/-- A job meets a non-resident page: it parks for yo-yo retry (R396, R420). -/
def State.jobPark (s : State) (j : CopyJob) (oid prio : Nat) (layer : Option Nat) (g : Nat) : State :=
  let (t, f) := s.absentReq (s.jobHome j).1 oid prio layer g
  if f then t.jobTrap j (s.swapTrap (s.jobHome j).1 oid layer)
  else t.modJob j.id fun k => { k with retry := 1, retryAt := some (t.retryAt 1) }

/-- Object oid of context c is a window, which keeps no tags (R61, R71). -/
def State.windowOid (s : State) (c oid : Nat) : Bool := match s.objEnt c oid with | some x => x.space.val == 4 | none => false

/-- The tagged quanta of placed runs as cluster clu sees them, as row offsets, where the whole quantum lies in the run and its space
keeps tags. -/
def State.runTags (s : State) (clu : Nat) (l : List (Nat × Nat × Nat)) (a : Nat) : List Nat :=
  l.flatMap fun (q, o, k) =>
    if !hasTag q then []
    else
      let first := (q + 15) / 16
      ((rangeFrom first ((q + k) / 16 - first)).filter fun t => s.cluTag clu (16 * t)).map fun t => t * 16 - q + (o - a)

/-- Discharge n bytes of a job on its member's token: on its core, or in the frame's count while it is saved. -/
def State.discharge (s : State) (j : CopyJob) (n : Nat) : State :=
  match s.jobCore j with
  | some e => s.tokSub e j.sec (fld j.flg 0 3) n
  | none => s

/-- A job has landed its last byte: its event record under NTF (R83, R259), and it leaves. -/
def State.jobDone (s : State) (j : CopyJob) : State :=
  let s := { s with copies := s.copies.filter (·.id ≠ j.id) }
  let home := s.jobHome j
  if j.flg.getLsbD 8 then
    s.evPost home.2 home.1 (evRecord (shpRows j.shp * shpBytes j.shp) j.tag.toNat j.gk 1 0 j.member j.sec)
  else s

/-- The row of a job is read in full (R81). -/
def State.rowRead (s : State) (j : CopyJob) (k : List (Nat × Nat × Nat) → List Byte → List Nat → State → State) : State :=
  let home := s.jobHome j
  let a := j.src.cur + j.row * shpS j.shp
  if j.buf ≠ [] then k [] j.buf j.bufTags s
  else match s.reach home.1 j.src.oid a (shpBytes j.shp) with
    | .fault f => s.jobTrap j ⟨f, 0, some j.src.oid, none, none⟩
    | .absent prio y g => s.jobPark j j.src.oid prio y g
    | .runs l => k l (s.runBytes home.2 l) (if j.flg.getLsbD 11 && !s.windowOid home.1 j.src.oid then s.runTags home.2 l a else []) (s.runReads j.id l)

/-- COPY_ROW_LANDS: the next n bytes of a job's row land, up to the end of the 4-byte unit that they reach into (R104), or with n = 0 the
rest of it; the token falls by the bytes that are
still owed, and a job whose last row has landed completes (R80, R81, R422). -/
def execCopyRowLands (id : Nat) (n : Nat) (s : State) : Res :=
  .next (match s.copies.find? (·.id == id) with
    | none => s
    | some j =>
      if !j.started || j.retryAt.isSome then s
      else s.rowRead j fun ls row tags t =>
        let home := s.jobHome j
        let core := (s.jobCore j).getD 0 % 4
        let rest := shpBytes j.shp - j.skip
        let a := j.dst.cur + j.row * shpD j.shp + j.skip
        let m := if n = 0 then rest else min rest (n + (4 - (a + n) % 4) % 4)
        match s.reach home.1 j.dst.oid a m with
        | .fault f => s.jobTrap j ⟨f, 0, some j.dst.oid, none, none⟩
        | .absent prio y g => s.jobPark j j.dst.oid prio y g
        | .runs l =>
          if !s.runsClear home.2 l then s
          else
            let t := if ls = [] then t else t.sample home.2 6 j.sec core home.1 j.src.oid [] (runLines ls)
            let t := t.sample home.2 7 j.sec core home.1 j.dst.oid [] (runLines l)
            let t := if s.exportBars home.1 j.dst.oid true then t.inDrop else t.runStore j.id l ((row.drop j.skip).take m)
            let srcA := j.src.cur + j.row * shpS j.shp
            let done := j.skip + m
            -- quanta that this landing completes keep the source's tag where the addresses are congruent (R81)
            let t := if srcA % 16 = (j.dst.cur + j.row * shpD j.shp) % 16 && !s.windowOid home.1 j.dst.oid then
                { t with tags := (tags.filter fun o => j.skip < o + 16 && o + 16 ≤ done).foldl (fun tg o =>
                    match l.find? fun (_, b, k) => b ≤ a - j.skip + o + 15 && a - j.skip + o + 15 < b + k with
                    | some (q, b, _) =>
                      let e := q + (a - j.skip + o + 15 - b)
                      if hasTag e && !s.guarded e 1 then tagPut tg (e / 16) true else tg
                    | none => tg) t.tags }
              else t
            let owed := done - max j.skip (min done j.resent)
            let t := t.discharge j owed
            if done < shpBytes j.shp then t.modJob id fun k => { k with skip := done, buf := row, bufTags := tags }
            else if j.row + 1 < shpRows j.shp then
              t.modJob id fun k => { k with row := k.row + 1, skip := 0, resent := 0, buf := [], bufTags := [] }
            else t.jobDone j)

end Sys2Proof.Machine
end

