-- ==== Sys2Proof/Machine/Sched.lean ====
section
/-!
DEFINITION. The ready lists of graph contexts and the operator boundaries of sequencers (R26 to R28, R273, R376).
-/
namespace Sys2Proof.Machine

/-- A context goes to the tail of its priority's ready list (R376). -/
def State.makeReady (s : State) (c : Nat) : State :=
  let (n, s) := s.fresh
  s.modCtx c fun x => { x with st := .ready, readyAt := n, awaits := .none }

/-- The ready contexts of a partition. -/
def State.readyOf (s : State) (p : Nat) : List Nat :=
  (tkeys s.ctxs).filter fun c => (s.ctx c).st == .ready && (s.ctx c).part.val == p

/-- a comes before b on the ready lists: higher priority, then the longer wait (R28). -/
def Context.before (a b : Context) : Bool := b.prio < a.prio || (a.prio == b.prio && a.readyAt < b.readyAt)

/-- The longest-waiting context of the highest ready priority (R28). -/
def State.nextReady (s : State) (p : Nat) : Option Nat :=
  (s.readyOf p).foldl (fun acc c => match acc with
    | none => some c
    | some d => if (s.ctx c).before (s.ctx d) then some c else some d) none

/-- Sequencers of a partition, by number. -/
def State.seqsOf (s : State) (p : Nat) : List Nat := (rangeFrom 0 4).filter fun q => (s.seq q).part.val == p

/-- Sequencer q is at an operator boundary (R27). -/
def State.atBoundary (s : State) (q : Nat) : Bool := (s.seq q).routine == .none && (s.seq q).words == [] && (s.seq q).tile == 0

/-- The running sequencer of a partition whose context has the lowest priority; ties to the lower number (R28). -/
def State.lowestSeq (s : State) (p : Nat) : Option Nat :=
  let run := (s.seqsOf p).filter fun q => match (s.seq q).ctx with | some c => (s.ctx c).st == .running | none => false
  run.foldl (fun acc q => match acc with
    | none => some q
    | some r => if (s.ctx ((s.seq q).ctx.getD noCtx)).prio < (s.ctx ((s.seq r).ctx.getD noCtx)).prio then some q else some r) none

/-- The context running on sequencer q must be switched at this boundary (R28, SQCTL.STOP of R362); the boundary falls when a
graph instruction has finished, so none precedes the first (R27). -/
def State.switchDue (s : State) (q : Nat) : Bool :=
  match (s.seq q).ctx with
  | none => false
  | some c =>
    let p := (s.seq q).part.val
    let pr := (s.ctx c).prio
    (s.ctx c).st == .running && s.atBoundary q && !(s.seq q).fresh &&
      ((s.seq q).stop || (s.readyOf p).any fun d => (s.ctx d).prio == pr || (pr < (s.ctx d).prio && s.lowestSeq p == some q))

/-- The sequencer part of an engine that QCTX.keep saves (R276): g registers, scalar queue, loop stack, slack, tokens, CSRs. -/
def Engine.seqState (x : Engine) : Engine :=
  { Engine.reset with
    prim := { Stream.reset with
      g := x.prim.g, sq := x.prim.sq, loops := x.prim.loops, nloops := x.prim.loops, slack := x.prim.slack, nslack := x.prim.slack, toks := x.prim.toks }
    rb := x.rb, astat := x.astat, rmode := x.rmode, rseed := x.rseed, tix := x.tix, tdsc := x.tdsc }

/-- The sequencer writes the context's state to GSA (R376). The spec gives no layout for it, so that the bytes are free values; what it
reads back from there is what the context and its saved engine hold (log 51). -/
def State.writeGsa (s : State) (c : Nat) : State :=
  let x := s.ctx c
  if x.gsa = 0 then s
  else
    ({ s with free := s.free + 512 } : State).store (locFast x.part.val (fld x.gsa 12 36 * 4096))
      ((rangeFrom 0 512).flatMap fun k => leBytes 8 (Config.freeWord (s.free + k)).toNat)

/-- A context leaves sequencer q at an operator boundary; under QCTX.keep the sequencer's state goes with it (R26, R276). A stopping context
leaves it without a save (R376). -/
def State.leaveSeq (s : State) (q : Nat) : State :=
  match (s.seq q).ctx with
  | none => s
  | some c =>
    let e := (s.eng (48 + q)).seqState
    let s := if (s.ctx c).st == .stopping then s else s.writeGsa c
    let s := s.modCtx c fun x => { x with seq := none, saved := if x.keep then some e else none }
    let ids := (s.seq q).coll
    let s := s.modSeq q fun z => { z with ctx := none, routine := .none, words := [], nextBpc := none, tile := 0, coll := [] }
    ((s.collDrop ids).setEng (48 + q) .reset).pauseUpdate c

/-- A sequencer takes a context: RUNNING, with the state saved under QCTX.keep (R276, R376). -/
def State.enterSeq (s : State) (q : Fin 4) (c : Nat) : State :=
  let x := s.ctx c
  let s := s.modCtx c fun x => { x with st := .running, seq := some q, saved := none }
  let s := s.modSeq q.val fun z => { z with ctx := some c, routine := .none, words := [], nextBpc := none, tile := 0, fresh := true }
  (s.setEng (48 + q.val) (x.saved.getD .reset)).pauseUpdate c

/-- The end of a graph instruction: the operator boundary (R27, R274, R407). The PC moves to `next`, the operator step
advances, tix and tdsc read zero, and registers that QCTX does not keep do not carry over (R26, R276). -/
def State.opEnd (s : State) (next : Nat) : State :=
  let q := s.focus.eng - 48
  match (s.seq q).ctx with
  | none => s
  | some c =>
    let keep := (s.ctx c).keep
    let s := s.modCtx c fun x => { x with bpc := next, opstep := x.opstep + 1 }
    let s := s.modSeq q fun z => { z with routine := .none, words := [], nextBpc := none, tile := 0 }
    s.modEng (48 + q) fun x =>
      let y := if keep then { x.seqState with tix := 0, tdsc := 0 } else Engine.reset
      { y with prim := { y.prim with cycle := x.prim.cycle, lastClk := x.prim.lastClk } }

end Sys2Proof.Machine
end

