-- ==== Sys2Proof/Machine/SeqForms.lean ====
section
/-!
DEFINITION. The X forms of the operator sequencers (R267 to R276): descriptors and shapes, regions, GANG and its record
(R386 to R389), the handle scoreboard, bytecode operands, routine ends, HMINT and OTINV.
-/
namespace Sys2Proof.Machine

/-- The sequencer in focus. -/
def State.fq (s : State) : Nat := s.focus.eng - 48

/-! ### Descriptors and shapes (R268) -/

/-- A g result that lands under its token (R177, R267). -/
def deliverG (s : State) (tok : Fin 8) (d : GDst) (v : Word) : State :=
  tokAdd s tok.val 1 fun s =>
    let (id, s) := s.fresh
    (s.reserve 0 (.token id)).deliver id s.focus.eng s.focus.sec (.g d) (some tok.val) .plain 8 v.toNat

/-- A handle result that lands under its token. -/
def deliverH (s : State) (tok : Fin 8) (d : Fin 16) (h : Handle) : State :=
  tokAdd s tok.val 1 fun s =>
    let (id, s) := s.fresh
    s.deliver id s.focus.eng s.focus.sec (.h d.val) (some tok.val) .plain 16 h.bits.toNat h.tag

/-- Descriptor a and word k inside the image, or the descriptor-range trap; a handle needs an even k. -/
def withDesc (s : State) (a : GSrc) (k : Nat) (handle : Bool) (go : State → Nat → State) : State :=
  withG s .n64 a fun d =>
    if handle && k % 2 = 1 then s.trapped ⟨7, s.pos, none, some (d.toNat % 65536), none⟩
    else if s.ndesc s.fctx ≤ d.toNat || 16 ≤ k then s.trapped ⟨0x42, 0, none, some (d.toNat % 65536), none⟩
    else go s d.toNat

def execQdld (d : GDst) (a : GSrc) (k : BitVec 6) (tok : Fin 8) (pr : Pred) (s : State) : Res :=
  slotP pr (fun s => withDesc s a k.toNat false fun s i => deliverG s tok d (s.descWord s.fctx i k.toNat)) s
def execQdldHandle (d : Fin 16) (a : GSrc) (k : BitVec 6) (tok : Fin 8) (pr : Pred) (s : State) : Res :=
  slotP pr (fun s => withDesc s a k.toNat true fun s i => deliverH s tok d (s.rdHandle (s.descLoc s.fctx i k.toNat))) s
def execQdst (a b : GSrc) (k : BitVec 6) (pr : Pred) (s : State) : Res :=
  slotP pr (fun s => withG s .n64 b fun v => withDesc s a k.toNat false fun s i => s.put64 (s.descLoc s.fctx i k.toNat) v) s
def execQdstHandle (a : GSrc) (h : Fin 16) (k : BitVec 6) (pr : Pred) (s : State) : Res :=
  slotP pr (fun s => withDesc s a k.toNat true fun s i => s.putHandle (s.descLoc s.fctx i k.toNat) (s.h h)) s

/-- Shape register zk of a context. -/
def State.z (s : State) (c k : Nat) : Word := tget 0 (s.ctx c).z k
def State.setZ (s : State) (c k : Nat) (v : Word) : State := s.modCtx c fun x => { x with z := tput 0 x.z k v }

def execQdimRd (d : GDst) (z : Fin 64) (pr : Pred) (s : State) : Res := slotP pr (fun s => putG s d 2 (s.z s.fctx z.val) 0) s
/-- QDIM.tiles: ceil(zK / b), and 0 with NV where b is 0. -/
def execQdimTiles (d : GDst) (z : Fin 64) (b : GSrc) (pr : Pred) (s : State) : Res :=
  slotP pr (fun s => withG s .n64 b fun v =>
    let n := (s.z s.fctx z.val).toNat
    if v = 0 then putG s d 2 0 fNV else putG s d 2 (.ofNat 64 ((n + v.toNat - 1) / v.toNat)) 0) s
def execQdimWr (z : Fin 64) (a : GSrc) (pr : Pred) (s : State) : Res :=
  slotP pr (fun s => withG s .n64 a fun v => s.setZ s.fctx z.val v) s

/-! ### Regions (R76, R86, R87, R269, R270) -/

/-- The cluster at an index of the context's set, or the cluster-index trap (R465). -/
def withIdx (s : State) (i : Nat) (k : State → Nat → State) : State :=
  match s.cluIdx i with
  | none => s.trapped (trapOf 0x55 i)
  | some c => k s c

/-- Granules of a cluster that can be granted (R66, R86). -/
def State.granules (s : State) (c : Nat) : Nat := 1536 + 16 * s.effWays c

/-- n granules from g are free. -/
def Cluster.freeRun (x : Cluster) (g n : Nat) : Bool := x.regions.all fun r => r.first + r.n ≤ g || g + n ≤ r.first

/-- The run that starts at the lowest granule among those that fit (R86): a run starts at 0 or where a region ends. -/
def Cluster.findRun (x : Cluster) (n limit : Nat) : Option Nat :=
  ((0 :: x.regions.map fun r => r.first + r.n).filter fun g => g + n ≤ limit && x.freeRun g n).foldl
    (fun acc g => match acc with | none => some g | some h => some (min g h)) none

/-- Granules of a cluster that a context holds. -/
def Cluster.heldBy (x : Cluster) (c : Nat) : Nat := ((x.regions.filter fun r => r.ctx == c).map (·.n)).sum

/-- A granule that another context freed and that has not been zeroed (R87). -/
def Cluster.dirtyFor (x : Cluster) (c g : Nat) : Bool := let f := tget 0 x.freed g; f ≠ 0 && f ≠ c + 1

/-- Granules per cluster that a context may hold: CTXCLU.QUOTA, or the image's where that is 0 (R278, R374). -/
def State.quotaOf (s : State) (c : Nat) : Nat := if (s.ctx c).quota = 0 then s.rdNat (s.img c 0x48) 4 else (s.ctx c).quota

/-- The region-parameter conditions of R269. -/
def ralcBad (s : State) (c clu n : Nat) (b : Word) : Bool :=
  let lb := fld b 24 4
  let kb := fld b 21 3
  let cache := b.getLsbD 20
  fld b 28 36 ≠ 0 || n = 0 || s.granules clu < n || (s.objEnt c (fld b 0 20)).isSome ||
    (if cache then lb < 2 || 12 < lb || 4 < kb || 2 ^ lb * 2 ^ (kb + 12) ≠ n * 16384 || (s.clu clu).cacheB ≠ 0 else lb ≠ 0 || kb ≠ 0)

/-- Grant n granules of a cluster to context c as object oid (R269): the region, and the object of n·16 KiB. -/
def State.grant (s : State) (c clu oid first n : Nat) (b : Word) : State :=
  let cache := b.getLsbD 20
  let s := s.modClu clu fun x =>
    { x with
      regions := x.regions ++ [⟨first, n, c, oid, cache⟩]
      freed := x.freed.filter fun e => e.1 < first || first + n ≤ e.1 || x.dirtyFor c e.1
      cacheK := if cache then fld b 21 3 + 12 else x.cacheK
      cacheB := if cache then 2 ^ fld b 24 4 else x.cacheB
      tagTable := if cache then [] else x.tagTable
      rot := if cache then [] else x.rot }
  s.putObj c oid (some ⟨0, clu, n * 16384, 0xFFFF, 0, false, 0, first, 0⟩)

def execRalc (d : GDst) (a b : GSrc) (clu : Fin 16) (tok : Fin 8) (pr : Pred) (s : State) : Res :=
  slotP pr (fun s => withG s .n64 a fun n => withG s .n64 b fun p => withIdx s clu.val fun s k =>
    let c := s.fctx
    let x := s.clu k
    let oid := fld p 0 20
    if ralcBad s c k n.toNat p then s.trapped ⟨0x4E, 0, some oid, none, none⟩
    else if s.quotaOf c < x.heldBy c + n.toNat then s.trapped (trapOf 0x4D 0)
    else match x.findRun n.toNat (s.granules k) with
      | none => deliverG s tok d (.ofNat 64 (2 ^ 63))
      | some g =>
        let dirty := (rangeFrom g n.toNat).any (x.dirtyFor c)
        let s := s.grant c k oid g n.toNat p
        if dirty then
          tokAdd s tok.val 1 fun s =>
            let (id, s) := s.fresh
            let s := s.reserve 0 (.token id)
            { s with pends := s.pends ++ [⟨id, s.focus.eng, s.focus.sec, some tok.val, .scrub k g n.toNat d (.ofNat 64 g)⟩] }
        else deliverG s tok d (.ofNat 64 g)) s

/-- SCRUB: a granted granule that another context freed is zeroed, tags included; a grant completes with its last (R87). -/
def execScrub (clu granule : Nat) (s : State) : Res :=
  .next (match (s.clu clu).regions.find? fun r => r.first ≤ granule && granule < r.first + r.n with
    | none => s
    | some r =>
      if !(s.clu clu).dirtyFor r.ctx granule then s
      else
        let s := s.put (locSp clu (granule * 16384)) (List.replicate 16384 0)
        let s := s.modClu clu fun x => { x with freed := tput 0 x.freed granule 0 }
        match s.pends.find? fun p => match p.kind with
            | .scrub c g n _ _ => c == clu && g ≤ granule && granule < g + n && !(rangeFrom g n).any ((s.clu clu).dirtyFor r.ctx)
            | _ => false with
        | some p => match p.kind with
          | .scrub _ _ _ d v =>
            ({ s with pends := s.pends.filter (·.id ≠ p.id) } : State).deliver p.id p.eng p.sec (.g d) p.tok .plain 8 v.toNat
          | _ => s
        | none => s)

/-- A gang of the cluster that has not retired names the region (R270). -/
def State.regionNamed (s : State) (c clu oid : Nat) : Bool := s.gangs.any fun g => g.ctx == c && g.clu == clu && g.oids.contains oid

/-- The fills of a cluster's software cache are void: each token falls by the bytes that have not landed (DESIGN CHOICE, log 99). -/
def State.dropFills (s : State) (clu : Nat) : State :=
  let x := s.clu clu
  (x.fills.foldl (fun s f => s.tokSub f.eng f.sec f.tok (2 ^ x.cacheK - f.landed)) s).modClu clu fun y => { y with fills := [] }

/-- Free the region of an object (R76, R87, R270): its granules, its cache entries with the fills under way, its object. -/
def State.freeRegion (s : State) (c clu oid : Nat) : State :=
  match (s.clu clu).regions.find? fun r => r.ctx == c && r.oid == oid with
  | none => s
  | some r =>
    let s := if r.cache then s.dropFills clu else s
    let s := s.modClu clu fun x =>
      { x with
        regions := x.regions.filter fun q => !(q.ctx == c && q.oid == oid)
        freed := (rangeFrom r.first r.n).foldl (fun f g => if tget 0 f g = 0 then tput 0 f g (c + 1) else f) x.freed
        cacheB := if r.cache then 0 else x.cacheB
        tagTable := if r.cache then [] else x.tagTable
        rot := if r.cache then [] else x.rot }
    s.putObj c oid none

/-- RFREs whose region no gang names any more free it, and their tokens fall (R270). -/
def State.rfreSettle (s : State) : State :=
  s.pends.foldl (fun s p => match p.kind with
    | .rfre c clu oid =>
      if s.regionNamed c clu oid then s
      else (({ s with pends := s.pends.filter (·.id ≠ p.id) } : State).freeRegion c clu oid).tokDone p.eng p.sec p.tok
    | _ => s) s

def execRfre (a : GSrc) (clu : Fin 16) (tok : Fin 8) (pr : Pred) (s : State) : Res :=
  slotP pr (fun s => withG s .n64 a fun o => withIdx s clu.val fun s k =>
    let c := s.fctx
    if (s.clu k).regions.any fun r => r.ctx == c && r.oid == o.toNat then (pendOp s tok (.rfre c k o.toNat)).rfreSettle
    else s.trapped ⟨0x4E, 0, some (o.toNat % 2 ^ 20), none, none⟩) s

/-! ### GANG (R16, R25, R271, R386 to R389) -/

/-- A GANG record as read: its 32 words, and the tags of its 16 quanta. -/
structure GRec where
  w : List Word
  tags : List Bool

def GRec.word (r : GRec) (k : Nat) : Word := r.w.getD k 0
/-- The handle in quantum q. -/
def GRec.handle (r : GRec) (q : Nat) : Handle := ⟨(r.word (2 * q + 1)).append (r.word (2 * q)), r.tags.getD q false⟩

/-- The record at location l as the stream in focus sees it. -/
def State.readGRec (s : State) (l : Nat) : GRec :=
  let e := s.focus.eng
  { w := (rangeFrom 0 32).map fun k => .ofNat 64 (leNat (s.view e s.focus.sec s.nextId (l + 8 * k) 8))
    tags := (rangeFrom 0 16).map fun q => s.viewTag e s.focus.sec s.nextId (l + 16 * q) }

def GRec.nt (r : GRec) : Nat := fld (r.word 0) 4 3
def GRec.nj (r : GRec) : Nat := fld (r.word 0) 7 4
def GRec.dem (r : GRec) : Nat := fld (r.word 0) 11 3
def GRec.smask (r : GRec) : Nat := fld (r.word 0) 14 4
def GRec.csize (r : GRec) : Nat := fld (r.word 0) 19 7
def GRec.cidx (r : GRec) : Nat := fld (r.word 0) 26 6
def GRec.cnum (r : GRec) : Nat := fld (r.word 0) 32 16
def GRec.present (r : GRec) (k : Nat) : Bool := (r.word 1).getLsbD (56 + k)
def GRec.arg (r : GRec) (k : Nat) : Handle := if r.present k then r.handle (8 + k) else .null
/-- The entry address of an entry-point field (R386). -/
def GRec.entry (r : GRec) (w k : Nat) : Nat := (r.handle 1).cur + 64 * fld (r.word w) (16 * k) 16

/-- The job entry that `k` words of a job list make: the words of R387. -/
def State.readJob (s : State) (l j : Nat) : List Word :=
  (rangeFrom 0 8).map fun k => .ofNat 64 (leNat (s.view s.focus.eng s.focus.sec s.nextId (l + 64 * j + 8 * k) 8))

/-- ENG of a job entry is outside R387. -/
def jobEngBad (dem : Nat) (w : List Word) : Bool :=
  let e := fld (w.getD 4 0) 0 3
  !((e < 4 && e < dem) || (e = 7 && 1 ≤ dem))

/-- The checks of R80 on a job against the argument handles. -/
def jobBad (r : GRec) (w : List Word) : Bool :=
  let src := w.getD 0 0
  let dst := w.getD 1 0
  let shp := w.getD 2 0
  let is := fld src 60 4
  let id := fld dst 60 4
  8 ≤ is || 8 ≤ id || !r.present is || !r.present id || r.nt ≤ fld (w.getD 5 0) 0 2 ||
    (cqHandleCheck (r.arg is) rR (sfld src 0 48) (shpS shp) shp).isSome ||
    (cqHandleCheck (r.arg id) rW (sfld dst 0 48) (shpD shp) shp).isSome ||
    (match cqFieldCheck src dst shp (w.getD 3 0) (w.getD 4 0) r.dem false with | some 4 => false | none => false | _ => true)

/-- Bytes that the jobs charge to one token of one member. -/
def jobCharge (jobs : List (List Word)) (member tok : Nat) : Nat :=
  ((jobs.filter fun w => fld (w.getD 5 0) 0 2 == member && fld (w.getD 3 0) 0 3 == tok).map fun w =>
    shpRows (w.getD 2 0) * shpBytes (w.getD 2 0)).sum

/-- The codes of R388 that record number `pos` of a GANG fails, `first` being its record 0. A cohort record whose TGT lies outside the
context's clusters takes code 4 here, before the unschedulable-cohort trap whose sum R25 would take over it: DESIGN CHOICE, log 98. -/
def gangCodes (s : State) (c : Nat) (first r : GRec) (pos : Nat) (jobs : List (List Word)) : List Nat :=
  let code := r.handle 1
  let jl := r.handle 2
  let has (b : Bool) (n : Nat) : List Nat := if b then [n] else []
  let ks := (rangeFrom 0 4).filter fun k => k < r.nt
  let outsideCode (a : Nat) : Bool := (code.check rR a 64).isSome
  has (r.nt = 0 || 4 < r.nt) 1 ++
  has (8 < r.nj || (0 < r.nj && (!jl.tag || !jl.has rR || jl.cur % 64 ≠ 0))) 2 ++
  has (4 < r.dem || jobs.any (jobEngBad r.dem)) 3 ++
  has ((s.cluIdx (fld (r.word 0) 0 4)).isNone) 4 ++
  has (fld (r.word 1) 0 56 ≠ 0 || r.csize = 1 || 64 < r.csize || r.cidx ≠ pos || (0 < pos && (r.cnum ≠ first.cnum || r.csize ≠ first.csize))
    || jobs.any fun w => fld (w.getD 5 0) 2 62 ≠ 0 || w.getD 6 0 ≠ 0 || w.getD 7 0 ≠ 0) 5 ++
  has (!code.tag || !code.has rR || ks.any (fun k => outsideCode (r.entry 6 k) || (r.smask.testBit k && outsideCode (r.entry 7 k))) ||
    (rangeFrom 0 4).any fun k => r.nt ≤ k && r.smask.testBit k) 6 ++
  has ((rangeFrom 0 8).any fun k => r.present k && !(r.handle (8 + k)).tag) 7 ++
  has (jobs.any (jobBad r)) 8 ++
  has ((r.word 0).getLsbD 18 && !(s.ctx c).wlp) 9 ++
  has ((rangeFrom 0 4).any fun m => (rangeFrom 0 8).any fun t => 2 ^ 32 ≤ jobCharge jobs m t) 10

/-- The clusters, by index, where a cohort's tasks or demands do not fit (R25). -/
def cohortMisfit (rs : List GRec) : Option Nat :=
  (rangeFrom 0 16).find? fun i =>
    let mine := rs.filter fun r => fld (r.word 0) 0 4 == i
    4 < (mine.map GRec.nt).sum || 4 < (mine.map GRec.dem).sum

/-- The first tag from `t` upward that no gang of the partition holds; at most n are tried (R271). -/
def State.nextTag (s : State) (p t : Nat) : Nat → Nat
  | 0 => t % 65536
  | n + 1 => if (s.gangOf (p * 65536 + t % 65536)).isSome then s.nextTag p (t + 1) n else t % 65536

/-- The gang that a checked record describes (R386); it is not yet listed. -/
def State.mkGang (s : State) (c gk : Nat) (cohort : Option (Nat × Nat)) (r : GRec) (jobs : List (List Word)) : Gang :=
  let clu := (s.cluIdx (fld (r.word 0) 0 4)).getD 0
  let e := s.fe
  let z := s.seq s.fq
  { gk := gk, ctx := c, clu := clu, st := .issued, trapped := false, arrival := 0, admitted := 0, code := r.handle 1, dem := r.dem,
    engs := [], wlp := (r.word 0).getLsbD 18, cohort := cohort
    members := (rangeFrom 0 r.nt).map fun k =>
      { pep := .ofNat 64 (r.entry 6 k), sep := if r.smask.testBit k then some (.ofNat 64 (r.entry 7 k)) else none, tiles := [], phase := 0,
        st := .waiting, sends := [], lent := 0, drain := none, barrier := none, held := [], claim := none, retry := 0, retryAt := 0 }
    jobs := jobs.map fun w => (w.take 5, fld (w.getD 5 0) 0 2)
    gargs := (rangeFrom 8 8).map r.word, hargs := (rangeFrom 0 8).map r.arg
    oids := (rangeFrom 0 8).filterMap fun k =>
      if !r.present k then none
      else match s.objEnt c (r.arg k).oid with | some x => if x.space.val = 0 ∧ x.clu = clu then some (r.arg k).oid else none | none => none
    tix := e.tix.toNat, bpc := (s.ctx c).bpc, opc := match z.words with | w :: _ => w.toNat / 2 ^ 24 | [] => 0, sq := s.fq,
    lib := [], descs := [], coll := [], deadline := none, waiter := none, ackd := false }

/-- Issue checked records in CIDX order: a tag for each, written into its record; the gang keys in order (R271, R388). -/
def State.issueGangs (s : State) (c : Nat) (cohort : Option (Nat × Nat)) : List (GRec × List (List Word) × Nat) → State × List Nat
  | [] => (s, [])
  | (r, jobs, l) :: rs =>
    let p := (s.ctx c).part.val
    let t := s.nextTag p (s.part p).tagCtr.toNat 65536
    let gk := p * 65536 + t
    let g := s.mkGang c gk cohort r jobs
    let s := (({ s with gangs := s.gangs ++ [g] } : State).modPart p fun x => { x with tagCtr := .ofNat 16 (t + 1) }).store (l + 6) (leBytes 2 t)
    let (s, gks) := s.issueGangs c cohort rs
    (s, gk :: gks)

/-- A record's location, or the stop of its read: shared bank memory or the fast tier, under right R (R271). -/
def withRecord (s : State) (h : Handle) (a : Int) (n : Nat) (k : Nat → State) : State :=
  match h.check rR a n with
  | some f => s.hTrapped f s.pos h
  | none =>
    if a % 64 ≠ 0 then s.hTrapped 7 s.pos h
    else match s.objEnt s.fctx h.oid with
      | none => s.portTrap ⟨0x20, 0, some h.oid, none, none⟩
      | some x =>
        if x.space.val ≠ 1 ∧ x.space.val ≠ 2 then s.portTrap ⟨0x21, 0, some h.oid, none, none⟩
        else if x.size < a.toNat + n then s.portTrap ⟨0x22, 0, some h.oid, none, none⟩
        else match s.place s.fctx h.oid x a.toNat with
          | .at_ l => k l
          | .absent y g => { s with slot := .wait s.fctx h.oid x.prio y g }
          | _ => s.portTrap ⟨0x20, 0, some h.oid, none, none⟩

/-- The job list of a record, one 64-byte entry at a time. -/
def withJobs (s : State) (h : Handle) (n : Nat) (acc : List (List Word)) (k : List (List Word) → State) : Nat → State
  | 0 => k acc.reverse
  | f + 1 => withRecord s h (h.cur + 64 * (n - (f + 1)) : Nat) 64 fun l => withJobs s h n (s.readJob l 0 :: acc) k f

/-- Read records pos … pos + f − 1 of a GANG with their jobs and locations. -/
def withRecords (s : State) (h : Handle) (a : Int) (acc : List (GRec × List (List Word) × Nat))
    (k : List (GRec × List (List Word) × Nat) → State) : Nat → State
  | 0 => k acc.reverse
  | f + 1 => withRecord s h (a + 256 * acc.length) 256 fun l =>
    let r := s.readGRec l
    let jl := r.handle 2
    let n := if r.nj ≤ 8 ∧ jl.tag ∧ jl.has rR ∧ jl.cur % 64 = 0 then r.nj else 0
    withJobs s jl n [] (fun jobs => withRecords s h a ((r, jobs, l) :: acc) k f) n

/-- GANG (R271). -/
def execGang (cls : BitVec 4) (d : GDst) (h : Fin 16) (b : GSrc) (tok : Fin 8) (pr : Pred) (s : State) : Res :=
  slotP pr (fun s => withG s .i64 b fun off =>
    let hd := s.h h
    let a : Int := hd.cur + off.toInt
    let c := s.fctx
    if !releaseOk s.accs s.focus.eng s.focus.sec s.base .dev 0xFFFF then s.stall
    else withRecord s hd a 256 fun l =>
      if !s.before.mayStep .value (s.payloadLoad cls l 256) then s.stall
      else
        let first := s.readGRec l
        let n := if 2 ≤ first.csize ∧ first.csize ≤ 64 ∧ first.cidx = 0 then first.csize else 1
        withRecords s hd a [] (fun rs =>
          let bad := (rs.zipIdx).findSome? fun ((r, jobs, _), i) => (gangCodes s c first r i jobs).head?.map fun n => (n, i)
          match bad with
          | some (n, i) => s.trapped (trapOf 0x51 (n + 64 * i))
          | none => match (if n = 1 then none else cohortMisfit (rs.map (·.1))) with
            | some i => s.trapped (trapOf 0x52 i)
            | none =>
              tokAdd s tok.val 1 fun s =>
                let (id, s) := s.fresh
                let s := s.reserve 0 (.token id)
                let (s, gks) := s.issueGangs c (if n = 1 then none else some (id, n)) rs
                { s with pends := s.pends ++ [⟨id, s.focus.eng, s.focus.sec, some tok.val, .list c gks d⟩] }) n) s

/-- Gangs of a cluster that its front end lists: those that are not resident (R389). -/
def State.listedAt (s : State) (clu : Nat) : Nat :=
  (s.gangs.filter fun g => g.clu == clu && match g.st with | .listed | .pending | .saved => true | _ => false).length

/-- GANG_LISTED: the front ends have room and list the records; the first tag lands in g D and the token falls (R271, R389). -/
def execGangListed (id : Nat) (s : State) : Res :=
  .next (match s.pendOf id with
    | some p => match p.kind with
      | .list _ gks d =>
        let mine := s.gangs.filter fun g => gks.contains g.gk
        if !releaseOk s.accs p.eng p.sec id .dev 0xFFFF then s
        else if (rangeFrom 0 12).any fun c => 64 < s.listedAt c + (mine.filter fun g => g.clu == c).length && mine.any fun g => g.clu == c then s
        else
          let (n, s) := s.fresh
          let s := { s with
            gangs := s.gangs.map fun (g : Gang) =>
              if gks.contains g.gk && g.st == GangSt.issued then { g with st := if g.cohort.isSome then .pending else .listed, arrival := n } else g }
          let v := (gks.headD 0) % 65536
          (s.modEng p.eng fun x => x.landVal s.clk.toNat p.sec id .n64 (.g d) 0 (.ofNat 2048 v) false).pendDone p
      | _ => s
    | none => s)

/-! ### The handle scoreboard (R272) -/

/-- HSCB: an entry for a gang of the partition that has not retired. -/
def hscb (a b : GSrc) (writer : Bool) (pr : Pred) (s : State) : Res :=
  slotP pr (fun s => withG s .n64 a fun o => withG s .n64 b fun t =>
    let c := s.fctx
    let gk := (s.ctx c).part.val * 65536 + t.toNat % 65536
    if (s.gangOf gk).isNone then s
    else if 512 ≤ (s.ctx c).scb.length then s.stall
    else s.modCtx c fun x => { x with scb := x.scb ++ [⟨o.toNat, gk, writer⟩] }) s

def execHscbReader (a b : GSrc) (pr : Pred) (s : State) : Res := hscb a b false pr s
def execHscbWriter (a b : GSrc) (pr : Pred) (s : State) : Res := hscb a b true pr s

def hwait (a : GSrc) (rd : Bool) (tok : Fin 8) (pr : Pred) (s : State) : Res :=
  slotP pr (fun s => withG s .n64 a fun o => pendOp s tok (.hwait rd s.fctx o.toNat)) s

def execHwaitRd (a : GSrc) (tok : Fin 8) (pr : Pred) (s : State) : Res := hwait a true tok pr s
def execHwaitWr (a : GSrc) (tok : Fin 8) (pr : Pred) (s : State) : Res := hwait a false tok pr s

/-- No entry, or no writer entry, for an object remains (R272). -/
def State.scbClear (s : State) (c oid : Nat) (rd : Bool) : Bool := (s.ctx c).scb.all fun e => e.oid != oid || (rd && !e.writer)

/-- HWAIT_COMPLETE (R272). -/
def execHwaitComplete (id : Nat) (s : State) : Res :=
  .next (match s.pendOf id with
    | some p => match p.kind with
      | .hwait rd c oid => if s.scbClear c oid rd then s.pendDone p else s
      | _ => s
    | none => s)

/-! ### Bytecode operands, traps, routine ends (R273, R274, R276) -/

def execBcnx (d : GDst) (k : BitVec 4) (tok : Fin 8) (pr : Pred) (s : State) : Res :=
  slotP pr (fun s => deliverG s tok d (((s.seq s.fq).words.getD k.toNat 0).zeroExtend 64)) s
def execBcnxJmp (a : GSrc) (pr : Pred) (s : State) : Res :=
  slotP pr (fun s => withG s .n64 a fun v => s.modSeq s.fq fun z => { z with nextBpc := some v.toNat }) s

/-- UTRAP (R274). -/
def execUtrap (detail : BitVec 12) (a b c : GSrc) (pr : Pred) (s : State) : Res :=
  slotP pr (fun s => withG s .n64 a fun t => withG s .n64 b fun d => withG s .n64 c fun o =>
    s.trapped ⟨0x53, detail.toNat, some (o.toNat % 2 ^ 20), some (d.toNat % 65536), some (t.toNat % 2 ^ 32)⟩) s

/-- The word index after the current graph instruction, or the BCNX.jmp target (R273). -/
def State.nextPc (s : State) : Nat :=
  let z := s.seq s.fq
  z.nextBpc.getD ((s.ctx s.fctx).bpc + max 1 z.words.length)

/-- What token w held before the bundle that issues: its value less the operations of that bundle, each of which charged 1 (R142). -/
def State.tokBefore (s : State) (w : Nat) : Nat :=
  let mine (e : Nat) (sec : Bool) (id : Nat) (tok : Option Nat) : Bool := e == s.focus.eng && sec == s.focus.sec && s.base ≤ id && tok == some w
  (s.fs.tok w).toNat - ((s.accs.filter fun a => mine a.eng a.sec a.id a.tok).length + (s.pends.filter fun p => mine p.eng p.sec p.id p.tok).length)

/-- A sequencer's engine at the boundary that ends its bundle: results, loop stack, slack and queue stand as after the bundle. -/
def Engine.atBoundary (x : Engine) (now : Nat) : Engine :=
  let y := x.settleNew (now + 1)
  { y with prim := { y.prim with loops := y.prim.nloops, slack := y.prim.nslack, sq := y.prim.sq.take 16, resv := 0 } }

/-- QYLD: the routine ends once every token of the sequencer reads zero as the bundle begins and, without QCTX, its loop stack is empty
(R172, R273); the bundle's results commit at the boundary. -/
def qyld (pr : Pred) (next : State → Nat) (s : State) : Res :=
  slotP pr (fun s =>
    if !((rangeFrom 0 8).all fun k => s.tokBefore k = 0) then s.stall
    else if !(s.ctx s.fctx).keep && s.fs.nloops ≠ [] then s.trapped (trapOf 0x09 0)
    else
      let n := next s
      ((s.commitAll s.focus.eng false).modFe fun y => y.atBoundary s.clk.toNat).opEnd n) s

def execQyldEnd (pr : Pred) (s : State) : Res := qyld pr State.nextPc s
/-- QYLD.repeat: the bytecode address stays (R273). -/
def execQyldRepeat (pr : Pred) (s : State) : Res := qyld pr (fun s => (s.ctx s.fctx).bpc) s

/-- The context in focus gives up its sequencer at the boundary and is listed last at its priority (R28, R273). -/
def State.yieldCtx (s : State) : State :=
  let c := s.fctx
  if c = noCtx || (s.ctx c).st != .running then s
  else (s.leaveSeq s.fq).makeReady c

def execQyldYield (pr : Pred) (s : State) : Res :=
  .next (match qyld pr State.nextPc s with
    | .next t => match t.slot with
      | .ok => if s.enabled pr then t.yieldCtx else t
      | _ => t
    | _ => s)

def execQctxKeep (s : State) : Res := .next (slotRun (fun s => s.modCtx s.fctx fun x => { x with keep := true }) s)
def execQctxDrop (s : State) : Res := .next (slotRun (fun s => s.modCtx s.fctx fun x => { x with keep := false }) s)

/-! ### HMINT and OTINV (R73, R275) -/

/-- R73 with the rights that R62 and R71 keep from an object's space. -/
def State.mintOk (s : State) (c : Nat) (h : Handle) : Bool :=
  match s.objEnt c h.oid with
  | none => false
  | some x =>
    let space := x.space.val
    let peerBar := match s.winEnt c x.base with | some w => w.kind = 1 | none => false
    decide (h.lowB ≤ x.size ∧ h.highB ≤ x.size) && (!h.has rS || h.has rN) && !h.has 0 &&
      !(h.has rB && (space = 3 || space = 4)) && (space ≠ 4 || (h.has rN && !h.has rP && (!peerBar || h.has rS)))

def execHmint (d : Fin 16) (a : Fin 32) (tok : Fin 8) (pr : Pred) (s : State) : Res :=
  slotP pr (fun s =>
    let g (n : Nat) : Word := if n = 0 then 0 else tget 0 s.fs.g n
    let h : Handle := ⟨(g (a.val + 1)).append (g a.val), true⟩
    if s.mintOk s.fctx h then deliverH s tok d h else s.trapped ⟨0x4F, 0, some h.oid, none, none⟩) s

/-- OTINV (R275): the object leaves the table; the token falls when the accesses admitted through it have performed. -/
def execOtinv (a : GSrc) (tok : Fin 8) (pr : Pred) (s : State) : Res :=
  slotP pr (fun s => withG s .n64 a fun o =>
    let c := s.fctx
    (pendOp (s.putObj c (o.toNat % 2 ^ 20) none) tok (.otinv c (o.toNat % 2 ^ 20))).otSettle) s

end Sys2Proof.Machine
end

