-- ==== Sys2Proof/Machine/Gangs.lean ====
section
/-!
DEFINITION. Gangs on a cluster (R13, R17 to R21, R25, R29, R377, R389 to R391): what is free, the order of admission,
admission, the end of tasks, retirement, pre-emption requests; and service calls (R166 to R168).
-/
namespace Sys2Proof.Machine

/-! ### Resources of a cluster (R17, R30) -/

def coresOf (clu : Nat) : List Nat := rangeFrom (4 * clu) 4

/-- Cores that no gang holds. -/
def State.freeCores (s : State) (clu : Nat) : List Nat := if s.cluOn clu then (coresOf clu).filter fun e => (s.eng e).holder.isNone else []

/-- Copy engines that no gang holds. -/
def State.freeEngs (s : State) (clu : Nat) : List Nat :=
  (rangeFrom 0 4).filter fun k => s.gangs.all fun g => g.clu != clu || !g.engs.contains k

/-- Members that need a core: those saved, for a saved gang (R392). -/
def Gang.need (g : Gang) : Nat :=
  if g.st == .saved then (g.members.filter fun m => match m.st with | .saved _ => true | _ => false).length else g.members.length

/-- Every region that the gang names is granted to its context (R17). -/
def State.regionsOk (s : State) (g : Gang) : Bool :=
  g.oids.all fun o => (s.clu g.clu).regions.any fun r => r.ctx == g.ctx && r.oid == o

/-- R17 for gangs that enter one cluster together. -/
def State.fits (s : State) (clu : Nat) (gs : List Gang) : Bool :=
  (gs.map Gang.need).sum ≤ (s.freeCores clu).length && (gs.map (·.dem)).sum ≤ (s.freeEngs clu).length && gs.all s.regionsOk

/-- A gang waits for admission or restore. -/
def Gang.waits (g : Gang) : Bool := match g.st with | .listed | .saved => true | _ => false

/-- The gangs of a gang's cohort; the gang itself where it has none (R24, R29). -/
def State.mates (s : State) (g : Gang) : List Gang :=
  match g.cohort with
  | none => [g]
  | some (id, _) => s.gangs.filter fun h => match h.cohort with | some (k, _) => k == id | none => false

/-- Every cluster has room for its share of the gangs. -/
def State.fitsAll (s : State) (gs : List Gang) : Bool :=
  gs.all fun g => s.fits g.clu (gs.filter fun h => h.clu == g.clu)

/-- The gang's context still runs operators. -/
def State.gangLive (s : State) (g : Gang) : Bool := (s.ctx g.ctx).st.live && !g.trapped

/-! ### Order of admission (R18, R25) -/

/-- g comes before h: higher priority of the context, then earlier arrival. -/
def State.gangBefore (s : State) (g h : Gang) : Bool :=
  let a := (s.ctx g.ctx).prio
  let b := (s.ctx h.ctx).prio
  b < a || (a == b && g.arrival < h.arrival)

/-- Pending cohorts that need a cluster, by their members there. -/
def State.pendingAt (s : State) (clu : Nat) : List Gang := s.gangs.filter fun g => g.clu == clu && g.st == .pending && s.gangLive g

/-- The pending cohort of g may enter: it fits and no older one shares a cluster with it. -/
def State.cohortReady (s : State) (g : Gang) : Bool :=
  let gs := s.mates g
  (gs.all fun h => h.st == .pending && s.gangLive h) && s.fitsAll gs &&
    s.gangs.all fun h => h.st != .pending || h.cohort == g.cohort || !(gs.any fun k => k.clu == h.clu) || g.arrival < h.arrival ||
      (g.arrival == h.arrival && g.sq < h.sq)

/-- After gs enter a cluster, every pending cohort still finds the resources that it needs there free of them (R25). -/
def State.reserveOk (s : State) (clu : Nat) (gs : List Gang) : Bool :=
  (s.pendingAt clu).all fun p =>
    let mine := (s.mates p).filter fun h => h.clu == clu
    4 - (s.freeCores clu).length + (gs.map Gang.need).sum + (mine.map Gang.need).sum ≤ 4 &&
      4 - (s.freeEngs clu).length + (gs.map (·.dem)).sum + (mine.map (·.dem)).sum ≤ 4

/-- The gangs fit beside what pending cohorts need (R17, R25). -/
def State.mayFit (s : State) (gs : List Gang) : Bool :=
  s.fitsAll gs && gs.all fun h => s.reserveOk h.clu (gs.filter fun k => k.clu == h.clu)

/-- Gang g, with its mates, is the first in R18's order on its clusters that can be admitted. -/
def State.mayEnter (s : State) (g : Gang) : Bool :=
  let gs := s.mates g
  (gs.all fun h => s.gangLive h && h.st == g.st) && s.mayFit gs &&
    gs.all fun h =>
      !((s.pendingAt h.clu).any s.cohortReady) &&
      s.gangs.all fun k => k.clu != h.clu || !k.waits || !s.gangLive k || gs.any (·.gk == k.gk) || !s.gangBefore k g || !s.mayFit (s.mates k)

/-! ### Start of a task (R13, R19) -/

/-- A core as it stands when member k of gang g starts on it. -/
def taskStart (g : Gang) (k : Nat) (m : Member) (clk : Nat) : Engine :=
  let args := (g.gargs.zipIdx).foldl (fun t (v, i) => tput 0 t (i + 1) v) []
  let hs := (g.hargs.zipIdx).foldl (fun t (v, i) => tput .null t i v) []
  let toks := (rangeFrom 0 8).foldl (fun t w => tput 0 t w (.ofNat 32 (jobCharge (g.jobs.map fun (j, n) => j ++ [.ofNat 64 n]) k w))) []
  let lib := !g.lib.isEmpty
  { Engine.reset with
    prim := { Stream.reset with pc := m.pep, ended := lib, g := args, toks := toks, lastClk := some clk }
    sec := { Stream.reset with pc := m.sep.getD 0, lastClk := some clk }
    hasSec := m.sep.isSome, h := tput .null hs 15 cqHandle, gang := some g.gk, holder := some g.gk, member := k, stat := .running
    tix := 0 }

/-- Start members k, k + 1, … of a gang on the given cores. -/
def State.startMembers (s : State) (g : Gang) (k : Nat) : List (Member × Nat) → State
  | [] => s
  | (m, e) :: l => (s.setEng e (taskStart g k m s.clk.toNat)).startMembers g (k + 1) l

/-- Enqueue the list jobs of a gang in order, each as its member's GO (R19, R387). -/
def State.startJobs (s : State) (gk : Nat) : List (List Word × Nat) → State
  | [] => s
  | (w, m) :: l =>
    match s.gangOf gk with
    | none => s
    | some g =>
      let (id, s) := s.fresh
      let go := w.getD 4 0
      let hd (k : Nat) : Handle := (g.hargs.getD (fld (w.getD k 0) 60 4) .null).move (sfld (w.getD k 0) 0 48)
      let j : CopyJob :=
        { id := id, gk := gk, member := m, sec := false, list := true, src := hd 0, dst := hd 1, shp := w.getD 2 0, flg := w.getD 3 0,
          tag := .ofNat 16 (fld go 16 16), ent := .ofNat 3 (fld go 0 3), phys := (s.pickEngine g (fld go 0 3)).getD 0, started := false,
          row := 0, skip := 0, resent := 0, buf := [], bufTags := [], retry := 0, retryAt := none, pc := 0,
          clk := s.clk.toNat, core := 0 }
      ({ s with copies := s.copies ++ [j] } : State).startJobs gk l

/-- No member of a gang or of its cohort has been saved (R29, R391). -/
def State.noneSaved (s : State) (v : Gang) : Bool :=
  (s.mates v).all fun h => h.st != .saved && h.members.all fun m => match m.st with | .saved _ => false | _ => true

/-- A request to save victims that waited for gang g is withdrawn from each cohort of which no member has been saved (R29, R391). -/
def State.withdraw (s : State) (g : Nat) : State :=
  let untouched (v : Gang) : Bool := v.st == .saving && v.waiter == some g && s.noneSaved v
  let vs := (s.gangs.filter untouched).map (·.gk)
  { s with
    gangs := s.gangs.map fun (v : Gang) => if vs.contains v.gk then { v with st := .resident, waiter := none, deadline := none, ackd := false } else v
    engines := s.engines.map fun (e, x) => match x.gang with
      | some k => if vs.contains k then (e, { x with saveReq := false, stat := if x.stat = .saving then .running else x.stat }) else (e, x)
      | none => (e, x) }

/-- Admit a gang that fits: tokens charged, jobs started in list order (R17, R19). Of the free cores and copy engines it takes the lowest:
DESIGN CHOICE, log 100. -/
def State.admitGang (s : State) (gk : Nat) : State :=
  match s.gangOf gk with
  | none => s
  | some g =>
    let s := s.withdraw gk
    let cores := (s.freeCores g.clu).take g.members.length
    let engs := (s.freeEngs g.clu).take g.dem
    let (n, s) := s.fresh
    let s := s.modGang gk fun x =>
      { x with st := .resident, admitted := n, engs := engs, members := (x.members.zip cores).map fun (m, e) => { m with st := .running e } }
    match s.gangOf gk with
    | none => s
    | some g => (s.startMembers g 0 (g.members.zip cores)).startJobs gk g.jobs

/-- GANG_ADMISSION: the front end admits a listed gang (R17, R18). -/
def execGangAdmission (g : Nat) (s : State) : Res :=
  .next (match s.gangOf g with
    | none => s
    | some x => if x.st == .listed && s.mayEnter x then s.admitGang g else s)

/-- COHORT_ADMISSION: the pending cohort of gang g enters whole (R25). -/
def execCohortAdmission (g : Nat) (s : State) : Res :=
  .next (match s.gangOf g with
    | none => s
    | some x => if x.st == .pending && s.cohortReady x then (s.mates x).foldl (fun s h => s.admitGang h.gk) s else s)

/-! ### Freeing cores (R20, R30) -/

/-- Gang gk gives up core e. Where another gang's task occupies it, that gang holds it from now on and gives up a core of its
own in its place. -/
def State.dropCore (s : State) (gk : Nat) : Nat → Nat → State
  | 0, _ => s
  | f + 1, e =>
    let x := s.eng e
    match x.gang with
    | none => s.setEng e .reset
    | some k =>
      if k = gk then s.setEng e .reset
      else
        let s := s.setEng e { x with holder := some k }
        match (coresOf (cluOf e)).find? fun d => d != e && (s.eng d).holder == some k && (s.eng d).gang != some k with
        | some d => s.dropCore k f d
        | none => s

/-- Gang gk gives up every core that it holds. -/
def State.dropCores (s : State) (gk clu : Nat) : State :=
  ((coresOf clu).filter fun e => (s.eng e).holder == some gk).foldl (fun s e => s.dropCore gk 5 e) s

/-- Take the occupant off a core, which its holder keeps. -/
def State.vacate (s : State) (e : Nat) : State := s.setEng e { Engine.reset with holder := (s.eng e).holder }

/-- Update the members of the gang on a core. -/
def State.setMember (s : State) (gk m : Nat) (f : Member → Member) : State := s.modGang gk fun g => g.modMember m f

/-! ### Ends of tasks (R15, R258) -/

/-- Every wait token of both streams reads zero. -/
def Engine.tokensZero (x : Engine) : Bool := (rangeFrom 0 8).all fun w => x.prim.tok w = 0 && x.sec.tok w = 0

/-- Both streams have ended, the tokens read zero and every SEND has its reply (R15); no matrix window is open and no mask check is still
to report (R110, R236). -/
def Engine.taskOver (x : Engine) : Bool :=
  x.prim.ended && (!x.hasSec || x.sec.ended) && x.tokensZero && (x.sends.all fun r => r.reply.isSome) && x.chan.isNone && x.sparse.isNone &&
    !x.stopped && x.stat == .running

/-- The task on core e ends; a member that ends while another waits at a barrier raises the barrier mismatch (R258). -/
def State.endTask (s : State) (e : Nat) : State :=
  let x := s.eng e
  match x.gang with
  | none => s
  | some gk =>
    let s := (s.setMember gk x.member fun m => { m with st := .ended, barrier := none }).vacate e
    match s.gangOf gk with
    | some g => if g.arrived.isSome then s.barrierTrap g true x.member else s
    | none => s

/-! ### Retirement (R20, R21, R377) -/

/-- Frames that a gang's members occupy. -/
def Gang.frames (g : Gang) : List Nat := g.members.filterMap fun m => match m.st with | .saved f | .parked f => some f | _ => none

/-- Free a frame of a cluster (R363). -/
def State.freeFrame (s : State) (clu f : Nat) : State := s.modClu clu fun x => { x with frfree := x.frfree ||| .ofNat 32 (2 ^ f) }

/-- Engine keys of a gang's tasks. -/
def Gang.keys (g : Gang) : List Nat :=
  g.members.filterMap fun m => match m.st with | .running e => some e | .parked f | .saved f => some (frameKey g.clu f) | _ => none

/-- An earlier access of the same task is parked, so that the access is held with it (R419). -/
def State.behindParked (s : State) (a : Access) : Bool := s.accs.any fun p => p.parked && p.eng == a.eng && p.id < a.id

/-- A copy job that has not begun and waits behind a parked access of its stream (R108, R419). -/
def State.jobHeld (s : State) (j : CopyJob) : Bool :=
  !j.started && !j.list && s.accs.any fun p => p.parked && p.task == some (j.gk, j.member) && p.sec == j.sec && p.id < j.id

/-- The operations of a stopped gang that still run to their end: stores, the jobs that it has started at its engines (R19, R80), an
open matrix window, comets and lends (R21). -/
def State.gangBusy (s : State) (g : Gang) : Bool :=
  let mine (e : Nat) : Bool := g.keys.contains e
  (s.accs.any fun a => mine a.eng && a.kind.isStore && !a.parked && a.eng < 48 && !s.behindParked a) || (s.banks.any fun b => mine b.eng) ||
    (s.copies.any fun j => j.gk == g.gk && !s.jobHeld j) || (g.keys.any fun e => (s.eng e).perms ≠ [] || (s.eng e).chan.isSome) ||
    ((s.clu g.clu).fills.any fun f => mine f.eng) ||
    s.pends.any fun p => mine p.eng && match p.kind with | .comet _ _ _ _ _ | .wayLend _ _ => true | _ => false

/-- Every member of a trapped gang has stopped: its results are committed and what cannot run any more is gone. -/
def State.dropTasks (s : State) (g : Gang) : State :=
  let mine (e : Nat) : Bool := g.keys.contains e
  { s with
    accs := dropFences (s.accs.filter fun a => !mine a.eng)
    pends := s.pends.filter fun p => !mine p.eng
    copies := s.copies.filter fun j => j.gk != g.gk }

/-- A gang leaves the device: its cores, engines and frames are free, its scoreboard entries and requests go, its
gang-retired record is written, and RFREs that waited for it free their regions (R20, R270, R272, R363). -/
def State.retire (s : State) (g : Gang) : State :=
  let s := (s.dropTasks g).dropCores g.gk g.clu
  let s := g.frames.foldl (fun s f => s.freeFrame g.clu f) s
  let s := ({ s with gangs := s.gangs.filter fun x => x.gk != g.gk } : State).collDrop g.coll
  let s := { s with ctxs := s.ctxs.map fun ((c, x) : Nat × Context) => (c, { x with scb := x.scb.filter fun e => e.gk != g.gk }) }
  let s := s.modCtx g.ctx fun x =>
    { x with
      ports := (x.ports.map fun (k, l) => (k, l.filter fun r => r.gk != g.gk)).filter fun p => !p.2.isEmpty }
  (s.evPost g.clu g.ctx (evRecord 0 g.gk g.gk 2 g.trapped.toNat 0 false)).rfreSettle

/-- GANG_RETIRE: a gang whose members have ended retires; a trapped one once what it started has run to its end; a gang of
a stopping context that is not resident is discarded with status trapped (R20, R21, R377). -/
def execGangRetire (g : Nat) (s : State) : Res :=
  .next (match s.gangOf g with
    | none => s
    | some x =>
      let discard := (s.ctx x.ctx).st == .stopping && match x.st with | .issued | .listed | .pending | .saved => true | _ => false
      if !(s.clu x.clu).evRoom || (s.clu x.clu).evHeld.any (fun r => evGtag r.2 == g % 65536) then s
      else if discard then
        (let y : Gang := { x with trapped := true }; if s.gangBusy x then s else s.retire y)
      else if x.trapped then
        -- results of stopped streams commit first (R139); stream writes among them become accesses
        let s := x.keys.foldl (fun s e => if e < 48 then (s.commitAll e false).commitAll e true else s) s
        if s.gangBusy x then s else s.retire x
      else if x.st == .resident || x.st == .saving then
        let quiet := s.accs.all fun a => !(a.kind.isStore && a.task.map (·.1) == some g)
        if (x.members.all fun m => m.st == .ended) && quiet && s.copies.all fun j => j.gk != g then s.retire x else s
      else s)

/-! ### Pre-emption (R29, R390, R391) -/

/-- The next victim on a cluster for a gang of priority p (R29): the resident gang of the lowest-priority context, the most
recently admitted first. -/
def State.victim (s : State) (clu p : Nat) (chosen : List Nat) : Option Gang :=
  (s.gangs.filter fun g => g.clu == clu && g.st == .resident && !g.trapped && (s.ctx g.ctx).prio < p && !chosen.contains g.gk).foldl
    (fun acc g => match acc with
      | none => some g
      | some h =>
        let a := (s.ctx g.ctx).prio
        let b := (s.ctx h.ctx).prio
        if a < b ∨ (a = b ∧ h.admitted < g.admitted) then some g else some h) none

/-- Cores and engines of a cluster once the chosen gangs and those being saved have left. -/
def State.roomAfter (s : State) (clu : Nat) (chosen : List Nat) : Nat × Nat :=
  let leaving (g : Gang) : Bool := g.clu == clu && (g.st == .saving || chosen.contains g.gk)
  let gs := s.gangs.filter leaving
  ((s.freeCores clu).length + ((coresOf clu).filter fun e => gs.any fun g => (s.eng e).holder == some g.gk).length,
    (s.freeEngs clu).length + (gs.map (·.engs.length)).sum)

/-- Victims on one cluster that make room for gs, if a set exists. -/
def State.victims (s : State) (clu p : Nat) (gs : List Gang) (chosen : List Nat) : Nat → Option (List Nat)
  | 0 => none
  | f + 1 =>
    let (cores, engs) := s.roomAfter clu chosen
    if (gs.map Gang.need).sum ≤ cores && (gs.map (·.dem)).sum ≤ engs then some chosen
    else match s.victim clu p chosen with
      | none => none
      | some v => s.victims clu p gs (chosen ++ (s.mates v).map (·.gk)) f

/-- The first gang in R18's order that waits on a cluster. -/
def State.firstWaiting (s : State) (g : Gang) : Bool :=
  let pend := s.pendingAt g.clu
  if g.st == .pending then pend.all fun h => h.cohort == g.cohort || g.arrival < h.arrival
  else pend.isEmpty && s.gangs.all fun k => k.clu != g.clu || !k.waits || !s.gangLive k || k.gk == g.gk || !s.gangBefore k g

/-- Ask for the save of a gang: its running members save at their next iteration boundary, under the deadline PDEADL. -/
def State.requestSave (s : State) (waiter : Nat) (v : Nat) : State :=
  match s.gangOf v with
  | none => s
  | some g =>
    if g.st != .resident then s
    else
      let us := (s.part (s.ctx g.ctx).part.val).pdeadl
      let s := s.modGang v fun x => { x with st := .saving, waiter := some waiter, deadline := some (s.clk.toNat + us * usClk), ackd := false }
      { s with engines := s.engines.map fun (e, x) => if x.gang = some v then (e, { x with saveReq := true }) else (e, x) }

/-- A saving gang of which every member is saved, parked or ended leaves its cluster whole (R29, R391). -/
def State.leaveIfSaved (s : State) (gk : Nat) : State :=
  match s.gangOf gk with
  | none => s
  | some g =>
    if g.st == .saving && (g.members.all fun m => match m.st with | .saved _ | .parked _ | .ended => true | _ => false) &&
        g.members.any (fun m => m.st != .ended) then
      let s := s.dropCores gk g.clu
      let s := s.modGang gk fun x =>
        { x with st := .saved, engs := [], waiter := none, deadline := none, ackd := false
                 members := x.members.map fun m => match m.st with | .parked f => { m with st := .saved f } | _ => m }
      s.pauseUpdate g.ctx
    else s

/-- PREEMPTION_REQUEST: the first gang in R18's order, or a pending cohort on each of its clusters, cannot enter and chooses
its victims (R29, R390). -/
def execPreemptionRequest (g : Nat) (s : State) : Res :=
  .next (match s.gangOf g with
    | none => s
    | some x =>
      let gs := s.mates x
      if !(x.waits || x.st == .pending) || !s.gangLive x || !s.firstWaiting x || s.fitsAll gs || !gs.all s.regionsOk then s
      else
        let p := (s.ctx x.ctx).prio
        let sets := (gs.map (·.clu)).map fun c => s.victims c p (gs.filter fun h => h.clu == c) [] 9
        if sets.any fun v => v.isNone then s
        else
          let vs := sets.flatMap fun v => v.getD []
          let s := vs.foldl (fun s v => s.requestSave g v) s
          vs.foldl (fun s v => s.leaveIfSaved v) s)

/-- A pre-emption-overdue record (R391, R418). -/
def State.overdueRecord (s : State) (g : Gang) : TrapRec :=
  let run := (g.members.zipIdx).filterMap fun (m, i) => match m.st with | .running e => some (i, e) | _ => none
  let mask := (run.map fun (i, _) => 2 ^ i).sum
  let pc (k : Nat) : Word := match run.find? (·.1 == k) with | some (_, e) => .ofNat 64 ((s.eng e).prim.pc.toNat % 2 ^ 48) | none => 0
  ⟨2, g.ctx,
    [ pack [(32, 16, mask), (24, 8, g.opc), (22, 2, g.sq), (21, 1, 1), (16, 3, 2), (0, 10, g.ctx)],
      pack [(48, 16, g.gk), (41, 4, g.clu), (0, 24, g.bpc)], pc 0, pc 1, pc 2, pc 3, s.clk ]⟩

/-- PREEMPTION_OVERDUE: the deadline of a save has passed and the save is not complete (R29, R30, R391). -/
def execPreemptionOverdue (g : Nat) (s : State) : Res :=
  .next (match s.gangOf g with
    | none => s
    | some x => match x.deadline with
      | none => s
      | some d =>
        if x.ackd || s.clk.toNat < d then s
        else
          let r := s.overdueRecord x
          let s := s.modPart (s.ctx x.ctx).part.val fun p => { p with traps := p.traps ++ [r] }
          s.modGang g fun y => { y with ackd := true })

/-! ### Service calls (R166 to R168) -/

/-- Thread n with its binding serves partition p: it is enabled, bound to it, and of a unit of it (R362, R371). -/
def State.threadOf (s : State) (p : Fin 4) (n : Nat) (t : SpThread) : Bool :=
  t.en && t.part == p && partOfUnit s.dev.mode (n / 16) == p.val

/-- Update a thread. -/
def Device.modThread (d : Device) (n : Nat) (f : SpThread → SpThread) : Device :=
  { d with threads := tput .reset d.threads n (f (tget .reset d.threads n)) }

/-- The thread sleeps again (R357). -/
def State.sleep (s : State) (n : Nat) : State := s.modDev fun d => d.modThread n fun x => { x with awake := false }

/-- A thread is bound to a port of a context (R362). -/
def State.portBound (s : State) (c port : Nat) : Bool :=
  s.dev.threads.any fun (n, t) => s.threadOf (s.ctx c).part n t && t.kind = 3 && t.qid = port

/-- The thread that serves a port of a context and is awake (R357, R362). -/
def State.portServed (s : State) (c port : Nat) : Option Nat :=
  (s.dev.threads.find? fun (n, t) => s.threadOf (s.ctx c).part n t && t.awake && t.kind = 3 && t.qid = port).map (·.1)

/-- SERVICE_REQUEST_TAKEN: the port's thread takes the oldest request, and sleeps again where no context of its partition has one more for
it (R166, R357). -/
def execServiceRequestTaken (ctx : Nat) (port : Fin 16) (s : State) : Res :=
  .next (match s.portServed ctx port.val with
    | none => s
    | some n =>
      let s := s.modCtx ctx fun x => { x with ports := tput [] x.ports port.val ((tget [] x.ports port.val).drop 1) }
      if (tkeys s.ctxs).any fun c => (s.ctx c).part == (s.ctx ctx).part && tget [] (s.ctx c).ports port.val ≠ [] then s else s.sleep n)

/-- A reply of R167. -/
def replyOk (v : Word) : Bool := !v.getLsbD 63 || (fld v 16 47 = 0 && (let c := fld v 0 16; (1 ≤ c && c ≤ 3) || 0x100 ≤ c))

/-- Answer the call on a port. -/
def answer (port : Nat) (v : Word) (l : List SendSt) : List SendSt :=
  l.map fun r => if r.port = port ∧ r.reply.isNone then { r with reply := some v } else r

/-- SERVICE_REPLY: the reply of a taken request arrives, or error 1 of a port that no thread serves; it is kept with the task
wherever the task is (R167, R168). -/
def execServiceReply (g : Nat) (member : Nat) (sec : Bool) (port : Fin 16) (v : Word) (s : State) : Res :=
  .next (match s.gangOf g with
    | none => s
    | some x =>
      let mine (r : SvcReq) : Bool := r.gk == g && r.member == member && r.sec == sec
      let queued := (tget [] (s.ctx x.ctx).ports port.val).any mine
      let unserved := !s.portBound x.ctx port.val && v == .ofNat 64 (2 ^ 63 + 1)
      if !replyOk v || (queued && !unserved) then s
      else
        let s := s.modCtx x.ctx fun c => { c with ports := tput [] c.ports port.val ((tget [] c.ports port.val).filter fun r => !mine r) }
        match x.members[member]? with
        | none => s
        | some m => match m.st with
          | .running e => s.modEng e fun y => { y with sends := answer port.val v y.sends }
          | _ => s.setMember g member fun n => { n with sends := answer port.val v n.sends })

/-! ### Contexts on sequencers (R26, R28, R376) -/

/-- CONTEXT_DISPATCH: a free sequencer takes the next ready context of its partition (R28). -/
def execContextDispatch (q : Fin 4) (s : State) : Res :=
  .next (if (s.seq q.val).ctx.isSome || (s.seq q.val).stop then s
    else match s.nextReady (s.seq q.val).part.val with
      | none => s
      | some c => s.enterSeq q c)

/-- No operation of sequencer q is under way and its tokens read zero. -/
def State.seqQuiet (s : State) (q : Nat) : Bool :=
  (s.eng (48 + q)).tokensZero && (s.accs.all fun a => a.eng != 48 + q || !a.kind.isLoad) && s.pends.all fun p => p.eng != 48 + q

/-- CONTEXT_SWITCH: at an operator boundary the sequencer gives its context up to a peer or to a more urgent one (R28); a
stopping context leaves once its routine's tokens have fallen (R376). -/
def execContextSwitch (q : Fin 4) (s : State) : Res :=
  .next (match (s.seq q.val).ctx with
    | none => s
    | some c =>
      if s.switchDue q.val then (s.leaveSeq q.val).makeReady c
      else if (s.ctx c).st == .stopping && s.seqQuiet q.val then s.leaveSeq q.val
      else s)

/-- CONTEXT_WAKE: what the waiting context awaits has come about (R376). -/
def execContextWake (c : Nat) (s : State) : Res :=
  .next (if (s.ctx c).st != .waiting then s
    else match (s.ctx c).awaits with
      | .none => s.makeReady c
      | .word _ => s
      | .layer n => if s.resSet c n then s.makeReady c else s
      | .room tier n _ =>
        let p := (s.ctx c).part.val
        let there : Bool := match tier with
          | 0 => decide (n ≤ runTotal (s.freeFast p))
          | 1 => !(runStarts (s.freeCap p) n).isEmpty
          | 3 => decide (n ≤ runTotal (s.freeCap p))
          | _ => !(runStarts (s.freeSbm p) n).isEmpty
        if there then s.makeReady c else s
      | .page oid g => match s.objEnt c oid with
        | none => s.makeReady c
        | some x => match s.place c oid x (g * 65536) with
          | .absent _ _ => s
          | _ => s.makeReady c)

end Sys2Proof.Machine
end

