-- ==== Sys2Proof/Machine/Frames.lean ====
section
/-!
DEFINITION. The core context frame (R363 to R369, R421): its bytes, a save, the checks and the load of a restore; parks,
borrowed cores and held accesses (R30, R419, R422).
-/
namespace Sys2Proof.Machine

/-- Location of frame f of a cluster (R363). -/
def State.frameLoc (s : State) (clu f : Nat) : Nat :=
  let x := s.clu clu
  locFast x.part.val (fld x.frbase 16 32 * 65536 + f * 0x110000)

/-- The free frame of a cluster's pool that a save takes: the lowest, DESIGN CHOICE, log 100. -/
def State.freeFrame? (s : State) (clu : Nat) : Option Nat :=
  let x := s.clu clu
  (rangeFrom 0 x.frcnt).find? fun f => x.frfree.getLsbD f

/-! ### Fetch (R126, R127, R159, R464) -/

inductive Fetched where
  | ok (ws : List Nat) | fault | wait (ctx oid prio : Nat) (layer : Option Nat) (granule : Nat)

/-- The eight words of the line at a location. -/
def State.lineWords (s : State) (l : Nat) : List Nat := (rangeFrom 0 8).map fun k => s.rdNat (l + 8 * k) 8

/-- The bundle at pc: of the code object of a core's gang, or of a sequencer's microcode store. -/
def State.fetchBundle (s : State) (e pc : Nat) : Fetched :=
  if isSeq e then (if pc < 2 ^ 21 then .ok (s.lineWords (locUc (e - 48) pc)) else .fault)
  else match (s.eng e).gang.bind s.gangOf with
    | none => .fault
    | some g => match g.code.check rR pc 64 with
      | some _ => .fault
      | none => match s.objEnt g.ctx g.code.oid with
        | none => .fault
        | some x => match s.place g.ctx g.code.oid x pc with
          | .at_ l => if isExt l then .fault else .ok (s.lineWords l)
          | .absent y n => .wait g.ctx g.code.oid x.prio y n
          | _ => .fault

/-- The depth that stage tags may reach: that of the innermost entry where it is a LOOPP (R146, R163). -/
def Stream.depth (x : Stream) : Nat := match x.loops with | e :: _ => if e.piped then e.depth.toNat else 0 | [] => 0

/-! ### Frame bytes (R364 to R367) -/

def words (l : List Word) : List Byte := l.flatMap fun w => leBytes 8 w.toNat

/-- The innermost-first loop stack as six 24-byte entries, outermost first (R367). -/
def loopBytes (l : List LoopEnt) : List Byte :=
  let ent (e : LoopEnt) : List Word :=
    [ pack [(0, 42, e.start.toNat / 64), (42, 12, (e.stop - e.start).toNat / 64 + 1), (54, 1, e.piped.toNat), (55, 3, e.depth.toNat),
        (58, 1, e.rem.toNat / 2 ^ 64)], e.idx, e.rem.truncate 64 ]
  ((words (l.reverse.flatMap ent)) ++ List.replicate 144 0).take 144

/-- A stream record of 56 bytes (R367). -/
def bindBytes : Option Binding → List Byte
  | none => List.replicate 56 0
  | some b =>
    let i := (coords b.next (b.geo.map geoCount)) ++ [0, 0, 0, 0]
    leBytes 16 b.h.bits.toNat ++ (words (b.geo ++ [0, 0, 0, 0])).take 32 ++
      leBytes 8 (pack [(0, 16, i.getD 0 0), (16, 16, i.getD 1 0), (32, 16, i.getD 2 0), (48, 16, i.getD 3 0)]).toNat

/-- Stream k's seven flag bits of header word 6 (R366). -/
def bindFlags : Option Binding → Nat
  | none => 0
  | some b => 1 + 2 * b.write.toNat + 4 * (if b.total ≤ b.next then 1 else 0) + 8 * b.cls.toNat

/-- The eight header words (R366). -/
def headWords (x : Engine) (recs gtag : Nat) : List Word :=
  let ks := rangeFrom 0 8
  [ pack [(48, 16, 0x4B46), (40, 8, 1), (32, 6, recs), (2, 1, (!x.hasSec).toNat), (1, 1, x.sec.ended.toNat), (0, 1, x.prim.ended.toNat)],
    pack [(48, 3, x.prim.loops.length), (0, 48, x.prim.pc.toNat)],
    pack [(48, 3, x.sec.loops.length), (0, 48, x.sec.pc.toNat)],
    pack [(32, 16, ((rangeFrom 0 16).map fun k => if (tget Handle.null x.h k).tag then 2 ^ k else 0).sum), (24, 4, x.sec.bankStatus.toNat),
      (20, 4, x.prim.bankStatus.toNat), (16, 4, x.sec.slack.toNat), (12, 4, x.prim.slack.toNat), (8, 4, x.rb.toNat), (4, 3, x.rmode.toNat),
      (0, 4, x.astat.toNat)],
    pack ((0, 32, x.rseed.toNat) :: ks.map fun k => (32 + 4 * k, 4, (tget (0 : BitVec 4) x.accFlags k).toNat)),
    pack [(16, 16, (x.sends.map fun r => 2 ^ r.port).sum), (4, 8, x.row), (1, 3, x.dacc.val), (0, 1, x.drn.toNat)],
    pack (ks.map fun k => (7 * k, 7, bindFlags (tget none x.binds k))),
    pack [(16, 2, x.member), (0, 16, gtag)] ]

/-- A copy bank's four parameter registers. -/
def CopyBank.words (b : CopyBank) : List Word := [b.src.val, b.dst.val, b.shp.val, b.flg.val]

/-- The bytes of a frame from 0x10_0000 to 0x10_37FF: registers, queues, control block (R364, R365). -/
def frameBytes (x : Engine) (recs gtag : Nat) : List Byte :=
  let g (y : Stream) (n : Nat) : List Word := (rangeFrom 1 n).map fun k => tget 0 y.g k
  let q (l : List SEnt) (n : Nat) : List Word := ((l.map fun (e : SEnt) => e.val) ++ List.replicate n 0).take n
  let toks (y : Stream) (n : Nat) : List Byte := (rangeFrom 0 n).flatMap fun k => leBytes 4 (y.tok k).toNat
  let ks := rangeFrom 0 8
  ((rangeFrom 0 32).flatMap fun k => leBytes 256 (tget (0 : Vec) x.v k).toNat) ++
  ((((x.vq.map fun (e : VEnt) => e.val) ++ List.replicate 16 0).take 16).flatMap fun (v : Vec) => leBytes 256 v.toNat) ++
  words (headWords x recs gtag) ++ words (g x.prim 31) ++ words (g x.sec 15) ++ words (q x.prim.sq 16) ++ words (q x.sec.sq 8) ++
  ((rangeFrom 0 16).flatMap fun k => leBytes 16 (tget Handle.null x.h k).bits.toNat) ++
  (ks.flatMap fun k => leBytes 32 (tget (0 : PredBits) x.p k).toNat) ++ loopBytes x.prim.loops ++ loopBytes x.sec.loops ++
  (ks.flatMap fun k => bindBytes (tget none x.binds k)) ++ toks x.prim 8 ++ toks x.sec 4 ++ words x.prim.cq.words ++ words x.sec.cq.words ++
  List.replicate 64 0

/-- Write re-issue records i, i + 1, … (R421). -/
def State.putRecords (s : State) (base i : Nat) : List CopyJob → State
  | [] => s
  | j :: js =>
    let a := base + 0x103800 + 0x40 * i
    let skip := max j.skip j.resent
    let owed := (shpRows j.shp - j.row) * shpBytes j.shp - skip
    let s := (s.putHandle a j.src).putHandle (a + 16) j.dst
    let s := s.putWords (a + 32)
      [ j.shp, j.flg, pack [(44, 20, skip), (33, 1, j.list.toNat), (32, 1, j.sec.toNat), (16, 16, j.tag.toNat), (0, 3, j.ent.toNat)],
        pack [(32, 32, owed), (0, 13, j.row)] ]
    s.putRecords base (i + 1) js

/-- Write a task's whole frame. -/
def State.writeFrame (s : State) (base : Nat) (x : Engine) (jobs : List CopyJob) (gtag : Nat) : State :=
  let accs := (x.acc.filter fun c => c.1 < 0x100000 && c.2 != 0).map fun (a, b) => (base + a, b)
  let s := { s with
    mem := s.mem.filter (fun (c : Host.Cell) => c.1 < base) ++ accs ++ s.mem.filter (fun (c : Host.Cell) => base + 0x100000 ≤ c.1)
    tags := tagClear s.tags base 0x100000 }
  (s.put (base + 0x100000) (frameBytes x jobs.length gtag)).putRecords base 0 jobs

/-! ### Saves (R106, R368, R421) -/

/-- The copy jobs of a member, in GO order. -/
def State.jobsOf (s : State) (gk m : Nat) : List CopyJob := s.copies.filter fun j => j.gk == gk && j.member == m

/-- A job is where its engine can record it: not started, at a row's start, or parked (R421). -/
def CopyJob.atRow (j : CopyJob) : Bool := !j.started || j.retryAt.isSome || (j.skip = 0 && j.buf = [])

/-- The accesses of core e that a park may hold: those parked, and those behind one in their stream (R419). -/
def State.heldable (s : State) (e : Nat) (a : Access) : Bool :=
  a.parked || s.accs.any fun b => b.eng == e && b.sec == a.sec && b.parked && b.id < a.id

/-- Everything that R368 completes before a save has completed; `park` leaves held accesses (R419). -/
def State.quiesced (s : State) (e gk : Nat) (park : Bool) : Bool :=
  let x := s.eng e
  (s.accs.all fun a => a.eng != e || (park && s.heldable e a)) && (s.pends.all fun p => p.eng != e) && (s.banks.all fun b => b.eng != e) &&
    ((s.clu (cluOf e)).fills.all fun f => f.eng != e) && x.perms.isEmpty && x.flushes.isEmpty && x.sparse.isNone && x.prim.pend.isEmpty &&
    x.sec.pend.isEmpty && x.chanFree ≤ s.clk.toNat && (x.accFree.all fun c => c.2 ≤ s.clk.toNat) && x.chan.isNone &&
    (s.jobsOf gk x.member).all CopyJob.atRow && (s.jobsOf gk x.member).length ≤ 32

/-- The queue entry that an operation will fill. -/
def Engine.entryOf (x : Engine) (sec : Bool) (id : Nat) (vec : Bool) : Nat :=
  ((if vec then x.vq.findIdx? fun e => e.fill == .token id else (x.str sec).sq.findIdx? fun e => e.fill == .token id)).getD 16

/-- The save proper: the frame is written and the task leaves core e, which its gang goes on holding (R363 to R368, R419). At a drain the PC
is that of the MDRAIN bundle (R241). -/
def State.saveInto (s : State) (e f : Nat) (st : MSt) : State :=
  let x := s.eng e
  match x.gang with
  | none => s
  | some gk =>
    let clu := cluOf e
    let jobs := s.jobsOf gk x.member
    let key := frameKey clu f
    let held := (s.accs.filter fun a => a.eng == e).map fun a => (a.id, x.entryOf a.sec a.id (match a.dst with | .v _ => true | _ => false))
    let y := match x.drain with | some d => { x with prim := { x.prim with pc := d.pc } } | none => x
    let s := s.writeFrame (s.frameLoc clu f) y jobs (gk % 65536)
    let s := s.modClu clu fun c => { c with frfree := c.frfree &&& ~~~ (.ofNat 32 (2 ^ f)) }
    let s := { s with
      copies := s.copies.filter fun j => !(j.gk == gk && j.member == x.member)
      accs := s.accs.map fun (a : Access) => if a.eng = e then { a with eng := key } else a }
    let s := s.setMember gk x.member fun m => { m with st := st, sends := x.sends, drain := x.drain, held := held, lent := 0 }
    s.vacate e

/-- Results commit, a window that has passed closes, and a read stream's window is dropped (R139, R85, R368). -/
def State.settleCore (s : State) (e : Nat) : State :=
  let s := ((s.closeDue e).commitAll e false).commitAll e true
  s.modEng e fun x => { (x.settleNew (s.clk.toNat + 1)) with binds := x.binds.map fun (k, b) => (k, b.map fun y => { y with window := [] }) }

/-- A long drain at which the task can be saved: both plane sets are empty (R241). -/
def Engine.atDrain (x : Engine) : Bool := x.drain.isSome && x.ps0.isNone && x.ps1.isNone

/-- Save the task of core e into a free frame once it is quiesced; its member is left in the state that `mst` gives. Where the save cannot
be made nothing commits early (R139). -/
def State.trySave (s : State) (e : Nat) (park : Bool) (mst : Nat → MSt) : State :=
  let t := s.settleCore e
  match (t.eng e).gang, t.freeFrame? (cluOf e) with
  | some gk, some f => if t.quiesced e gk park then t.saveInto e f (mst f) else s
  | _, _ => s

/-- The core of a task that is to be saved shows SAVING and the frame that the save will take (R362). -/
def State.showSave (s : State) (e : Nat) : State :=
  let f := (s.freeFrame? (cluOf e)).getD 0
  s.modEng e fun y => { y with stat := .saving, frame := f }

/-- TASK_SAVE: the task of core e, asked to leave, is at an iteration boundary or at a long drain and is saved; a victim whose
waiter has become admissible before any member was saved is spared (R29, R30, R241, R368, R391). -/
def execTaskSave (e : Nat) (s : State) : Res :=
  .next (match (s.eng e).gang.bind s.gangOf with
    | none => s
    | some g =>
      let x := s.eng e
      let ready := x.saveReq && !x.stopped && !x.parkReq && (x.stat == .saving || x.atDrain || (!g.lib.isEmpty && x.stat == .running))
      let spared := g.st == .saving && s.noneSaved g &&
        (match g.waiter.bind s.gangOf with | some w => s.mayEnter w || (w.st == .pending && s.cohortReady w) | none => false)
      if !ready then s
      else if spared then s.withdraw (g.waiter.getD 0)
      else
        let s := s.showSave e
        let t := s.trySave e false (if g.st == .saving then .saved else .parked)
        let t := if g.st == .resident && (t.eng e).gang != some g.gk then t.modGang g.gk fun y => { y with deadline := none, ackd := false } else t
        t.leaveIfSaved g.gk)

/-- TASK_PARK: a task with a non-resident access is saved into a frame and its core is lent; without a free frame it stalls on
its core (R30, R363, R396, R419). -/
def execTaskPark (e : Nat) (s : State) : Res :=
  .next (match (s.eng e).gang.bind s.gangOf with
    | none => s
    | some g =>
      let x := s.eng e
      if !x.parkReq || x.stopped then s
      else
        let s := (s.showSave e).modEng e fun y => { y with ps0 := none, ps1 := none }
        (s.trySave e true .parked).leaveIfSaved g.gk)

/-! ### Held accesses (R419) -/

/-- Bytes of a frame change while its task is saved. -/
def State.frameWord (s : State) (base off : Nat) : Word := s.rd64 (base + off)

/-- One operation fewer on a token of the frame. -/
def State.frameTok (s : State) (base : Nat) (sec : Bool) : Option Nat → State
  | none => s
  | some w =>
    let a := base + 0x103000 + (if sec then 0x770 else 0x750) + 4 * w
    s.put a (leBytes 4 (s.rdNat a 4 - 1))

/-- The value of a held access goes to its destination register and its reserved queue entry in the frame. -/
def State.frameLand (s : State) (base : Nat) (a : Access) (q : Nat) : State :=
  let v := a.taken.getD 0
  let cb := base + 0x103000
  match a.dst with
  | .none => s
  | .g d =>
    let w := ext64 a.t v.toNat
    let s := if q < 16 then s.put64 (cb + (if a.sec then 0x230 else 0x1B0) + 8 * q) w else s
    match d with
    | .reg n => if n.val = 0 then s else s.put64 (cb + (if a.sec then 0x138 else 0x40) + 8 * (n.val - 1)) w
    | .que => s
  | .h n =>
    let s := s.put (cb + 0x270 + 16 * n) (leBytes 16 (v.toNat % 2 ^ 128))
    let w := s.frameWord cb 24
    let bit : Word := .ofNat 64 (2 ^ (32 + n))
    s.put64 (cb + 24) (if a.takenTag then w ||| bit else w &&& ~~~ bit)
  | .v d =>
    let m := partsMask a.parts
    let upd (s : State) (at_ : Nat) : State := s.put at_ (vecBytes (mergeBytes m v (bytesVec (s.bytes at_ 256))))
    let s := if q < 16 then upd s (base + 0x102000 + 0x100 * q) else s
    match d with
    | .reg n => upd s (base + 0x100000 + 0x100 * n.val)
    | _ => s

/-- The gang and member whose frame is f of a cluster. -/
def State.frameOwner (s : State) (clu f : Nat) : Option (Gang × Nat × Member) :=
  (s.gangs.filter fun g => g.clu == clu).findSome? fun g =>
    (g.members.zipIdx).findSome? fun (m, i) => match m.st with
      | .saved k | .parked k => if k = f then some (g, i, m) else none
      | _ => none

/-- PARKED_ACCESS_PERFORMS: a held access, whose granule is resident and whose layer has RES set, performs in its order; its
value goes into the frame (R396, R419). -/
def execParkedAccessPerforms (id : Nat) (s : State) : Res :=
  .next (match s.accs.find? (·.id == id) with
    | none => s
    | some a =>
      if a.eng < 1000 then s
      else
        let clu := (a.eng - 1000) / 32
        let f := (a.eng - 1000) % 32
        match s.frameOwner clu f with
        | none => s
        | some (g, i, m) =>
          let ends (s : State) (x : TrapInfo) : State :=
            ({ s with accs := s.accs.filter (·.id ≠ id) } : State).gangTrap g.gk i a.sec none a.pc x
          let fault (s : State) (n : Nat) : State := ends s ⟨n, 0, some a.obj.2, none, none⟩
          match s.objEnt a.obj.1 a.obj.2 with
          | none => fault s 0x20
          | some x =>
            -- LDRES.w reads its word in place and waits for RES (R197)
            let ldr := match a.kind with | .ldres w => w | _ => false
            let l := if a.parked && !ldr then s.placeParts a.obj.1 a.obj.2 x a.parts else a.parts.map fun p => (p, Place.at_ p.loc)
            match firstFault l with
            | some n => fault s n
            | none => match firstAbsent l with
              | some (y, gr) =>
                let (t, swap) := s.absentReq a.obj.1 a.obj.2 x.prio y gr
                if swap then ends t (s.swapTrap a.obj.1 a.obj.2 y) else t
              | none =>
                let ps := l.map fun (p, q) => match q with | .at_ k => { p with loc := k } | _ => p
                let tq := match a.tagQ with
                  | none => none
                  | some (k, t) => if a.parked then (match s.place a.obj.1 a.obj.2 x k with | .at_ q => some (q, t) | _ => none) else some (k, t)
                let b : Access := { a with parts := ps, tagQ := tq, parked := false, window := x.space.val = 4 }
                let resOff := ldr && (match ps with | p :: _ => !(s.rd64 p.loc).getLsbD 63 | [] => false)
                let clear := ps.all fun p => s.quiet clu p.loc p.n
                if resOff || !clear || !s.mayStep (if a.kind.isLoad && !a.kind.isAtom then .value else .dev) b then s
                else
                  let s := { s with accs := s.accs.map fun (c : Access) => if c.id = id then b else c }
                  let t := if a.kind.isLoad then s.takeValue b else s.performStore b
                  let base := t.frameLoc clu f
                  let q := ((m.held.find? (·.1 == id)).map (·.2)).getD 16
                  let t := match t.accs.find? (·.id == id) with
                    | some c => if a.kind.isLoad then t.frameLand base c q else t
                    | none => t
                  let t := t.frameTok base a.sec a.tok
                  ({ t with accs := dropFences (t.accs.filter (·.id ≠ id)) } : State).accSettle)

/-! ### Restores (R369, R392, R422) -/

/-- A loop entry of a frame, or none where R369 refuses it. -/
def readLoop (sec : Bool) (w0 idx rem : Word) : Option LoopEnt :=
  let len := fld w0 42 12
  if w0.toNat / 2 ^ 59 ≠ 0 || len = 0 || (sec && w0.getLsbD 54) then none
  else
    let start := fld w0 0 42 * 64
    some ⟨.ofNat 64 start, .ofNat 64 (start + 64 * (len - 1)), idx, .ofNat 65 (rem.toNat + fld w0 58 1 * 2 ^ 64), w0.getLsbD 54, .ofNat 3 (fld w0 55 3)⟩

/-- The loop stack stored at a with the given depth, innermost first. -/
def State.readLoops (s : State) (sec : Bool) (a : Nat) : Nat → Option (List LoopEnt)
  | 0 => some []
  | n + 1 => match s.readLoops sec a n, readLoop sec (s.rd64 (a + 24 * n)) (s.rd64 (a + 24 * n + 8)) (s.rd64 (a + 24 * n + 16)) with
    | some l, some e => some (e :: l)
    | _, _ => none

/-- A binding of a frame: its flags and its record. -/
def State.readBind (s : State) (a flags : Nat) : Option Binding :=
  if flags % 2 = 0 then none
  else
    let geo := (rangeFrom 0 4).map fun k => s.rd64 (a + 16 + 8 * k)
    let i := s.rd64 (a + 48)
    let ns := geo.map geoCount
    let h : Handle := ⟨.ofNat 128 (s.rdNat a 16), true⟩
    let b : Binding := { id := 0, write := flags / 2 % 2 = 1, h := h, geo := geo, cls := .ofNat 4 (flags / 8), next := 0, window := [] }
    let e := fld i 0 16 + ns.getD 0 1 * (fld i 16 16 + ns.getD 1 1 * (fld i 32 16 + ns.getD 2 1 * fld i 48 16))
    some { b with next := if flags / 4 % 2 = 1 then b.total else e }

/-- Re-issue record i of a frame, or none where R369 refuses it. Re-issued jobs keep record order among themselves (R422): the place of the
record stands where a GO has its core. -/
def State.readRecord (s : State) (base gk member i : Nat) : Option CopyJob :=
  let a := base + 0x103800 + 0x40 * i
  let src := s.rdHandle a
  let dst := s.rdHandle (a + 16)
  let shp := s.rd64 (a + 32)
  let flg := s.rd64 (a + 40)
  let w := s.rd64 (a + 48)
  let row := fld (s.rd64 (a + 56)) 0 13
  let side (h : Handle) (right stride : Nat) : Bool :=
    h.tag && h.has right && (shpRows shp ≤ row ||
      ((h.check right (h.cur + row * stride : Nat) (shpBytes shp)).isNone && (h.check right (h.cur + (shpRows shp - 1) * stride : Nat) (shpBytes shp)).isNone))
  let fields := match cqFieldCheck 0 0 shp flg 0 1 (w.getLsbD 32) with | some 4 => true | some _ => false | none => true
  if fld w 34 10 ≠ 0 || fld w 3 13 ≠ 0 || fld (s.rd64 (a + 56)) 13 19 ≠ 0 || !fields || !side src rR (shpS shp) || !side dst rW (shpD shp) then none
  else some
    { id := 0, gk := gk, member := member, sec := w.getLsbD 32, list := w.getLsbD 33, src := src, dst := dst, shp := shp, flg := flg,
      clk := s.clk.toNat, core := i, tag := .ofNat 16 (fld w 16 16), ent := .ofNat 3 (fld w 0 3), phys := 0, started := false, row := row, skip := 0, resent := fld w 44 20,
      buf := [], bufTags := [], retry := 0, retryAt := none, pc := 0 }

def State.readRecords (s : State) (base gk member i : Nat) : Nat → Option (List CopyJob)
  | 0 => some []
  | n + 1 => match s.readRecord base gk member i, s.readRecords base gk member (i + 1) n with
    | some j, some l => some (j :: l)
    | _, _ => none

/-- The header's reserved bits are zero (R366). -/
def headOk (w : List Word) : Bool :=
  let g (k : Nat) : Word := w.getD k 0
  fld (g 0) 48 16 = 0x4B46 && fld (g 0) 40 8 = 1 && fld (g 0) 32 6 ≤ 32 && fld (g 0) 38 2 = 0 && fld (g 0) 3 29 = 0 && fld (g 1) 51 13 = 0 &&
    fld (g 2) 51 13 = 0 && fld (g 1) 48 3 ≤ 6 && fld (g 2) 48 3 ≤ 6 && fld (g 3) 48 16 = 0 && fld (g 3) 28 4 = 0 && fld (g 3) 7 1 = 0 && fld (g 5) 32 32 = 0 &&
    fld (g 5) 12 4 = 0 && fld (g 6) 56 8 = 0 && fld (g 7) 18 46 = 0

/-- A copy bank as a frame stores it; no store to it is pending. -/
def readBank (l : List Word) : CopyBank :=
  let r (k : Nat) : CqReg := ⟨l.getD k 0, l.getD k 0, 0, true, 0⟩
  ⟨r 0, r 1, r 2, r 3⟩

/-- The MDRAIN of the bundle at pc, with its tile from the registers of the primary stream in focus. -/
def State.decodedDrain (s : State) (pc : Word) (d : Fin 8) : Option Drain :=
  match s.fetchBundle s.focus.eng pc.toNat with
  | .ok ws => match decodeBundle .prim s.fs.depth ws with
    | .ok b => b.slots.findSome? fun (_, i) => match i with
      | .mdrain w => (s.g? .n64 w.c).map fun g =>
        let h := s.h w.h
        ⟨{ w with d := d }, ((h.cur : Int) + sfld g 0 32).toNat, tileStride g (32 * w.out.width), h, pc, true⟩
      | _ => none
    | .error _ => none
  | _ => none

/-- The calls that a restored task awaits: those of the frame's SVCP bits, with what the port's thread holds for the member (R168, R366). -/
def restoredSends (m : Member) (svcp : Nat) : List SendSt :=
  (rangeFrom 0 16).filterMap fun p => if svcp.testBit p then some ((m.sends.find? fun r => r.port == p).getD ⟨p, false, none⟩) else none

/-- The long drain that a frame with DRN set resumes on core e, whose registers are as restored (R241, R370): that of the MDRAIN in the
bundle at PPC, with DACC of the frame; where the bundle is the one that the member left, the handle and tile as it latched them. -/
def State.restoredDrain (s : State) (m : Member) (e : Nat) (d : Fin 8) : Option Drain :=
  let pc := (s.eng e).prim.pc
  let t := { s with focus := ⟨e, false⟩ }
  match m.drain with
  | some y => if y.pc = pc then some { y with w := { y.w with d := d }, resumed := true } else t.decodedDrain pc d
  | none => t.decodedDrain pc d

/-- The task stored in a frame with its jobs, for core e of gang g's member; none is the frame-check fault (R369). -/
def State.readFrame (s : State) (g : Gang) (k : Nat) (m : Member) (f e : Nat) : Option (Engine × List CopyJob) :=
  let base := s.frameLoc g.clu f
  let cb := base + 0x103000
  let ws (a n : Nat) : List Word := (rangeFrom 0 n).map fun i => s.rd64 (cb + a + 8 * i)
  let w := ws 0 8
  let hw (i : Nat) : Word := w.getD i 0
  if !headOk w || (ws 0x7C0 8).any (· ≠ 0) then none
  else
    let binds := (rangeFrom 0 8).map fun i => s.readBind (cb + 0x590 + 56 * i) (fld (hw 6) (7 * i) 7)
    let t := ({ s with focus := ⟨e, false⟩ } : State).setEng e { Engine.reset with gang := some g.gk }
    let bad := binds.any fun b => match b with | some y => (t.bindFault y.write y.h 0 y.geo).isSome | none => false
    match s.readLoops false (cb + 0x470) (fld (hw 1) 48 3), s.readLoops true (cb + 0x500) (fld (hw 2) 48 3),
        s.readRecords base g.gk k 0 (fld (hw 0) 32 6) with
    | some lp, some ls, some jobs =>
      if bad then none
      else
        let regs (n : Nat) (l : List Word) : Tbl Word := ((l.take n).zipIdx).foldl (fun t (v, i) => tput 0 t (i + 1) v) []
        let toks (a n : Nat) : Tbl (BitVec 32) := (rangeFrom 0 n).foldl (fun t i => tput 0 t i (.ofNat 32 (s.rdNat (cb + a + 4 * i) 4))) []
        let q (l : List Word) : List SEnt := l.map fun v => ⟨v, .ready⟩
        let accs := (s.mem.filter fun c => base ≤ c.1 && c.1 < base + 0x100000).map fun (a, b) => (a - base, b)
        let y : Engine :=
          { Engine.reset with
              prim := { Stream.reset with
                pc := .ofNat 64 (fld (hw 1) 0 48), ended := (hw 0).getLsbD 0, g := regs 31 (ws 0x40 31), sq := q (ws 0x1B0 16)
                toks := toks 0x750 8, loops := lp, slack := .ofNat 4 (fld (hw 3) 12 4), bankStatus := .ofNat 4 (fld (hw 3) 20 4)
                cq := readBank (ws 0x780 4), lastClk := some s.clk.toNat }
              sec := { Stream.reset with
                pc := .ofNat 64 (fld (hw 2) 0 48), ended := (hw 0).getLsbD 1, g := regs 15 (ws 0x138 15), sq := q (ws 0x230 8)
                toks := toks 0x770 4, loops := ls, slack := .ofNat 4 (fld (hw 3) 16 4), bankStatus := .ofNat 4 (fld (hw 3) 24 4)
                cq := readBank (ws 0x7A0 4), lastClk := some s.clk.toNat }
              hasSec := !(hw 0).getLsbD 2
              h := (rangeFrom 0 16).foldl (fun t i => tput Handle.null t i ⟨.ofNat 128 (s.rdNat (cb + 0x270 + 16 * i) 16), (hw 3).getLsbD (32 + i)⟩) []
              v := (rangeFrom 0 32).foldl (fun t i => tput 0 t i (bytesVec (s.bytes (base + 0x100000 + 0x100 * i) 256))) []
              p := (rangeFrom 0 8).foldl (fun t i => tput 0 t i (.ofNat 256 (s.rdNat (cb + 0x370 + 32 * i) 32))) []
              vq := (rangeFrom 0 16).map fun i => ⟨bytesVec (s.bytes (base + 0x102000 + 0x100 * i) 256), .ready⟩
              rb := .ofNat 4 (fld (hw 3) 8 4), astat := .ofNat 4 (fld (hw 3) 0 4), rmode := .ofNat 3 (fld (hw 3) 4 3)
              rseed := .ofNat 32 (fld (hw 4) 0 32)
              binds := (binds.zipIdx).foldl (fun t (b, i) => tput none t i b) []
              acc := accs, accFlags := (rangeFrom 0 8).foldl (fun t i => tput 0 t i (.ofNat 4 (fld (hw 4) (32 + 4 * i) 4))) []
              drn := (hw 5).getLsbD 0, dacc := fin8 (fld (hw 5) 1 3), row := fld (hw 5) 4 8, sends := restoredSends m (fld (hw 5) 16 16)
              gang := some g.gk, holder := (s.eng e).holder, member := k, stat := .restoring, frame := f }
        let drain := if y.drn then (s.setEng e y).restoredDrain m e y.dacc else none
        some ({ y with drain := drain, drn := drain.isSome }, jobs)
    | _, _, _ => none

/-- Re-issue jobs in record order (R422): nothing is charged, and each counts as issued now. -/
def State.reissue (s : State) (g : Gang) (e : Nat) : List CopyJob → State
  | [] => s
  | j :: js =>
    if shpRows j.shp ≤ j.row then s.reissue g e js
    else
      let (id, s) := s.fresh
      let k := { j with id := id, phys := (s.pickEngine g j.ent.toNat).getD ((g.engs.head?).getD 0) }
      let s : State := { s with copies := s.copies ++ [k] }
      (if j.list then s else s.modEng e fun x => x.modStr j.sec fun y => { y with lags := y.lags ++ [⟨id, y.cycle, .engine⟩] }).reissue g e js

/-- Load member k of a gang from frame f onto core e, or take the frame-check trap on its gang (R369, R422). -/
def State.restoreTo (s : State) (gk k f e lent : Nat) : State :=
  match s.gangOf gk with
  | none => s
  | some g => match g.members[k]? with
    | none => s
    | some m => match s.readFrame g k m f e with
      | none => s.gangTrap gk k false none 0 (trapOf 0x2B 0)
      | some (x, jobs) =>
        let s := s.setEng e x
        let s := s.setMember gk k fun n => { n with st := .running e, sends := [], drain := none, held := [], claim := none, lent := lent }
        (s.freeFrame g.clu f).reissue g e jobs

/-- Saved members of a gang with their frames. -/
def Gang.savedMembers (g : Gang) : List (Nat × Nat) :=
  (g.members.zipIdx).filterMap fun (m, i) => match m.st with | .saved f => some (i, f) | _ => none

/-- The first saved member of a gang whose frame fails its checks (R369). -/
def State.badFrame (s : State) (g : Gang) : Option Nat :=
  (g.savedMembers.find? fun (i, f) => match g.members[i]? with
    | some m => (s.readFrame g i m f (4 * g.clu)).isNone
    | none => false).map (·.1)

/-- Restore one gang whole onto free cores of its cluster, the lowest in member order: DESIGN CHOICE, log 100. -/
def State.restoreGang (s : State) (gk : Nat) : State :=
  let s := s.withdraw gk
  match s.gangOf gk with
  | none => s
  | some g =>
    let engs := (s.freeEngs g.clu).take g.dem
    let cores := (s.freeCores g.clu).take g.need
    let (n, s) := s.fresh
    let s := s.modGang gk fun x => { x with st := .resident, admitted := n, engs := engs }
    let s := (g.savedMembers.zip cores).foldl (fun s ((k, f), e) =>
      (s.modEng e fun x => { x with holder := some gk }).restoreTo gk k f e 0) s
    s.pauseUpdate g.ctx

/-- The accesses of a frame have all performed (R419). -/
def State.noneHeld (s : State) (clu f : Nat) : Bool := s.accs.all fun a => a.eng != frameKey clu f

/-- GANG_RESTORE: a saved gang, with its cohort, is restored whole once R17 holds and its held accesses have performed; a frame
that fails its checks traps its gang instead (R18, R369, R392, R419). -/
def execGangRestore (g : Nat) (s : State) : Res :=
  .next (match s.gangOf g with
    | none => s
    | some x =>
      let gs := s.mates x
      if x.st != .saved || !s.mayEnter x || !(gs.all fun h => h.frames.all fun f => s.noneHeld h.clu f) then s
      else match gs.findSome? fun h => (s.badFrame h).map fun i => (h.gk, i) with
        | some (k, i) => s.gangTrap k i false none 0 (trapOf 0x2B 0)
        | none => gs.foldl (fun s h => s.restoreGang h.gk) s)

/-- The core, held but not occupied, on which member k of gang gk can be restored (R30): the one that was vacated for it, else one of its own
gang's, else any, the lowest of several and none that waits for another task: DESIGN CHOICE, log 100. -/
def State.lentCore (s : State) (gk k clu : Nat) : Option Nat :=
  let claims := s.gangs.flatMap fun g => (g.members.zipIdx).filterMap fun (m, i) => if g.gk = gk ∧ i = k then none else m.claim
  let mine := ((s.gangOf gk).bind fun g => g.members[k]?).bind Member.claim
  let open_ (e : Nat) : Bool :=
    (s.eng e).gang.isNone && (s.accs.all fun a => a.eng != e) && !claims.contains e &&
      (match (s.eng e).holder.bind s.gangOf with | some h => h.st == .resident || h.st == .saving | none => false)
  (((coresOf clu).find? fun e => open_ e && mine == some e).or ((coresOf clu).find? fun e => open_ e && (s.eng e).holder == some gk)).or
    ((coresOf clu).find? open_)

/-- The borrowing task of a cluster that was lent its core last among those not yet asked to leave (R30), as its core. -/
def State.lastBorrower (s : State) (clu : Nat) : Option Nat :=
  ((coresOf clu).filter fun e => (s.eng e).gang.isSome && (s.eng e).gang != (s.eng e).holder && !(s.eng e).saveReq).foldl (fun acc e =>
    let lent (d : Nat) : Nat := match (s.eng d).gang.bind s.gangOf with
      | some h => (h.members[(s.eng d).member]?.map (·.lent)).getD 0
      | none => 0
    match acc with
    | none => some e
    | some d => if lent d < lent e then some e else some d) none

/-- The borrowing task on core e is asked to leave it at its next iteration boundary, for member k of gang gk (R30). -/
def State.askBorrower (s : State) (gk k e : Nat) : State :=
  match (s.eng e).gang.bind s.gangOf with
  | none => s
  | some b =>
    let us := (s.part (s.ctx b.ctx).part.val).pdeadl
    let s := (s.modEng e fun y => { y with saveReq := true }).setMember gk k fun m => { m with claim := some e }
    s.modGang b.gk fun y => if y.deadline.isSome then y else { y with deadline := some (s.clk.toNat + us * usClk), ackd := false }

/-- PARKED_TASK_RESTORE: a parked task whose held accesses have all performed is restored on a held core that no task occupies;
where there is none, the last borrower is asked to leave its core, which then waits for this task (R30, R369, R422). -/
def execParkedTaskRestore (g member : Nat) (s : State) : Res :=
  .next (match s.gangOf g with
    | none => s
    | some x => match x.members[member]? with
      | none => s
      | some m => match m.st with
        | .parked f =>
          if x.st != .resident || x.trapped || !s.noneHeld x.clu f then s
          else match s.lentCore g member x.clu with
            | some e =>
              let (n, s) := s.fresh
              s.restoreTo g member f e (if (s.eng e).holder = some g then 0 else n + 1)
            | none =>
              if (match m.claim with | some e => (s.eng e).saveReq | none => false) then s
              else match s.lastBorrower x.clu with
                | none => s
                | some e => s.askBorrower g member e
        | _ => s)

end Sys2Proof.Machine
end

