-- ==== Sys2Proof/Machine/Orrery.lean ====
section
/-!
DEFINITION. Orrery (R400 to R412): the free pools, victims, evictions, fetches, moves and migrations; OTSYNC (R398), page
retirement (R426), retries (R412, R420) and the remote counters' decay (R414).
-/
namespace Sys2Proof.Machine

/-! ### Copies of whole ranges, tags included -/

/-- Copy n bytes from a to b with their tags; both are multiples of 16. -/
def State.copyRange (s : State) (a b n : Nat) : State :=
  let tg := (s.tags.filter fun q => a / 16 ≤ q && q < (a + n) / 16).map fun q => q - a / 16 + b / 16
  let s := s.put b (s.bytes a n)
  { s with tags := tg.foldl (fun t q => tagPut t q true) s.tags }

/-! ### Residency words (R400) -/

/-- Write a residency word (R400). -/
def State.putRes (s : State) (c n : Nat) (res pin : Bool) (gen landed : Nat) : State :=
  s.put64 (s.resLoc c n) (pack [(63, 1, res.toNat), (62, 1, pin.toNat), (32, 30, gen), (0, 32, landed)])

/-! ### Allocations and victims (R407, R408) -/

/-- A whole allocation: a layer, or a fast-tier object of no layer. -/
structure Alloc where
  ctx : Nat
  layer : Option Nat
  oid : Nat

def State.allocOids (s : State) (a : Alloc) : List Nat := match a.layer with | some n => s.layerOids a.ctx n | none => [a.oid]

/-- The extents of an allocation's objects. -/
def State.allocExts (s : State) (a : Alloc) : List Extent :=
  (s.allocOids a).flatMap fun o => match s.objEnt a.ctx o with
    | some x => if x.space.val = 2 then (s.extsOf a.ctx o x).getD [] else []
    | none => []

/-- The allocations of a partition that hold fast granules. -/
def State.allocs (s : State) (p : Nat) : List Alloc :=
  ((tkeys s.ctxs).filter fun c => (s.ctx c).part.val = p).flatMap fun c =>
    let ls := ((rangeFrom 0 (s.layers c)).map fun n => Alloc.mk c (some n) 0)
    let os := ((s.oidsOf c).filter fun o => match s.objEnt c o with | some x => x.space.val = 2 && x.layer = 0xFFFF | none => false).map fun o => Alloc.mk c none o
    (ls ++ os).filter fun a => (s.allocExts a).any fun e => e.st.val ≠ 0

/-- PRIO, PIN and NEXTU of an allocation; a layer is pinned by its word or its entries (R410). -/
def State.allocInfo (s : State) (a : Alloc) : Nat × Bool × Nat :=
  match a.layer with
  | some n =>
    let nx := match (s.layerOids a.ctx n).head?.bind (s.objEnt a.ctx) with | some x => x.nextu | none => 0
    let pr := match (s.layerOids a.ctx n).head?.bind (s.objEnt a.ctx) with | some x => x.prio | none => s.layerPrio a.ctx n
    let pin := (s.layerOids a.ctx n).any fun o => match s.objEnt a.ctx o with | some x => x.pin | none => false
    (pr, (s.resWord a.ctx n).getLsbD 62 || pin, nx)
  | none => match s.objEnt a.ctx a.oid with | some x => (x.prio, x.pin, x.nextu) | none => (0, false, 0)

/-- The order of victims: a goes before b (R408). -/
def State.victimBefore (s : State) (a b : Alloc) : Bool :=
  let (pa, _, na) := s.allocInfo a
  let (pb, _, nb) := s.allocInfo b
  let da := (na + 2 ^ 32 - (s.ctx a.ctx).opstep.toNat) % 2 ^ 32
  let db := (nb + 2 ^ 32 - (s.ctx b.ctx).opstep.toNat) % 2 ^ 32
  pa < pb || (pa == pb && (db < da || (da == db && (a.ctx < b.ctx || (a.ctx == b.ctx && match a.layer, b.layer with
    | some m, some n => m < n
    | some _, none => true
    | none, some _ => false
    | none, none => a.oid < b.oid)))))

/-- The job is fetching the allocation. -/
def OrJob.fetches (a : Alloc) : OrJob → Bool
  | .fetchLayer c n _ _ => c == a.ctx && a.layer == some n
  | .fetchObj c o _ => c == a.ctx && a.layer.isNone && o == a.oid
  | _ => false

/-- The allocation may be evicted for a request of priority pr: no fetch of it is under way (R408). -/
def State.eligible (s : State) (self : Alloc → Bool) (pr : Nat) (a : Alloc) : Bool :=
  let (pa, pin, _) := s.allocInfo a
  let x := s.part (s.ctx a.ctx).part.val
  pa ≤ pr && !pin && !self a && !x.job.fetches a && !x.djob.fetches a && (s.allocExts a).all fun e => e.st.val < 2

/-- Fast granules that an allocation holds. -/
def State.allocSize (s : State) (a : Alloc) : Nat := ((s.allocExts a).map fun e => if e.st.val = 1 then e.ng else 0).sum

def firstAlloc (s : State) (l : List Alloc) : Option Alloc :=
  l.foldl (fun acc a => match acc with | none => some a | some b => if s.victimBefore a b then some a else some b) none

/-- Victims in order until the pool would hold `need` granules; none where they cannot supply them. -/
def State.chooseVictims (s : State) (need : Nat) (l : List Alloc) (have_ : Nat) : Nat → Option (List Alloc)
  | 0 => if need ≤ have_ then some [] else none
  | f + 1 =>
    if need ≤ have_ then some []
    else match firstAlloc s l with
      | none => none
      | some a =>
        let rest := l.filter fun b => !(b.ctx == a.ctx && b.layer == a.layer && b.oid == a.oid)
        (s.chooseVictims need rest (have_ + s.allocSize a) f).map (a :: ·)

/-- Steps 1 and 2 of an eviction (R404): the layer's word closes, every granule goes to TRANSIT. -/
def State.startEvict (s : State) (a : Alloc) (by_ : Nat) : State :=
  let s := match a.layer with
    | none => s
    | some n =>
      let w := s.resWord a.ctx n
      (s.putRes a.ctx n false (w.getLsbD 62) (fld w 32 30) 0).modCtx a.ctx fun x =>
        { x with evictedBy := tset x.evictedBy n (by_, (s.allocInfo a).2.1), faulted := x.faulted.filter (· ≠ n) }
  let oids := s.allocOids a
  let s := oids.foldl (fun s o => match s.objEnt a.ctx o with
    | some x => match s.extsOf a.ctx o x with
      | some es => s.putExts a.ctx o x (es.map fun e => if e.st.val = 1 then { e with st := 3 } else e)
      | none => s
    | none => s) s
  s.modPart (s.ctx a.ctx).part.val fun x => { x with evicts := x.evicts ++ [⟨a.ctx, a.layer, oids⟩] }

/-- Evictions of a partition that are under way will free this many granules. -/
def State.leaving (s : State) (p : Nat) : Nat :=
  ((s.part p).evicts.map fun v => (v.oids.map fun o => match s.objEnt v.ctx o with
    | some x => (((s.extsOf v.ctx o x).getD []).map fun e => if e.st.val = 3 then e.ng else 0).sum
    | none => 0).sum).sum

/-- The pool has room for `need` granules, or evictions for it begin where eligible allocations can supply it (R408). -/
def State.makeRoom (s : State) (p need pr by_ : Nat) (self : Alloc → Bool) : State :=
  let have_ := runTotal (s.freeFast p) + s.leaving p
  if need ≤ have_ then s
  else
    let l := (s.allocs p).filter (s.eligible self pr)
    match s.chooseVictims need l have_ l.length with
    | none => s
    | some vs => vs.foldl (fun s a => s.startEvict a by_) s

/-- Free the granules of one object after an eviction: write back what is not CLEAN, SWAPPED, return the granules (R404). -/
def State.freeGranules (s : State) (c oid p : Nat) : State :=
  match s.objEnt c oid with
  | none => s
  | some x => match s.extsOf c oid x with
    | none => s
    | some es =>
      let s := es.foldl (fun s e =>
        if e.st.val ≠ 3 then s
        else (rangeFrom 0 e.ng).foldl (fun s k =>
          if e.clean then s else s.copyRange (locFast p ((e.fg + k) * 65536)) (locCap ((e.bg + k) * 65536)) 65536) s) s
      s.putExts c oid x (es.map fun e => if e.st.val = 3 then { e with st := 0 } else e)

/-- Every request of a context's objects admitted so far has performed. -/
def State.admittedDone (s : State) (c : Nat) (oids : List Nat) : Bool :=
  s.accs.all fun a => a.parked || a.obj.1 != c || !oids.contains a.obj.2 || (a.kind.isLoad && a.taken.isSome) || !(a.kind.isLoad || a.kind.isStore)

/-- Step 3 of every eviction whose admitted requests have performed (R404). -/
def State.settleEvicts (s : State) (p : Nat) : State :=
  (s.part p).evicts.foldl (fun s v =>
    if s.admittedDone v.ctx v.oids then
      let s := v.oids.foldl (fun s o => s.freeGranules v.ctx o p) s
      s.modPart p fun x => { x with evicts := x.evicts.filter (· ≠ v) }
    else s) s

/-! ### Commands (R401, R402, R405) -/

def ringSize (base : Word) : Nat := 2 ^ (fld base 0 4 + 4)

/-- The runtime's commands that wait go onto the ring as far as it has room (R405). -/
def State.ringIn (s : State) (p : Nat) : List (List Word) → State
  | [] => s.modPart p fun x => { x with cmds := [] }
  | w :: ws =>
    let x := s.part p
    if ringRoom x.orcWidx x.orcRidx (ringSize x.orcbase) then
      let s := s.putWords (locFast p (fld x.orcbase 6 42 * 64 + 32 * (x.orcWidx.toNat % ringSize x.orcbase))) w
      (s.modPart p fun y => { y with orcWidx := y.orcWidx + 1 }).ringIn p ws
    else s.modPart p fun x => { x with cmds := w :: ws }

/-- The command at the head of the ring, where Orrery may start it: no job and no demand fetch goes before it, and no event
is held (R401, R402, R405). -/
def State.headCmd (s : State) (p : Nat) : Option (List Word) :=
  let x := s.part p
  if x.orcRidx = x.orcWidx ∨ x.job ≠ .idle ∨ x.djob ≠ .idle ∨ x.demands ≠ [] ∨ x.orEvents ≠ [] then none
  else
    let l := locFast p (fld x.orcbase 6 42 * 64 + 32 * (x.orcRidx.toNat % ringSize x.orcbase))
    some ((rangeFrom 0 4).map fun k => s.rd64 (l + 8 * k))

/-- The command at the head ends with an event (R402). -/
def State.cmdDone (s : State) (p : Nat) (w : List Word) (kind detail : Nat) : State :=
  let w0 := w.getD 0 0
  let w1 := w.getD 1 0
  let s := s.orEvent p (fld w0 32 32) (fld w0 8 10) detail kind (w1.getLsbD 63) (fld w1 0 20) 0 0
  s.modPart p fun x => { x with orcRidx := x.orcRidx + 1, job := .idle }

/-- The command of the job in progress. -/
def State.curCmd (s : State) (p : Nat) : List Word :=
  let x := s.part p
  let l := locFast p (fld x.orcbase 6 42 * 64 + 32 * (x.orcRidx.toNat % ringSize x.orcbase))
  (rangeFrom 0 4).map fun k => s.rd64 (l + 8 * k)

/-- Refusal 0x01: an unknown OPC or a non-zero reserved field. -/
def cmdBad (w : List Word) : Bool :=
  let g (k : Nat) : Word := w.getD k 0
  let mv := fld (g 0) 0 8 = 3
  !(1 ≤ fld (g 0) 0 8 && fld (g 0) 0 8 ≤ 3) || fld (g 0) 19 13 ≠ 0 || fld (g 1) 20 43 ≠ 0 || ((g 1).getLsbD 63 && fld (g 1) 12 8 ≠ 0) ||
    fld (g 2) 56 8 ≠ 0 || fld (g 3) 23 41 ≠ 0 || (!mv && (g 2 ≠ 0 || g 3 ≠ 0)) || (mv && fld (g 2) 32 24 = 0)

/-- What a command names: its allocation, or the refusal (R401). -/
def State.cmdAlloc (s : State) (p : Nat) (w : List Word) : Except Nat Alloc :=
  let c := fld (w.getD 0 0) 8 10
  let w1 := w.getD 1 0
  if (s.ctx c).part.val ≠ p then .error 2
  else if w1.getLsbD 63 then
    let n := fld w1 0 12
    if n < s.layers c then .ok ⟨c, some n, 0⟩ else .error 2
  else match s.objEnt c (fld w1 0 20) with
    | none => .error 2
    | some x => if x.space.val ≠ 2 then .error 5 else .ok ⟨c, none, fld w1 0 20⟩

/-! ### Fetches (R403, R405) -/

/-- Granules of an allocation in fetch order. -/
def State.fetchList (s : State) (a : Alloc) : List (Nat × Nat) :=
  (s.allocOids a).flatMap fun o => match s.objEnt a.ctx o with
    | some x => if x.space.val = 2 then (rangeFrom 0 x.granules).map fun g => (o, g) else []
    | none => []

/-- Begin the fetch of a layer: its word shows no byte landed. -/
def State.beginFetch (s : State) (a : Alloc) : State × OrJob :=
  match a.layer with
  | some n =>
    let w := s.resWord a.ctx n
    (s.putRes a.ctx n false (w.getLsbD 62) (fld w 32 30) 0, .fetchLayer a.ctx n (s.fetchList a) 0)
  | none =>
    let todo := (s.fetchList a).filter fun (o, g) => match s.objEnt a.ctx o with
      | some x => match (s.extsOf a.ctx o x).bind (extAt · g) with | some e => e.st.val = 0 || e.st.val = 3 | none => false
      | none => false
    (s, .fetchObj a.ctx a.oid (todo.map (·.2)))

inductive Claimed where
  | done (s : State) | wait (s : State)

/-- Bring one granule in: claim a fast granule, evicting where the pool is empty, copy from its backing (R403, R408). -/
def State.fetchGranule (s : State) (c oid g pr : Nat) (self : Alloc → Bool) : Claimed :=
  let p := (s.ctx c).part.val
  match s.objEnt c oid with
  | none => .done s
  | some x => match s.extsOf c oid x with
    | none => .done s
    | some es => match extAt es g with
      | none => .done s
      | some e =>
        if e.st.val = 1 ∨ e.st.val = 2 then .done s
        else if e.st.val = 3 then .wait (s.settleEvicts p)
        else match s.claim p with
          | (none, _) => .wait ((s.makeRoom p 1 pr c self).settleEvicts p)
          | (some fg, s) =>
            let s := s.copyRange (locCap ((e.bg + (g - e.og)) * 65536)) (locFast p (fg * 65536)) 65536
            .done (s.putExts c oid x (setGran g (fun e => { e with st := 1, fg := fg }) es))

/-- Bytes of granule g of an object. -/
def State.granBytes (s : State) (c oid g : Nat) : Nat := match s.objEnt c oid with | some x => min 65536 (x.size - g * 65536) | none => 0

/-- Granule g of an object is RESIDENT or MIGRATING, or has no extent. -/
def State.granHere (s : State) (c oid g : Nat) : Bool :=
  match (s.objEnt c oid).bind fun x => (s.extsOf c oid x).bind (extAt · g) with
  | some e => e.st.val = 1 || e.st.val = 2
  | none => true

/-- One step of a fetch: the next granule, or the end; `none` where the fetch has ended. A layer of which an eviction has taken granules
meanwhile brings them in again before RES is set (R400, R403). -/
def State.fetchStep (s : State) (j : OrJob) : State × Option OrJob :=
  match j with
  | .fetchLayer c n todo landed =>
    let w := s.resWord c n
    let prio := (s.allocInfo ⟨c, some n, 0⟩).1
    match todo with
    | [] =>
      let gone := (s.fetchList ⟨c, some n, 0⟩).filter fun (o, g) => !s.granHere c o g
      if !gone.isEmpty then (s, some (.fetchLayer c n gone (landed - (gone.map fun (o, g) => s.granBytes c o g).sum)))
      else
      let s := s.putRes c n true (w.getLsbD 62) (fld w 32 30 + 1) (s.layerBytes c n)
      (s.modCtx c fun x => { x with everRes := if x.everRes.contains n then x.everRes else x.everRes ++ [n] }, none)
    | (o, g) :: rest => match s.fetchGranule c o g prio fun a => a.ctx == c && a.layer == some n with
      | .wait s => (s, some j)
      | .done s =>
        let m := landed + s.granBytes c o g
        (s.putRes c n false (w.getLsbD 62) (fld w 32 30) m, some (.fetchLayer c n rest m))
  | .fetchObj c oid todo => match todo with
    | [] => (s, none)
    | g :: rest =>
      let prio := match s.objEnt c oid with | some x => x.prio | none => 0
      match s.fetchGranule c oid g prio fun a => a.ctx == c && a.layer.isNone && a.oid == oid with
      | .wait s => (s, some j)
      | .done s => (s, some (.fetchObj c oid rest))
  | _ => (s, none)

/-- FETCH: the partition's FETCH command starts, brings in its next granule or ends; a command of an unknown OPC is refused
(R401 to R403). -/
def execFetch (p : Fin 4) (s : State) : Res :=
  .next (
    let q := p.val
    let s := (s.settleEvicts q).flushOr q ((s.part q).orEvents)
    let s := s.ringIn q (s.part q).cmds
    match (s.part q).job with
    | .fetchLayer _ _ _ _ | .fetchObj _ _ _ =>
      let (t, j) := s.fetchStep (s.part q).job
      (match j with
      | some j => t.modPart q fun x => { x with job := j }
      | none => t.cmdDone q (t.curCmd q) 1 0)
    | .idle => match s.headCmd q with
      | none => s
      | some w =>
        let opc := fld (w.getD 0 0) 0 8
        if cmdBad w then s.cmdDone q w 2 1
        else if opc ≠ 1 then s
        else match s.cmdAlloc q w with
          | .error n => s.cmdDone q w 2 n
          | .ok a =>
            if (match a.layer with | some n => s.resSet a.ctx n | none => false) then s.cmdDone q w 1 0
            else
              let (t, j) := s.beginFetch a
              t.modPart q fun x => { x with job := j }
    | _ => s)

/-- The demand fetch that goes next: higher PRIO, then earlier arrival (R405). -/
def nextDemand (l : List DFetch) : Option DFetch :=
  l.foldl (fun acc d => match acc with | none => some d | some e => if e.prio < d.prio then some d else some e) none

/-- DEMAND_FETCH: the next demand fetch of a partition starts, brings in its next granule or ends (R405). -/
def execDemandFetch (p : Fin 4) (s : State) : Res :=
  .next (
    let q := p.val
    let s := s.settleEvicts q
    match (s.part q).djob with
    | .fetchLayer _ _ _ _ | .fetchObj _ _ _ =>
      let (t, j) := s.fetchStep (s.part q).djob
      t.modPart q fun x => { x with djob := j.getD .idle }
    | _ => match nextDemand (s.part q).demands with
      | none => s
      | some d =>
        let s := s.modPart q fun x => { x with demands := x.demands.filter (· ≠ d) }
        match d.layer with
        | some n =>
          if s.resSet d.ctx n || (s.part q).job.fetching d.ctx d.layer d.oid d.granule then s
          else
            let (t, j) := s.beginFetch ⟨d.ctx, some n, 0⟩
            t.modPart q fun x => { x with djob := j }
        | none => s.modPart q fun x => { x with djob := .fetchObj d.ctx d.oid [d.granule] })

/-! ### Evictions (R404, R410, R426) -/

/-- Requests of TALLOC that wait for fast granules are tried again (R296, R408). -/
def State.retryRoom (s : State) (p : Nat) : State :=
  ((tkeys s.ctxs).filter fun c => (s.ctx c).part.val = p).foldl (fun s c => match (s.ctx c).awaits with
    | .room 0 n pr => s.makeRoom p n pr c fun _ => false
    | _ => s) s

/-- EVICT: evictions of the partition advance; an EVICT command starts or ends (R401, R404). -/
def execEvict (p : Fin 4) (s : State) : Res :=
  .next (
    let q := p.val
    let s := ((s.settleEvicts q).retryRoom q).flushOr q ((s.part q).orEvents)
    match (s.part q).job with
    | .evict c l os =>
      if (s.part q).evicts.any fun v => v.ctx == c && v.layer == l && v.oids == os then s else s.cmdDone q (s.curCmd q) 1 0
    | .idle => match s.headCmd q with
      | none => s
      | some w =>
        if cmdBad w || fld (w.getD 0 0) 0 8 ≠ 2 then s
        else match s.cmdAlloc q w with
          | .error n => s.cmdDone q w 2 n
          | .ok a =>
            let inLayer : Bool := match a.layer with
              | none => (match s.objEnt a.ctx a.oid with | some x => decide (x.layer ≠ 0xFFFF) | none => false)
              | some _ => false
            if inLayer then s.cmdDone q w 2 2
            else if (s.allocInfo a).2.1 && !(w.getD 0 0).getLsbD 18 then s.cmdDone q w 2 4
            else (s.startEvict a a.ctx).modPart q fun x => { x with job := .evict a.ctx a.layer (s.allocOids a) }
    | _ => s)

/-- The allocation that holds fast granule g of a partition. -/
def State.holderOf (s : State) (p g : Nat) : Option Alloc :=
  (s.allocs p).find? fun a => (s.allocExts a).any fun e => (e.st.val = 1 || e.st.val = 2) && e.fg ≤ g && g < e.fg + e.ng

/-- A migration from or to a page that is taken out of use is given up: the granule is RESIDENT where it was (R411, R426; log 66). -/
def State.dropMigr (s : State) (p fg : Nat) : State :=
  match (s.part p).migr with
  | none => s
  | some m => match s.objEnt m.ctx m.oid with
    | none => s
    | some x => match s.extsOf m.ctx m.oid x with
      | none => s
      | some es => match extAt es m.og with
        | none => s
        | some e =>
          if fg = m.fg ∨ fg = e.fg + m.og - e.og then
            (s.putExts m.ctx m.oid x (setGran m.og (fun e => { e with st := 1 }) es)).modPart p fun y =>
              { y with migr := none, job := match y.job with | .moveObj c o og ng f k => .moveObj c o og ng f (k + 1) | j => j }
          else s

/-- PAGE_RETIREMENT: the allocation that holds the page is evicted as with FORCE, and the page leaves the pool until reset (R426). -/
def execPageRetirement (p : Fin 4) (fg : Nat) (s : State) : Res :=
  .next (if (s.part p.val).gone.contains fg then s
    else
      let s := (s.modPart p.val fun x => { x with gone := x.gone ++ [fg] }).dropMigr p.val fg
      match s.holderOf p.val fg with
      | some a => s.startEvict a a.ctx
      | none => s)

/-! ### Moves and migration (R406, R411, R412) -/

/-- The refusal of a MOVE command, if any (R401). -/
def State.moveBad (s : State) (p : Nat) (w : List Word) : Option Nat :=
  let og := fld (w.getD 2 0) 0 32
  let ng := fld (w.getD 2 0) 32 24
  let fg := fld (w.getD 3 0) 0 23
  if (w.getD 1 0).getLsbD 63 then some 5
  else match s.cmdAlloc p w with
    | .error n => some n
    | .ok a => match s.objEnt a.ctx a.oid with
      | none => some 2
      | some x =>
        if x.granules < og + ng then some 2
        else if !runHas (s.freeFast p) fg ng then some 3
        else none

/-- MOVE: a MOVE command starts, handles its next granule or ends: a SWAPPED granule is fetched into its destination, a
RESIDENT one begins to migrate (R406, R411). A granule whose destination has been taken out of use stays where it is (R426; log 66). -/
def execMove (p : Fin 4) (s : State) : Res :=
  .next (
    let q := p.val
    let s := (s.settleEvicts q).flushOr q ((s.part q).orEvents)
    match (s.part q).job with
    | .moveObj c oid og ng fg k =>
      let next (s : State) : State := s.modPart q fun x => { x with job := .moveObj c oid og ng fg (k + 1) }
      if (s.part q).migr.isSome then s
      else if ng ≤ k then s.cmdDone q (s.curCmd q) 1 0
      else if (s.part q).gone.contains (fg + k) then next s
      else (match s.objEnt c oid with
        | none => next s
        | some x => match s.extsOf c oid x with
          | none => next s
          | some es => match extAt es (og + k) with
            | none => next s
            | some e =>
              if e.st.val = 0 then
                let s := s.copyRange (locCap ((e.bg + (og + k - e.og)) * 65536)) (locFast q ((fg + k) * 65536)) 65536
                next (s.putExts c oid x (setGran (og + k) (fun e => { e with st := 1, fg := fg + k }) es))
              else if e.st.val = 1 then
                (s.putExts c oid x (setGran (og + k) (fun e => { e with st := 2 }) es)).modPart q fun y =>
                  { y with migr := some ⟨c, oid, og + k, fg + k, 0⟩ }
              else s)
    | .idle => match s.headCmd q with
      | none => s
      | some w =>
        if cmdBad w || fld (w.getD 0 0) 0 8 ≠ 3 then s
        else match s.moveBad q w with
          | some n => s.cmdDone q w 2 n
          | none =>
            let ng := fld (w.getD 2 0) 32 24
            let fg := fld (w.getD 3 0) 0 23
            s.modPart q fun x =>
              { x with job := .moveObj (fld (w.getD 0 0) 8 10) (fld (w.getD 1 0) 0 20) (fld (w.getD 2 0) 0 32) ng fg 0 }
    | _ => s)

/-- A location of the migrated granule under its new translation. -/
def remap (a b l : Nat) : Nat := if a ≤ l ∧ l < a + 65536 then l - a + b else l

/-- The commit of a migration: the extent takes its destination, requests under way follow it, the source is free (R411). -/
def State.commitMigr (s : State) (p : Nat) (m : Migr) (x : ObjEnt) (es : List Extent) (src : Nat) : State :=
  let a := locFast p (src * 65536)
  let b := locFast p (m.fg * 65536)
  let s := s.putExts m.ctx m.oid x (setGran m.og (fun e => { e with st := 1, fg := m.fg }) es)
  let s := { s with accs := s.accs.map fun (v : Access) =>
    { v with parts := if v.parked then v.parts else v.parts.map fun (q : Part) => { q with loc := remap a b q.loc }
             tagQ := if v.parked then v.tagQ else v.tagQ.map fun (l, t) => (remap a b l, t) } }
  s.modPart p fun y =>
    { y with migr := none, job := match y.job with | .moveObj c o og ng fg k => .moveObj c o og ng fg (k + 1) | j => j }

/-- MIGRATION_LINE_COPY: the next line of a migrating granule is written back and copied; after the last the migration commits
(R411). -/
def execMigrationLineCopy (p : Fin 4) (s : State) : Res :=
  .next (match (s.part p.val).migr with
    | none => s
    | some m => match s.objEnt m.ctx m.oid with
      | none => s
      | some x => match s.extsOf m.ctx m.oid x with
        | none => s
        | some es => match extAt es m.og with
          | none => s
          | some e =>
            let src := e.fg + m.og - e.og
            if 512 ≤ m.line then s.commitMigr p.val m x es src
            else
              let a := locFast p.val (src * 65536 + 128 * m.line)
              if !s.allQuiet a 128 then s
              else
                let s := s.copyRange a (locFast p.val (m.fg * 65536 + 128 * m.line)) 128
                let n : Migr := { m with line := m.line + 1 }
                let s := s.modPart p.val fun y => { y with migr := some n }
                if n.line = 512 then s.commitMigr p.val n x es src else s)

/-- WAIT_HINT_RETRY: a request that a migration holds back receives a wait hint and is counted (R412). -/
def execWaitHintRetry (id : Nat) (s : State) : Res :=
  .next (
    let acc := s.accs.any fun a => a.id == id && !a.parked && a.parts.any fun p => s.migBlocked p.loc p.n
    let bank := s.banks.any fun b => b.id == id && match s.bankPlace b.ctx b.oid b.addr b.op.len true with
      | (.at_ l, _) => s.migBlocked l b.op.len
      | _ => false
    let copy := s.copies.any fun j => j.id == id && j.started &&
      match s.reach (s.jobHome j).1 j.dst.oid (j.dst.cur + j.row * shpD j.shp + j.skip) (shpBytes j.shp - j.skip) with
      | .runs l => l.any fun (q, _, k) => s.migBlocked q k
      | _ => false
    if acc || bank || copy then s.modDev fun d => { d with rtrycnt := d.rtrycnt + 1 } else s)

/-! ### Yo-yo retries (R420) -/

/-- The parked access still meets a non-resident page. -/
def State.stillAbsent (s : State) (c oid a n : Nat) : Option (Nat × Option Nat × Nat) :=
  match s.reach c oid a n with
  | .absent prio y g => some (prio, y, g)
  | _ => none

/-- YO_YO_RETRY: a parked engine access is retried once its wait is over; the sixteenth that finds no page abandons it with an
error record and trap 0x28 (R420). -/
def execYoYoRetry (id : Nat) (s : State) : Res :=
  .next (
    let due (t : Option Nat) : Bool := match t with | some n => n ≤ s.clk.toNat | none => false
    match s.banks.find? (·.id == id) with
    | some b =>
      if !due b.retryAt then s
      else
        let upd (s : State) (f : BankCmd → BankCmd) : State := { s with banks := s.banks.map fun x => if x.id = id then f x else x }
        let src := if b.op = .rowcp ∨ b.op = .rowxf then s.stillAbsent b.ctx b.src.1 b.src.2 1024 else none
        match (s.stillAbsent b.ctx b.oid b.addr b.op.len).or src with
        | none => upd s fun x => { x with retryAt := none }
        | some (prio, y, g) =>
          if 16 ≤ b.retry then
            let s := s.errRecord 1 0 5 (.ofNat 64 b.addr) (some (b.ctx, b.oid))
            (s.bankGone b).engTrap b.eng b.sec b.pc ⟨0x28, 4, some b.oid, none, none⟩
          else
            let s := (s.absentReq b.ctx b.oid prio y g).1
            upd s fun x => { x with retry := x.retry + 1, retryAt := some (s.retryAt (x.retry + 1)) }
    | none => match s.copies.find? (·.id == id) with
      | some j =>
        if !due j.retryAt then s
        else
          let c := (s.jobHome j).1
          let src := if j.buf = [] then s.stillAbsent c j.src.oid (j.src.cur + j.row * shpS j.shp) (shpBytes j.shp) else none
          match src.or (s.stillAbsent c j.dst.oid (j.dst.cur + j.row * shpD j.shp + j.skip) (shpBytes j.shp - j.skip)) with
          | none => s.modJob id fun k => { k with retryAt := none }
          | some (prio, y, g) =>
            let (oid, at_) := if src.isSome then (j.src.oid, j.src.cur + j.row * shpS j.shp) else (j.dst.oid, j.dst.cur + j.row * shpD j.shp + j.skip)
            if 16 ≤ j.retry then (s.errRecord 1 0 5 (.ofNat 64 at_) (some (c, oid))).jobTrap j ⟨0x28, 1, some oid, none, none⟩
            else
              let s := (s.absentReq c oid prio y g).1
              s.modJob id fun k => { k with retry := k.retry + 1, retryAt := some (s.retryAt (k.retry + 1)) }
      | none => (tkeys s.clusters).foldl (fun s clu => match (s.clu clu).fills.findIdx? (·.id == id) with
        | none => s
        | some i => match (s.clu clu).fills[i]? with
          | none => s
          | some f =>
            if !due f.retryAt then s
            else
              let upd (s : State) (g : FillJob → FillJob) : State :=
                s.modClu clu fun x => { x with fills := x.fills.map fun y => if y.id = id then g y else y }
              let n := 2 ^ (s.clu clu).cacheK
              match s.fillReach f (f.blk * n) n with
              | .absent prio y g =>
                if 16 ≤ f.retry then
                  (s.errRecord 1 0 5 (.ofNat 64 (f.blk * n)) (some (f.ctx, f.h.oid))).fillTrap clu i f ⟨0x28, 2, some f.h.oid, none, none⟩
                else
                  let s := (s.absentReq f.ctx f.h.oid prio y g).1
                  upd s fun z => { z with retry := z.retry + 1, retryAt := some (s.retryAt (z.retry + 1)) }
              | _ => upd s fun y => { y with retryAt := none }) s)

/-! ### OTSYNC, prefetch, decay (R88, R398, R414) -/

/-- OTSYNC: the oldest OTSYNC of a partition completes once every request of its context that was admitted before its write has performed;
the window and export tables are as they stand now (R398, R431). -/
def execOtsync (p : Fin 4) (ctx : BitVec 10) (s : State) : Res :=
  .next (match (s.part p.val).otsQ with
    | [] => s
    | (c, n) :: rest =>
      if c ≠ ctx.toNat || !s.otQuiet c n fun _ => true then s
      else
        let x := s.part p.val
        let s := s.modPart p.val fun y => { y with otsQ := rest, otsDone := rest.isEmpty }
        s.modCtx c fun y => { y with winbase := x.winbase, wincnt := x.wincnt, expbase := x.expbase, expcnt := x.expcnt })

/-- L2_PREFETCHER: a fetch into an L2 changes no value that any access returns (R88). -/
def execL2Prefetcher (_clu : Nat) (s : State) : Res := .next s

/-- REMOTE_DECAY: every count of a partition is halved (R414). -/
def execRemoteDecay (p : Fin 4) (s : State) : Res :=
  .next (if (s.part p.val).rhDecay = 0 then s
    else s.modPart p.val fun x => { x with remote := x.remote.map fun (r : RemCnt) => { r with count := r.count / 2 } })

end Sys2Proof.Machine
end

