-- ==== Sys2Proof/Machine/Graph.lean ====
section
/-!
DEFINITION. Graph code (R277 to R299): descriptors, and the control, shape and descriptor instructions.
-/
namespace Sys2Proof.Machine

/-! ### Descriptors (R283 to R285) -/

namespace DescVal
def word (v : DescVal) (k : Nat) : Word := v.w.getD k 0
def rank (v : DescVal) : Nat := fld (v.word 0) 0 4
def fmt (v : DescVal) : ElemType := tyOf (fld (v.word 0) 8 4)
def layout (v : DescVal) : Nat := fld (v.word 0) 12 4
def layer (v : DescVal) : Nat := fld (v.word 0) 16 16
def valid (v : DescVal) : Bool := (v.word 0).getLsbD 32
def ro (v : DescVal) : Bool := (v.word 0).getLsbD 35
def sdesc (v : DescVal) : Nat := fld (v.word 0) 48 16
def skind (v : DescVal) : Nat := fld (v.word 1) 0 2
def axis (v : DescVal) : Nat := fld (v.word 1) 2 3
def group (v : DescVal) : Nat := fld (v.word 1) 16 16
def handle (v : DescVal) : Handle := ⟨(v.word 3).append (v.word 2), v.tag⟩
/-- Extent and stride of dimension j. -/
def ext (v : DescVal) (j : Nat) : Nat := fld (v.word (4 + j)) 0 32
def str (v : DescVal) (j : Nat) : Nat := fld (v.word (4 + j)) 32 32
def exts (v : DescVal) : List Nat := (rangeFrom 0 v.rank).map v.ext
def strs (v : DescVal) : List Nat := (rangeFrom 0 v.rank).map v.str
def size (v : DescVal) : Nat := (v.word 12).toNat
def prio (v : DescVal) : Nat := fld (v.word 13) 0 5
def nextu (v : DescVal) : Nat := fld (v.word 13) 32 32
def parent (v : DescVal) : Nat := fld (v.word 14) 0 16
/-- Elements of the tensor. -/
def count (v : DescVal) : Nat := v.exts.foldl (· * ·) 1
def setWord (v : DescVal) (k : Nat) (x : Word) : DescVal := { v with w := setAt v.w k x }
def setHandle (v : DescVal) (h : Handle) : DescVal :=
  { (v.setWord 2 (.ofNat 64 (h.bits.toNat % 2 ^ 64))).setWord 3 (.ofNat 64 (h.bits.toNat / 2 ^ 64)) with tag := h.tag }
def setExts (v : DescVal) (e s : List Nat) : DescVal :=
  { v with w := v.w.take 4 ++ ((e.zip s).map fun (a, b) => pack [(0, 32, a), (32, 32, b)]) ++ v.w.drop (4 + (e.zip s).length) }
/-- VALID and PIN. -/
def setFlags (v : DescVal) (valid pin : Bool) : DescVal :=
  let w := v.word 0
  v.setWord 0 (.ofNat 64 (w.toNat - fld w 32 2 * 2 ^ 32 + valid.toNat * 2 ^ 32 + pin.toNat * 2 ^ 33))
end DescVal

/-- K of R232 for any format of a matrix tile. -/
def tileK (t : ElemType) : Nat := if t.isDx then 32 else mmaK t

/-- The tile of a layout, dimension 0 by dimension 1 (R284). -/
def tileDims (lay : Nat) (t : ElemType) : Nat × Nat :=
  match lay with
  | 1 => (tileK t, 128)
  | 2 => (256, tileK t)
  | 3 => (256, 1024)
  | 4 => (256, 512)
  | 5 => (1024, 128)
  | _ => (1, 1)

/-- Bytes of a tile (R232, R233). -/
def tileSize (lay : Nat) (t : ElemType) : Nat :=
  match lay with
  | 3 => 0x18000
  | 4 => 0x14000
  | _ => (tileDims lay t).1 * (tileDims lay t).2 * t.width / 8

/-- The formats that a layout accepts (R284). -/
def layoutOk (lay : Nat) (t : ElemType) : Bool :=
  match lay with
  | 0 => true
  | 1 | 2 => match t with
    | .i8 | .f8e4 | .f8e5 | .f16 | .bf16 | .f32 | .f64 | .dx8 | .dx4 => true
    | _ => false
  | 3 | 4 => match t with
    | .i8 | .f8e4 | .f8e5 => true
    | _ => false
  | 5 => t == .n8
  | _ => false

def ceilDiv (a b : Nat) : Nat := (a + b - 1) / b

/-- Strides from the third dimension on: each is the one before times that dimension's extent. -/
def strideRun (s : Nat) : List Nat → List Nat
  | [] => []
  | e :: es => s :: strideRun (s * e) es

/-- The strides that packing gives (R284, R294). -/
def packStrides (lay : Nat) (t : ElemType) (ext : List Nat) : List Nat :=
  if lay = 0 then strideRun 1 ext
  else
    let a := ceilDiv (ext.getD 0 1) (tileDims lay t).1 * (tileDims lay t).1
    let b := ceilDiv (ext.getD 1 1) (tileDims lay t).2 * (tileDims lay t).2
    ([1, a] ++ strideRun (a * b) (ext.drop 2)).take ext.length

/-- The footprint of R285. -/
def DescVal.footprint (v : DescVal) : Nat :=
  let e := v.exts
  if e.any (· = 0) then 0
  else if v.layout = 0 then ((1 + ((e.zip v.strs).map fun (x, s) => (x - 1) * s).sum) * v.fmt.width + 7) / 8
  else
    let d := tileDims v.layout v.fmt
    ceilDiv (e.getD 0 1) d.1 * ceilDiv (e.getD 1 1) d.2 * ((e.drop 2).foldl (· * ·) 1) * tileSize v.layout v.fmt

/-- The descriptor breaks R283 or R284. An i32 tensor of dxw containers may name a scale plane (R318). -/
def DescVal.bad (v : DescVal) : Bool :=
  8 < v.rank || fld (v.word 0) 36 12 ≠ 0 || (v.word 0).getLsbD 34 || fld (v.word 0) 4 4 ≠ 0 ||
    fld (v.word 1) 32 32 ≠ 0 || fld (v.word 1) 5 11 ≠ 0 || fld (v.word 13) 5 27 ≠ 0 || fld (v.word 14) 16 48 ≠ 0 ||
    !layoutOk v.layout v.fmt || (v.fmt.isDx && v.sdesc = 0) || (!v.fmt.isDx && v.fmt ≠ .i32 && v.sdesc ≠ 0) || (v.skind = 0 && v.group ≠ 0) || (v.skind = 2 && v.rank ≤ v.axis) ||
    ((rangeFrom 0 8).any fun j => v.rank ≤ j && v.word (4 + j) ≠ 0) || (!v.valid && v.size ≠ 0) ||
    (v.layout ≠ 0 && v.strs ≠ packStrides v.layout v.fmt v.exts)

/-- Descriptor d of a context's image. -/
def State.desc (s : State) (c d : Nat) : DescVal :=
  ⟨(rangeFrom 0 16).map fun k => s.descWord c d k, (s.rdHandle (s.descLoc c d 2)).tag⟩

/-- Write descriptor d with the tag of its handle. -/
def State.putDesc (s : State) (c d : Nat) (v : DescVal) : State :=
  (s.putWords (s.descLoc c d 0) v.w).putHandle (s.descLoc c d 2) v.handle

/-! ### Code, attributes and values (R278, R280) -/

/-- At most n words of CODE from word pc. -/
def State.codeWords (s : State) (c pc n : Nat) : List Nat :=
  let (off, size) := s.section c 0x10
  (rangeFrom pc (min n (size / 4 - pc))).map fun k => s.rdNat (s.img c (off + 4 * k)) 4


def State.nattr (s : State) (c : Nat) : Nat := (s.section c 0x20).2 / 4
def State.attr (s : State) (c k : Nat) : Nat := s.rdNat (s.img c ((s.section c 0x20).1 + 4 * k)) 4

/-- A value operand as i64. -/
def State.val (s : State) (c : Nat) : GVal → Int
  | .z k => (s.z c k.val).toInt
  | .imm v => v.toInt

/-! ### The frame of a graph instruction (R277, R281) -/

/-- A graph instruction of the context on the sequencer in focus. -/
def graphRun (f : State → Nat → State) (s : State) : Res :=
  .next (if isSeq s.focus.eng && (s.seq s.fq).ctx.isSome then f { s with slot := .ok } s.fctx else s)

/-- A trap that names nothing. -/
def State.gTrap (s : State) (n : Nat) : State := s.takeTrap (trapOf n 0)

/-- A trap that concerns descriptor d: the record names it and the object it is bound to (R274). -/
def State.dTrap (s : State) (c n d : Nat) : State :=
  s.takeTrap ⟨n, 0, if (s.desc c d).valid then some (s.descOid c d) else none, some d, none⟩

/-- A trap of an access through descriptor d. -/
def State.hTrap (s : State) (n d : Nat) (h : Handle) : State := s.takeTrap ⟨n, 0, some h.oid, some d, none⟩

/-- The descriptor indices and attribute index of an instruction lie in range, or the descriptor-range trap (R281). -/
def inRange (s : State) (c : Nat) (ds : List Desc) (xs : List Attr) (k : State) : State :=
  if (ds.all fun d => d.toNat < s.ndesc c) && xs.all fun x => x.toNat < s.nattr c then k else s.gTrap 0x42

/-- The descriptor and attribute indices among operand words lie in range (R280, R281). -/
def State.operandsIn (s : State) (c : Nat) (ws : List Nat) : Bool :=
  ws.all fun w => (match descOf w with | some d => d.toNat < s.ndesc c | none => true) &&
    (match attrOf w with | some x => x.toNat < s.nattr c | none => true)

/-- As many values as descriptor d has dimensions, or the malformed-instruction trap: NW is checked before any index (R281, R282). -/
def rankOk (s : State) (c : Nat) (d : Desc) (n : Nat) (k : State) : State :=
  if d.toNat < s.ndesc c ∧ n ≠ (s.desc c d.toNat).rank then s.gTrap 0x41 else k

/-- Read descriptor d, or the descriptor-malformed trap (R283). -/
def readDesc (s : State) (c d : Nat) (k : DescVal → State) : State :=
  if (s.desc c d).bad then s.dTrap c 0x43 d else k (s.desc c d)

/-- Read a VALID descriptor, or the descriptor-state trap. -/
def readBound (s : State) (c d : Nat) (k : DescVal → State) : State :=
  readDesc s c d fun v => if v.valid then k v else s.dTrap c 0x44 d

/-- The instruction ends at the word after its nw operand words. -/
def State.gEnd (s : State) (c nw : Nat) : State := s.opEnd ((s.ctx c).bpc + 1 + nw)

/-- The context yields its sequencer at the current instruction, which runs again once what it awaits has come (R273, R376). -/
def State.gWait (s : State) (c : Nat) (a : Await) : State :=
  ((s.opEnd (s.ctx c).bpc).leaveSeq s.fq).modCtx c fun x => { x with st := .waiting, awaits := a }

/-- PC plus a displacement; below 0 it lies outside CODE. -/
def jumpTo (pc : Nat) (d : BitVec 16) : Nat :=
  let t : Int := (pc : Int) + d.toInt
  if t < 0 then 2 ^ 24 else t.toNat

/-! ### Control (R290, R291) -/

def execGraphNop (s : State) : Res := graphRun (fun s c => s.gEnd c 0) s

/-- HALT: waits for the context's gangs, then ends the run with the exit code. -/
def execHalt (e : BitVec 16) (s : State) : Res :=
  graphRun (fun s c => if s.gangs.any fun g => g.ctx == c then s else ((s.gEnd c 0).stopCtx c ⟨0, e⟩).leaveSeq s.fq) s

def execGraphJmp (d : BitVec 16) (s : State) : Res := graphRun (fun s c => s.opEnd (jumpTo (s.ctx c).bpc d)) s

def GCond.holds (a b : Int) : GCond → Bool
  | .eq => a = b
  | .ne => a ≠ b
  | .lt => a < b
  | .le => a ≤ b
  | .gt => b < a
  | .ge => b ≤ a

def execJif (k : GCond) (d : BitVec 16) (a b : GVal) (s : State) : Res :=
  graphRun (fun s c => if GCond.holds (s.val c a) (s.val c b) k then s.opEnd (jumpTo (s.ctx c).bpc d) else s.gEnd c 2) s

/-- LOOPB (R291). -/
def execLoopb (skip : BitVec 16) (n : GVal) (idx : Option (Fin 64)) (s : State) : Res :=
  graphRun (fun s c =>
    let v := s.val c n
    let nw := 1 + idx.isSome.toNat
    let pc := (s.ctx c).bpc
    if v ≤ 0 then s.opEnd (pc + skip.toNat)
    else if 8 ≤ (s.ctx c).gloops.length then s.gTrap 0x45
    else
      let s := s.modCtx c fun x => { x with gloops := ⟨pc + 1 + nw, v.toNat, idx⟩ :: x.gloops }
      let s := match idx with | some k => s.setZ c k.val 0 | none => s
      s.gEnd c nw) s

/-- LOOPE (R291). -/
def execLoope (s : State) : Res :=
  graphRun (fun s c => match (s.ctx c).gloops with
    | [] => s.gTrap 0x45
    | l :: rest =>
      if 1 < l.rem then
        let s := s.modCtx c fun x => { x with gloops := { l with rem := l.rem - 1 } :: rest }
        let s := match l.idx with | some k => s.setZ c k.val (s.z c k.val + 1) | none => s
        s.opEnd l.start
      else (s.modCtx c fun x => { x with gloops := rest }).gEnd c 0) s

def execCallg (d : BitVec 16) (s : State) : Res :=
  graphRun (fun s c =>
    let pc := (s.ctx c).bpc
    if 16 ≤ (s.ctx c).gcalls.length then s.gTrap 0x45
    else (s.modCtx c fun x => { x with gcalls := (pc + 1) :: x.gcalls }).opEnd (jumpTo pc d)) s

def execRetg (s : State) : Res :=
  graphRun (fun s c => match (s.ctx c).gcalls with
    | [] => s.gTrap 0x45
    | p :: rest => (s.modCtx c fun x => { x with gcalls := rest }).opEnd p) s

def execYield (s : State) : Res := graphRun (fun s c => (s.gEnd c 0).yieldCtx) s

/-! ### Words (R292) -/

/-- The word of SIGNAL and WAITE, or the trap of R292. -/
def withWord (s : State) (c : Nat) (d : Desc) (k : Nat → State) : State :=
  inRange s c [d] [] <| readBound s c d.toNat fun v =>
    let h := v.handle
    if v.fmt ≠ .n64 ∨ v.rank ≠ 0 ∨ v.layout ≠ 0 then s.dTrap c 0x49 d.toNat
    else match elemsCheck h rA true [((h.cur : Int), 8)] with
      | some f => s.hTrap f d.toNat h
      | none => match s.objEnt c h.oid with
        | none => s.hTrap 0x20 d.toNat h
        | some x =>
          if x.space.val ≠ 1 then s.hTrap 0x21 d.toNat h
          else if x.size < h.cur + 8 then s.hTrap 0x22 d.toNat h
          else k (locSbm (x.base + h.cur))

/-- SIGNAL: once every gang of the context has retired and its accesses have reached the device, the word grows by n. -/
def execSignal (w : Desc) (n : GVal) (s : State) : Res :=
  graphRun (fun s c => withWord s c w fun l =>
    if (s.gangs.any fun g => g.ctx == c) || !releaseOk s.accs s.focus.eng false s.nextId .dev 0xFFFF || !s.allQuiet l 8 then s
    else (s.put64 l (s.rd64 l + .ofInt 64 (s.val c n))).gEnd c 2) s

/-- WAITE: ends where the word is at least n; else the context yields until the word is next written. -/
def execWaite (w : Desc) (n : GVal) (s : State) : Res :=
  graphRun (fun s c => withWord s c w fun l =>
    if s.val c n ≤ ((s.rd64 l).toNat : Int) then s.gEnd c 2 else s.gWait c (.word l)) s

/-! ### Shapes (R286 to R289) -/

/-- The element of SHLD, or its trap. -/
def execShld (z : Fin 64) (d : Desc) (k : GVal) (s : State) : Res :=
  graphRun (fun s c => inRange s c [d] [] <| readBound s c d.toNat fun v =>
    let h := v.handle
    let i := s.val c k
    let w := v.fmt.width
    let intT := v.fmt == .i32 || v.fmt == .n32 || v.fmt == .i64 || v.fmt == .n64
    if !intT || v.layout ≠ 0 then s.dTrap c 0x49 d.toNat
    else if !s.scbClear c h.oid true then s
    else if i < 0 ∨ (v.count : Int) ≤ i then s.dTrap c 0x47 d.toNat
    else
      let a := h.cur + (((coords i.toNat v.exts).zip v.strs).map fun (x, t) => x * t).sum * w / 8
      match elemsCheck h rR true [((a : Int), w / 8)] with
      | some f => s.hTrap f d.toNat h
      | none => match s.objEnt c h.oid with
        | none => s.hTrap 0x20 d.toNat h
        | some x =>
          if x.space.val = 0 ∨ x.space.val = 4 then s.hTrap 0x21 d.toNat h
          else if x.size < a + w / 8 then s.hTrap 0x22 d.toNat h
          else match s.place c h.oid x a with
            | .absent y g =>
              let (t, f) := s.absentReq c h.oid x.prio y g
              if f then t.takeTrap (match y with | some n => s.layerTrap c n (some h.oid) | none => ⟨0x2C, 0, some h.oid, some d.toNat, none⟩)
              else t.gWait c (match y with | some n => .layer n | none => .page h.oid g)
            | .at_ l =>
              let n := leNat (s.view s.focus.eng false s.nextId l (w / 8))
              if v.fmt = .n64 ∧ 2 ^ 63 ≤ n then s.dTrap c 0x46 d.toNat
              else (s.setZ c z.val (ext64 v.fmt n)).gEnd c 3
            | _ => s.hTrap 0x20 d.toNat h) s

def ceilInt (a b : Int) : Int := -((-a).fdiv b)

/-- SHOP's exact result; none where an operand is outside its range (R287). -/
def shopValue (a b : Int) : ShOp → Option Int
  | .add => some (a + b)
  | .sub => some (a - b)
  | .mul => some (a * b)
  | .divf => if b = 0 then none else some (a.fdiv b)
  | .divc => if b = 0 then none else some (ceilInt a b)
  | .mod => if b = 0 then none else some (a - b * a.fdiv b)
  | .min => some (min a b)
  | .max => some (max a b)
  | .shl => if 0 ≤ b ∧ b ≤ 63 then some (a * 2 ^ b.toNat) else none
  | .shr => if 0 ≤ b ∧ b ≤ 63 then some (a.fdiv (2 ^ b.toNat)) else none
  | .and => some ((BitVec.ofInt 64 a) &&& (BitVec.ofInt 64 b)).toInt
  | .or => some ((BitVec.ofInt 64 a) ||| (BitVec.ofInt 64 b)).toInt
  | .alup => if 0 < b then some (b * ceilInt a b) else none
  | .mov => some a

/-- The value lies in the i64 range. -/
def inI64 (v : Int) : Bool := -(2 ^ 63) ≤ v && v < 2 ^ 63

def execShop (op : ShOp) (z : Fin 64) (a b : GVal) (s : State) : Res :=
  graphRun (fun s c => match shopValue (s.val c a) (s.val c b) op with
    | none => s.gTrap 0x46
    | some v => if inI64 v then (s.setZ c z.val (.ofInt 64 v)).gEnd c (if op = .mov then 2 else 3) else s.gTrap 0x46) s

/-- SHRD (R288): EXT, STR, RANK or the footprint. -/
def execShrd (f : Fin 4) (z : Fin 64) (d : Desc) (j : GVal) (s : State) : Res :=
  graphRun (fun s c => inRange s c [d] [] <| readDesc s c d.toNat fun v =>
    let i := s.val c j
    if f.val < 2 ∧ (i < 0 ∨ (v.rank : Int) ≤ i) then s.dTrap c 0x42 d.toNat
    else
      let x := match f.val with | 0 => v.ext i.toNat | 1 => v.str i.toNat | 2 => v.rank | _ => v.footprint
      (s.setZ c z.val (.ofNat 64 x)).gEnd c 3) s

/-! ### Descriptor instructions (R293 to R295) -/

def execTdef (d : Desc) (x : Attr) (s : State) : Res :=
  graphRun (fun s c => inRange s c [d] [x] <|
    if (s.desc c d.toNat).valid then s.dTrap c 0x44 d.toNat
    else if s.nattr c < x.toNat + 32 then s.gTrap 0x42
    else
      let w := (rangeFrom 0 16).map fun k => Word.mk2 (s.attr c (x.toNat + 2 * k)) (s.attr c (x.toNat + 2 * k + 1))
      let v : DescVal := ((((⟨w, false⟩ : DescVal).setHandle .null).setWord 12 0).setFlags false false)
      let v := v.setWord 14 (.ofNat 64 ((v.word 14).toNat / 65536 * 65536 + 0xFFFF))
      if v.bad then s.takeTrap ⟨0x43, 0, none, some d.toNat, none⟩ else (s.putDesc c d.toNat v).gEnd c 2) s
where
  /-- A word from its low and high halves. -/
  Word.mk2 (lo hi : Nat) : Word := .ofNat 64 (lo + 2 ^ 32 * hi)

/-- TSETD (R294). -/
def execTsetd (pk : Bool) (d : Desc) (es : List GVal) (s : State) : Res :=
  graphRun (fun s c => rankOk s c d es.length <| inRange s c [d] [] <| readDesc s c d.toNat fun v =>
    let e := es.map (s.val c)
    if v.layout ≠ 0 && !pk then s.dTrap c 0x44 d.toNat
    else if e.any fun x => x < 0 || 2 ^ 32 ≤ x then s.dTrap c 0x47 d.toNat
    else
      let en := e.map Int.toNat
      let st := if pk then packStrides v.layout v.fmt en else v.strs
      let n := v.setExts en st
      if (st.any fun x => 2 ^ 32 ≤ x) || (v.valid && v.size < n.footprint) then s.dTrap c 0x47 d.toNat
      else (s.putDesc c d.toNat n).gEnd c (1 + es.length)) s

/-- TVIEW (R295). -/
def execTview (dst src : Desc) (offs : List GVal) (s : State) : Res :=
  graphRun (fun s c => rankOk s c src offs.length <| inRange s c [dst, src] [] <| readBound s c src.toNat fun v =>
    let o := offs.map (s.val c)
    let old := s.desc c dst.toNat
    if ((o.zip v.exts).any fun (x, e) => x < 0 || (e : Int) < x) || (v.layout ≠ 0 && o.any fun x => x ≠ 0) ||
        (v.fmt.isDx && (o.getD 0 0) % 32 ≠ 0) then s.dTrap c 0x47 src.toNat
    else if old.valid && old.parent = 0xFFFF then s.dTrap c 0x44 dst.toNat
    else
      let on := o.map Int.toNat
      let b := (((on.zip v.strs).map fun (x, t) => x * t).sum) * v.fmt.width / 8
      if v.size < b then s.dTrap c 0x47 src.toNat
      else
        let n := v.setExts ((v.exts.zip on).map fun (e, x) => e - x) v.strs
        let n := ((n.setHandle (v.handle.setCur (v.handle.cur + b))).setWord 12 (.ofNat 64 (v.size - b))).setFlags true false
        (s.putDesc c dst.toNat (n.setWord 14 (.ofNat 64 src.toNat))).gEnd c (2 + offs.length)) s

/-! ### TALLOC and TFREE (R296, R297) -/

/-- The first free OID of a context from `o` upward below the reserved ones (R325). -/
def State.freeOid (s : State) (c o : Nat) : Nat → Option Nat
  | 0 => none
  | n + 1 => if o < 0xFFF00 && (s.objEnt c o).isNone then some o else s.freeOid c ((o + 1) % 2 ^ 20) n

/-- n units drawn from free runs, none of them twice. -/
def State.takeUnits (s : State) (l : List (Nat × Nat)) : Nat → State × List Nat
  | 0 => (s, [])
  | n + 1 =>
    if runTotal l = 0 then (s, [])
    else
      let (w, s) := s.draw
      match runNth l (w.toNat % runTotal l) with
      | none => (s, [])
      | some g =>
        let (s, gs) := s.takeUnits (runTake l g 1) n
        (s, g :: gs)

/-- The least granularity that covers `size` bytes exactly with 24-bit bounds (R73). -/
def granFor (size g : Nat) : Nat → Nat
  | 0 => g
  | n + 1 => if size / 2 ^ (g + 6) < 2 ^ 24 then g else granFor size (g + 1) n

/-- A handle over all of a new object (R296). -/
def newHandle (oid rights size : Nat) : Handle :=
  let g := granFor size 0 15
  .make oid rights g 0 (ceilDiv size (2 ^ (g + 6))) 0

/-- Fast granules that TALLOC has given a context (R374, R408). -/
def State.fastUsed (s : State) (c : Nat) : Nat :=
  ((s.ctx c).tallocs.map fun o => match s.objEnt c o with | some x => x.granules | none => 0).sum

/-- The new object of TALLOC is bound to its descriptor. -/
def State.bindNewObj (s : State) (c d oid : Nat) (v : DescVal) (tier : Tier) (size : Nat) : State :=
  let rights := match tier with | .capacity => 0xE8 | _ => 0xF8
  let n := ((v.setHandle (newHandle oid rights size)).setWord 12 (.ofNat 64 size)).setFlags true false
  (s.putDesc c d n).gEnd c 1

/-- TALLOC (R296). -/
def execTalloc (tier : Tier) (d : Desc) (s : State) : Res :=
  graphRun (fun s c => inRange s c [d] [] <| readDesc s c d.toNat fun v =>
    let p := (s.ctx c).part.val
    let unit := match tier with | .bank => 256 | _ => 65536
    let n := ceilDiv v.footprint unit
    let size := n * unit
    if v.valid then s.dTrap c 0x44 d.toNat
    else if n = 0 then s.dTrap c 0x47 d.toNat
    else if tier = .fast ∧ (s.ctx c).fastq.toNat < s.fastUsed c + n then s.dTrap c 0x50 d.toNat
    else
      let (w, t) := s.draw
      match t.freeOid c (w.toNat % 2 ^ 20) (2 ^ 20) with
      | none => s
      | some oid =>
        let ent (space : Fin 5) (base next : Nat) : ObjEnt := ⟨space, 0, size, 0xFFFF, v.prio, false, v.nextu, base, next⟩
        match tier with
        | .fast =>
          if runTotal (t.freeFast p) < n then (t.makeRoom p n v.prio c fun _ => false).gWait c (.room 0 n v.prio)
          else if runTotal (t.freeCap p) < n then t.gWait c (.room 3 n v.prio)
          else
            let (t, fg) := t.takeUnits (t.freeFast p) n
            let (t, bg) := t.takeUnits (t.freeCap p) n
            let es := ((fg.zip bg).zipIdx).map fun ((f, b), k) => Extent.mk 1 false 1 k b f
            let t := fg.foldl (fun t g => t.put (locFast p (g * 65536)) (List.replicate 65536 0)) t
            let t := (t.modCtx c fun x => { x with exts := tset x.exts oid es, tallocs := x.tallocs ++ [oid] }).putObj c oid (some (ent 2 0 n))
            t.bindNewObj c d.toNat oid v tier size
        | .capacity => match t.placeRun (t.freeCap p) n with
          | (none, t) => t.gWait c (.room 1 n v.prio)
          | (some g, t) =>
            let t := (t.put (locCap (g * 65536)) (List.replicate size 0)).putObj c oid (some (ent 3 (g * 65536) 0))
            t.bindNewObj c d.toNat oid v tier size
        | .bank => match t.placeRun (t.freeSbm p) n with
          | (none, t) => t.gWait c (.room 2 n v.prio)
          | (some g, t) =>
            let t := (t.put (locSbm (g * 256)) (List.replicate size 0)).putObj c oid (some (ent 1 (g * 256) 0))
            t.bindNewObj c d.toNat oid v tier size) s

/-- No fetch, move or eviction of the object is under way. -/
def State.objStill (s : State) (c oid : Nat) : Bool :=
  let x := s.part (s.ctx c).part.val
  let busy (j : OrJob) : Bool := match j with
    | .fetchObj c' o _ => c' == c && o == oid
    | .moveObj c' o _ _ _ _ => c' == c && o == oid
    | _ => false
  (s.extents c oid).all (fun e => e.st.val < 2) && !busy x.job && !busy x.djob

/-- TFREE (R297): waits for the scoreboard and for the accesses admitted through the object, then frees it. -/
def execTfree (d : Desc) (s : State) : Res :=
  graphRun (fun s c => inRange s c [d] [] <| readBound s c d.toNat fun v =>
    let oid := v.handle.oid
    if v.parent ≠ 0xFFFF ∨ v.layer ≠ 0xFFFF then s.dTrap c 0x44 d.toNat
    else if !s.scbClear c oid false || !s.admittedDone c [oid] || !s.objStill c oid then s
    else
      let s := s.putObj c oid none
      let s := s.modCtx c fun x => { x with exts := x.exts.filter fun e => e.1 ≠ oid, tallocs := x.tallocs.filter (· ≠ oid) }
      (s.putDesc c d.toNat (((v.setHandle .null).setWord 12 0).setFlags false false)).gEnd c 1) s

/-! ### TPIN and TRES (R298, R299, R448) -/

/-- 64 KiB units that the pinned objects of a context take, the given ones counted as pinned. -/
def State.pinned (s : State) (c : Nat) (more : List Nat) : Nat :=
  ((s.objsOf c).map fun (o, x) => if x.pin || more.contains o then x.granules else 0).sum

/-- Word 13 and PIN of a descriptor. -/
def DescVal.setPin (v : DescVal) (pin : Bool) (prio nextu : Nat) : DescVal :=
  (v.setFlags v.valid pin).setWord 13 (pack [(0, 5, prio), (32, 32, nextu)])

/-- TPIN (R298): one object, or the whole layer of the descriptor with its residency word. -/
def execTpin (pin : Bool) (d : Desc) (p u : GVal) (s : State) : Res :=
  graphRun (fun s c => inRange s c [d] [] <| readBound s c d.toNat fun v =>
    let pr := s.val c p
    let nu := s.val c u
    let whole := v.layer ≠ 0xFFFF && v.layer < s.layers c
    let ds := if whole then (s.layerDescs c v.layer).filter (· ≠ d.toNat) ++ [d.toNat] else [d.toNat]
    let oids := if whole then s.layerOids c v.layer else [v.handle.oid]
    if pr < 0 ∨ 31 < pr ∨ nu < 0 ∨ 2 ^ 32 ≤ nu then s.dTrap c 0x47 d.toNat
    else if pin && (s.ctx c).pinlim.toNat < s.pinned c oids then s.dTrap c 0x50 d.toNat
    else
      let s := ds.foldl (fun s k => s.putDesc c k ((s.desc c k).setPin pin pr.toNat nu.toNat)) s
      let s := oids.foldl (fun s o => match s.objEnt c o with
        | some x => s.putObj c o (some { x with prio := pr.toNat, pin := pin, nextu := nu.toNat })
        | none => s) s
      let s := if whole then
          let w := s.resWord c v.layer
          s.putRes c v.layer (w.getLsbD 63) pin (fld w 32 30) (fld w 0 32)
        else s
      s.gEnd c 3) s

/-- TRES (R299, R448). -/
def execTres (wait : Bool) (z : Fin 64) (n : GVal) (s : State) : Res :=
  graphRun (fun s c =>
    let i := s.val c n
    if i < 0 ∨ (s.layers c : Int) ≤ i then s.gTrap 0x42
    else
      let k := i.toNat
      if wait && !s.resSet c k then
        let (t, f) := s.absentReq c (s.descOid c (fld (s.layerEnt c k) 0 16)) (s.layerPrio c k) (some k) 0
        if f then t.takeTrap (s.layerTrap c k none) else t.gWait c (.layer k)
      else (s.setZ c z.val (s.resWord c k)).gEnd c 2) s

end Sys2Proof.Machine
end

