-- ==== Sys2Proof/Machine/OpRules.lean ====
section
/-!
DEFINITION. What a graph operator is checked against before it issues a gang (R301 to R303, R306, R318 to R320): operands,
formats, shapes, sharding and aliasing.
-/
namespace Sys2Proof

/-- The operation exists for an integer FMT and for f64 (R313). -/
def EltOp.wide : EltOp → Bool
  | .add | .sub | .mul | .max | .min | .neg | .abs | .relu => true
  | _ => false

end Sys2Proof

namespace Sys2Proof.Machine

/-! ### Operands -/

/-- What the checks and the numerics of an operator read of its image: descriptors, ATTR words, rank groups, and the device's
own pod number. -/
structure OpEnv where
  d : Nat → DescVal
  x : Nat → Nat
  group : Nat → List Nat
  dev : Nat

/-- Operands of an operator: inputs, outputs, attribute words. -/
structure Opnds where
  ins : List Nat
  outs : List Nat
  attrs : List Nat

def optD (o : Option Desc) : List Nat := o.toList.map BitVec.toNat

/-- The operands that an operator names (R301). An output that is also read stands among the outputs alone (R305). -/
def opnds : Instr → Opnds
  | .copy dst src => ⟨[src.toNat], [dst.toNat], []⟩
  | .convert _ _ dst src _ => ⟨[src.toNat], [dst.toNat], []⟩
  | .permute dst src x => ⟨[src.toNat], [dst.toNat], [x.toNat]⟩
  | .matmul _ _ c a b => ⟨[a.toNat, b.toNat], [c.toNat], []⟩
  | .attn x => ⟨[x.q.toNat, x.k.toNat, x.v.toNat] ++ optD x.mask, [x.o.toNat], [x.scale.toNat]⟩
  | .softmax _ dst src => ⟨[src.toNat], [dst.toNat], []⟩
  | .norm x => ⟨[x.src.toNat] ++ optD x.gamma ++ optD x.beta, [x.dst.toNat], [x.eps.toNat]⟩
  | .eltw _ _ dst a b => match b with
    | .none => ⟨[a.toNat], [dst.toNat], []⟩
    | .desc e => ⟨[a.toNat, e.toNat], [dst.toNat], []⟩
    | .attr x => ⟨[a.toNat], [dst.toNat], [x.toNat]⟩
  | .reduce _ _ _ dst src => ⟨[src.toNat], [dst.toNat], []⟩
  | .gather _ _ dst data index => ⟨[data.toNat, index.toNat], [dst.toNat], []⟩
  | .scatter _ _ _ dst index update => ⟨[index.toNat, update.toNat], [dst.toNat], []⟩
  | .routeDispatch y x e cnt => ⟨[x.toNat, e.toNat], [y.toNat, cnt.toNat], []⟩
  | .routeCombine x y e w => ⟨[y.toNat, e.toNat, w.toNat], [x.toNat], []⟩
  | .topk _ _ values indices src => ⟨[src.toNat], [values.toNat, indices.toNat], []⟩
  | .fft _ _ dst src => ⟨[src.toNat], [dst.toNat], []⟩
  | .allreduce x | .reducescatter x | .allgather x | .alltoall x | .broadcast x => ⟨[x.src.toNat], [x.dst.toNat], []⟩
  | .reshard dst src => ⟨[src.toNat], [dst.toNat], []⟩
  | _ => ⟨[], [], []⟩

/-- Operands with the scale planes of dx tensors, and of dxw containers, beside them (R283, R318). -/
def OpEnv.withPlanes (v : OpEnv) (ds : List Nat) : List Nat :=
  ds ++ (ds.filter fun d => (v.d d).sdesc ≠ 0).map fun d => (v.d d).sdesc

def OpEnv.allIns (v : OpEnv) (i : Instr) : List Nat := v.withPlanes (opnds i).ins
def OpEnv.allOuts (v : OpEnv) (i : Instr) : List Nat := v.withPlanes (opnds i).outs

/-! ### Checks -/

/-- A failed check: its cause and the descriptor that it concerns. -/
abbrev OpBad := Option (Nat × Option Nat)

def badIf (b : Bool) (cause : Nat) (d : Option Nat) : OpBad := if b then some (cause, d) else none

/-- The first failure of a list. -/
def firstBad (l : List OpBad) : OpBad := l.findSome? id

/-- Elements of a type that ELTW, SOFTMAX and the like call float. -/
def nonF64 (t : ElemType) : Bool := t.isF && t != .f64
def narrowOr32 (t : ElemType) : Bool := t == .f32 || t == .bf16 || t == .f16

/-- PERMUTE's source dimension of destination dimension j (R302). -/
def permDim (w j : Nat) : Nat := w / 16 ^ j % 16

/-- Axes and attribute words (R301, R302, R313): the malformed-instruction trap. -/
def attrBad (v : OpEnv) (i : Instr) : Bool :=
  match i with
  | .permute dst _ x => (v.x x.toNat) / 16 ^ (v.d dst.toNat).rank ≠ 0
  | .softmax axis _ src => (v.d src.toNat).rank ≤ axis.toNat
  | .norm x => (v.d x.src.toNat).rank ≤ x.axis.toNat ||
      (match (fmtOf .f32).decode (v.x x.eps.toNat) with | .fin neg m _ => neg && m ≠ 0 | _ => true)
  | .eltw _ op dst _ b =>
      let t := (v.d dst.toNat).fmt
      ((t.isInt || t == .f64) && !op.wide) || (op.binary != match b with | .none => false | _ => true)
  | .reduce _ _ mask _ src => mask.toNat / 2 ^ (v.d src.toNat).rank ≠ 0
  | .gather _ axis _ data _ => (v.d data.toNat).rank ≤ axis.toNat
  | .scatter _ _ axis dst _ _ => (v.d dst.toNat).rank ≤ axis.toNat
  | _ => false

/-! ### Layout and format (R306, R308, R318) -/

/-- A layout that holds elements plainly. -/
def denseLay (v : DescVal) : Bool := v.layout = 0 || v.layout = 1 || v.layout = 2 || v.layout = 5

/-- Formats of C for given A and B (R306). -/
def matmulFmt (a b c : ElemType) : Bool :=
  match a, b with
  | .i8, .i8 => c == .i32 || c == .f32
  | .f16, .f16 | .bf16, .bf16 | .f32, .f32 | .dx8, .dx8 | .dx4, .dx4 => narrowOr32 c
  | .f64, .f64 => c == .f64 || c == .f32
  | _, _ => a.isF8 && b.isF8 && (narrowOr32 c || c.isF8)

/-- Formats in which CONVERT and MATMUL may round stochastically (R308, R44). -/
def srInto (t : ElemType) : Bool := t == .bf16 || t == .f16 || t.isF8

/-- A scale plane is strided n16 (R284). -/
def planeBad (v : OpEnv) (d : Nat) : Bool :=
  let p := v.d (v.d d).sdesc
  (v.d d).sdesc ≠ 0 && (p.fmt != .n16 || p.layout ≠ 0)

/-- A collective of the kinds that reduce (R318). -/
def collReduces : Instr → Bool
  | .allreduce _ | .reducescatter _ => true
  | _ => false

/-- Format rule of COLL (R318). -/
def collFmtBad (v : OpEnv) (i : Instr) (x : CollW) : Bool :=
  let s := (v.d x.src.toNat).fmt
  let t := (v.d x.dst.toNat).fmt
  if x.exact then !collReduces i || x.op != .add || !s.isDx || t != .i32 || (v.d x.dst.toNat).sdesc = 0
  else if collReduces i then s != t || !(s == .f32 || s == .bf16 || s == .f16 || s == .i32)
  else s != t

/-- The format-combination rule of an operator (R306). -/
def fmtBad (v : OpEnv) (i : Instr) : Bool :=
  let f (d : Desc) : ElemType := (v.d d.toNat).fmt
  let lay0 (ds : List Nat) : Bool := ds.all fun d => (v.d d).layout = 0
  let o := opnds i
  let all := o.ins ++ o.outs
  all.any (planeBad v) ||
  match i with
  | .copy dst src => f dst != f src
  | .convert rm _ dst src _ =>
      let dx := (f dst).isDx || (f src).isDx
      !lay0 all || (rm == .sr && !srInto (f dst) && !(f dst).isDx) ||
        (if dx then !(((f dst).isDx && narrowOr32 (f src)) || ((f src).isDx && narrowOr32 (f dst)))
        else f dst == f src || !(f dst).cvtOk || !(f src).cvtOk)
  | .permute dst src _ => f dst != f src || !lay0 all
  | .matmul acc rm c a b =>
      let la := (v.d a.toNat).layout
      let lb := (v.d b.toNat).layout
      !matmulFmt (f a) (f b) (f c) || (v.d c.toNat).layout ≠ 0 || !(la = 0 || la = 1) ||
        !(lb = 0 || lb = 2 || ((lb = 3 || lb = 4) && (f a == .i8 || (f a).isF8))) ||
        (acc && f c != (if f a = .i8 then .i32 else if f a = .f64 then .f64 else .f32)) || (rm == .sr && !srInto (f c))
  | .attn x =>
      let t := f x.q
      !lay0 all || f x.k != t || f x.v != t || !(t == .bf16 || t == .f16 || t.isF8) || !narrowOr32 (f x.o) ||
        (match x.mask with | some m => f m != .n8 | none => false)
  | .softmax _ dst src => !lay0 all || !nonF64 (f dst) || !nonF64 (f src)
  | .norm x => !lay0 all || !narrowOr32 (f x.src) || !narrowOr32 (f x.dst) ||
      (match x.gamma with | some g => f g != .f32 | none => false) || (match x.beta with | some g => f g != .f32 | none => false)
  | .eltw _ _ dst a b => !(all.all fun d => denseLay (v.d d)) || f dst != f a || !((f dst).isF || (f dst).isInt) ||
      (match b with | .desc e => f e != f dst | _ => false)
  | .reduce _ _ _ dst src => !(all.all fun d => denseLay (v.d d)) || f dst != f src || !((f src).isF || f src == .i32 || f src == .n32)
  | .gather _ _ dst data index => !(all.all fun d => denseLay (v.d d)) || f dst != f data || (f data).isDx || !(f index == .i32 || f index == .n32)
  | .scatter mode _ _ dst index update => !(all.all fun d => denseLay (v.d d)) || f dst != f update || (f dst).isDx ||
      !(f index == .i32 || f index == .n32) || (mode != .store && !((f dst).isF || f dst == .i32))
  | .routeDispatch y x e cnt => !(all.all fun d => denseLay (v.d d)) || f y != f x || !((f x).isF || (f x).isF8) || f e != .n32 || f cnt != .n32
  | .routeCombine x y e w => !(all.all fun d => denseLay (v.d d)) || f y != f x || !((f x).isF || (f x).isF8) || f e != .n32 || f w != .f32
  | .topk _ _ values indices src => !(all.all fun d => denseLay (v.d d)) || f values != f src || f indices != .n32 ||
      !(nonF64 (f src) || f src == .i32)
  | .fft _ _ dst src => !lay0 all || f dst != f src || !(f src == .f32 || f src == .f64)
  | .allreduce x | .reducescatter x | .allgather x | .alltoall x | .broadcast x =>
      !(all.all fun d => denseLay (v.d d)) || collFmtBad v i x
  | .reshard dst src => !(all.all fun d => denseLay (v.d d)) || f dst != f src
  | _ => false

/-! ### Sharding (R318 to R320) -/

/-- The output is a partial result that its declared sharding still asks to reduce (R319 rule 3). -/
def partialOut (v : OpEnv) : Instr → Bool
  | .matmul _ _ _ a b =>
      let x := v.d a.toNat
      let y := v.d b.toNat
      x.skind = 2 && y.skind = 2 && x.axis = 0 && y.axis = 1
  | .reduce op _ mask _ src =>
      let x := v.d src.toNat
      x.skind = 2 && mask.getLsbD x.axis && op == .add
  | _ => false

/-- The lowering of RESHARD (R320). -/
inductive Lower where
  | allreduce | reducescatter | allgather | alltoall | slice | copy
  deriving DecidableEq, Repr

def lowerOf (src dst : DescVal) : Option Lower :=
  match src.skind, dst.skind with
  | 3, 1 => some .allreduce
  | 3, 2 => some .reducescatter
  | 2, 1 => some .allgather
  | 2, 2 => if src.axis = dst.axis then some .copy else some .alltoall
  | 1, 2 => some .slice
  | a, b => if a = b then some .copy else none

/-- Sharding of a partial result's declared output: a lowering of R320 from partial sum. -/
def partialOk (c : DescVal) : Bool := c.skind ≠ 0

/-- The operands that are sharded name one group (R319 rule 1). -/
def groupsEqual (v : OpEnv) (ds : List Nat) : Bool :=
  match (ds.filter fun d => (v.d d).skind ≠ 0).map fun d => (v.d d).group with
  | [] => true
  | g :: gs => gs.all (· = g)

/-- An element-wise operand agrees with the output (R319 rule 2). -/
def sameShard (o x : DescVal) : Bool :=
  (x.skind = o.skind && x.axis = o.axis) ||
    (x.skind = 1 && if o.skind = 2 then x.ext o.axis = 1 else (x.exts.zip o.exts).any fun (a, b) => a = 1 && b ≠ 1)

/-- The sharding-mismatch rule of an operator (R318 to R320). -/
def shardBad (v : OpEnv) (i : Instr) : Bool :=
  let o := opnds i
  let all := o.ins ++ o.outs
  let k (d : Desc) : Nat := (v.d d.toNat).skind
  let ax (d : Desc) : Nat := (v.d d.toNat).axis
  let plain := all.all fun d => (v.d d).skind ≤ 1
  let elem (dst : Desc) : Bool := !(o.ins.all fun d => sameShard (v.d dst.toNat) (v.d d))
  !groupsEqual v all ||
  match i with
  | .copy dst _ | .convert _ _ dst _ _ | .eltw _ _ dst _ _ => elem dst
  | .softmax axis dst src => elem dst || (k src = 2 && ax src = axis.toNat)
  | .norm x => elem x.dst || (k x.src = 2 && ax x.src = x.axis.toNat)
  | .reduce _ _ _ dst _ => if partialOut v i then !partialOk (v.d dst.toNat) else !plain
  | .matmul _ _ c a b =>
      if partialOut v i then !partialOk (v.d c.toNat)
      else !(plain || (k a = 2 && ax a = 1 && k b = 1 && k c = 2 && ax c = 1) || (k b = 2 && ax b = 0 && k a = 1 && k c = 2 && ax c = 0))
  | .fft _ _ dst src => !(plain || (k src = 2 && k dst = 2 && ax src = 1 && ax dst = 1))
  | .routeDispatch y _ _ _ | .routeCombine _ y _ _ =>
      !(plain || (k y = 2 && ax y = 2 && all.all fun d => (v.d d).skind ≠ 3))
  | .allreduce x => !(k x.src = 3 && k x.dst = 1)
  | .reducescatter x => !(k x.src = 3 && k x.dst = 2)
  | .allgather x => !(k x.src = 2 && k x.dst = 1)
  | .alltoall x => !(k x.src = 2 && k x.dst = 2)
  | .broadcast x => !(k x.src = 1 && k x.dst = 1)
  | .reshard dst src => (lowerOf (v.d src.toNat) (v.d dst.toNat)).isNone
  | _ => !plain

/-- Ranks of a descriptor's group. -/
def OpEnv.nrank (v : OpEnv) (d : DescVal) : Nat := (v.group d.group).length

/-! ### Shape (R306, R318, R320) -/

/-- Multiply, or divide where it is exact, one extent. -/
def scaleExt (e : List Nat) (j f : Nat) : List Nat := setAt e j (e.getD j 0 * f)

/-- Extents that a partial result leaves on this rank (R319 rule 3, R320): split outputs hold one part. -/
def partialExts (v : OpEnv) (i : Instr) (c : DescVal) : List Nat :=
  if partialOut v i && c.skind = 2 then scaleExt c.exts c.axis (v.nrank c) else c.exts

/-- The extents left when the masked axes go, or become 1 (R306). -/
def reducedExts (keep : Bool) (mask : BitVec 8) (e : List Nat) : List Nat :=
  ((e.zipIdx).filterMap fun (x, j) => if mask.getLsbD j then (if keep then some 1 else none) else some x)

/-- Extents of the scale plane of a dx tensor whose blocks run along dimension `axis`. -/
def planeExts (axis : Nat) (e : List Nat) : List Nat := ceilDiv (e.getD axis 0) 32 :: (e.take axis ++ e.drop (axis + 1))

/-- The scale plane of descriptor d does not fit it. -/
def planeShapeBad (v : OpEnv) (axis : Nat) (d : Desc) : Bool :=
  let x := v.d d.toNat
  x.sdesc ≠ 0 && (v.d x.sdesc).exts ≠ planeExts axis x.exts

/-- The collective shapes of R318 by kind, with n ranks. -/
def lowerShapeBad (n : Nat) (src dst : DescVal) : Lower → Bool
  | .allreduce | .copy => dst.exts ≠ src.exts
  | .reducescatter => scaleExt dst.exts dst.axis n ≠ src.exts
  | .allgather => dst.exts ≠ scaleExt src.exts src.axis n
  | .alltoall => src.ext dst.axis % n ≠ 0 || scaleExt dst.exts dst.axis n ≠ scaleExt src.exts src.axis n
  | .slice => scaleExt dst.exts dst.axis n ≠ src.exts

/-- The shape-mismatch rule of an operator (R306, R318, R320). -/
def shapeBad (v : OpEnv) (i : Instr) : Bool :=
  let e (d : Desc) : List Nat := (v.d d.toNat).exts
  let r (d : Desc) : Nat := (v.d d.toNat).rank
  match i with
  | .copy dst src | .softmax _ dst src => e dst ≠ e src
  | .convert _ _ dst src _ => e dst ≠ e src || planeShapeBad v 0 dst || planeShapeBad v 0 src
  | .permute dst src x =>
      let p := (rangeFrom 0 (r dst)).map (permDim (v.x x.toNat))
      r dst ≠ r src || (rangeFrom 0 (r dst)).any (fun j => !p.contains j) || e dst ≠ p.map fun j => (e src).getD j 0
  | .matmul _ _ c a b =>
      let ka := e a
      let kb := e b
      let kc := partialExts v i (v.d c.toNat)
      let bat (l : List Nat) : Nat := l.getD 2 1
      !((r a = 2 || r a = 3) && r b = r a && r c = r a) || ka.getD 0 0 ≠ kb.getD 1 0 || kc.getD 0 0 ≠ kb.getD 0 0 ||
        kc.getD 1 0 ≠ ka.getD 1 0 || !(bat ka = bat kb || bat ka = 1 || bat kb = 1) || bat kc ≠ max (bat ka) (bat kb) ||
        planeShapeBad v 0 a || planeShapeBad v 1 b
  | .attn x =>
      let q := e x.q
      let k := e x.k
      let hq := q.getD 2 0
      let hk := k.getD 2 0
      r x.q ≠ 3 || r x.k ≠ 3 || e x.o ≠ q || e x.v ≠ k || k.getD 0 0 ≠ q.getD 0 0 || q.getD 0 0 = 0 || 256 < q.getD 0 0 ||
        !(hq % hk = 0) || (match x.mask with | some m => e m ≠ [k.getD 1 0, q.getD 1 0] | none => false)
  | .norm x =>
      let one (g : Option Desc) : Bool := match g with | some d => e d ≠ [(e x.src).getD x.axis.toNat 0] | none => false
      e x.dst ≠ e x.src || one x.gamma || one x.beta
  | .eltw _ _ dst a b =>
      let fits (l : List Nat) : Bool := l.length = r dst && (l.zip (e dst)).all fun (x, y) => x = y || x = 1
      !fits (e a) || (match b with | .desc d => !fits (e d) | _ => false)
  | .reduce _ keep mask dst src => partialExts v i (v.d dst.toNat) ≠ reducedExts keep mask (e src)
  | .gather _ axis dst data index => r index ≠ 1 || e dst ≠ setAt (e data) axis.toNat ((e index).getD 0 0)
  | .scatter _ _ axis dst index update => r index ≠ 1 || e update ≠ setAt (e dst) axis.toNat ((e index).getD 0 0)
  | .routeDispatch y x ee cnt =>
      r x ≠ 2 || r ee ≠ 2 || r y ≠ 3 || (e ee).getD 1 0 ≠ (e x).getD 1 0 || (e y).getD 0 0 ≠ (e x).getD 0 0 || e cnt ≠ [(e y).getD 2 0]
  | .routeCombine x y ee w =>
      r x ≠ 2 || r ee ≠ 2 || r y ≠ 3 || e w ≠ e ee || (e ee).getD 1 0 ≠ (e x).getD 1 0 || (e y).getD 0 0 ≠ (e x).getD 0 0
  | .topk _ k values indices src =>
      r src = 0 || (e src).getD 0 0 < k.toNat || e values ≠ setAt (e src) 0 k.toNat || e indices ≠ e values
  | .fft _ _ dst src =>
      let n := (e src).getD 1 0 * (if (v.d src.toNat).skind = 2 then v.nrank (v.d src.toNat) else 1)
      e dst ≠ e src || r src < 2 || (e src).getD 0 0 ≠ 2 || n ≠ 2 ^ n.log2 || n < 2 || 2 ^ 24 < n
  | .allreduce x => lowerShapeBad (v.nrank (v.d x.src.toNat)) (v.d x.src.toNat) (v.d x.dst.toNat) .allreduce ||
      planeShapeBad v 0 x.src || planeShapeBad v 0 x.dst
  | .reducescatter x => lowerShapeBad (v.nrank (v.d x.src.toNat)) (v.d x.src.toNat) (v.d x.dst.toNat) .reducescatter ||
      planeShapeBad v 0 x.src || planeShapeBad v 0 x.dst
  | .allgather x => lowerShapeBad (v.nrank (v.d x.src.toNat)) (v.d x.src.toNat) (v.d x.dst.toNat) .allgather
  | .alltoall x => lowerShapeBad (v.nrank (v.d x.src.toNat)) (v.d x.src.toNat) (v.d x.dst.toNat) .alltoall
  | .broadcast x => e x.dst ≠ e x.src || v.nrank (v.d x.src.toNat) ≤ x.root.toNat
  | .reshard dst src => match lowerOf (v.d src.toNat) (v.d dst.toNat) with
    | some l => lowerShapeBad (v.nrank (v.d src.toNat)) (v.d src.toNat) (v.d dst.toNat) l
    | none => false
  | _ => false

/-! ### Aliasing (R303) -/

/-- Bytes [CUR, CUR + footprint) of two operands meet in one object; an empty operand meets nothing (R304). -/
def operandsMeet (a b : DescVal) : Bool :=
  a.handle.oid = b.handle.oid && a.footprint ≠ 0 && b.footprint ≠ 0 && a.handle.cur < b.handle.cur + b.footprint && b.handle.cur < a.handle.cur + a.footprint

/-- Two descriptors are alike apart from FMT and RO; `shard` also leaves out SKIND and AXIS (R303, R318). -/
def alike (shard : Bool) (a b : DescVal) : Bool :=
  let m0 (v : DescVal) : Nat := outside (v.word 0) [(8, 4), (35, 1)]
  let m1 (v : DescVal) : Nat := if shard then outside (v.word 1) [(0, 5)] else (v.word 1).toNat
  m0 a = m0 b && m1 a = m1 b && a.w.drop 2 == b.w.drop 2 && a.tag == b.tag

/-- The operator may be in place on these two operands (R306). -/
def inPlaceOk (v : OpEnv) (i : Instr) (o n : Nat) : Bool :=
  let a := v.d o
  let b := v.d n
  match i with
  | .convert _ _ _ _ _ => a.fmt.width = b.fmt.width && alike false a b
  | .softmax _ _ _ | .norm _ | .eltw _ _ _ _ _ | .fft _ _ _ _ => alike false a b
  | .allreduce _ | .reducescatter _ | .allgather _ | .alltoall _ | .broadcast _ => alike true a b
  | _ => false

/-- The operand-alias rule. -/
def aliasBad (v : OpEnv) (i : Instr) : OpBad :=
  firstBad ((v.allOuts i).flatMap fun o => (v.allIns i).map fun n =>
    badIf (operandsMeet (v.d o) (v.d n) && !inPlaceOk v i o n) 0x4B (some o))

/-! ### The order of R303 -/

/-- The first check that an operator fails (R281, R301 to R303); `nd` and `na` bound descriptors and attribute words. -/
def opBad (v : OpEnv) (nd na : Nat) (i : Instr) : OpBad :=
  let o := opnds i
  let named := o.ins ++ o.outs
  let all := v.allIns i ++ v.allOuts i
  let head := o.outs.head?
  firstBad [
    badIf (named.any (nd ≤ ·) || o.attrs.any (na ≤ ·)) 0x42 none,
    badIf (attrBad v i) 0x41 none,
    badIf (all.any (nd ≤ ·)) 0x42 none,
    firstBad (all.map fun d => badIf (!(v.d d).valid) 0x44 (some d)),
    firstBad ((v.allOuts i).map fun d => badIf (v.d d).ro 0x44 (some d)),
    firstBad (all.map fun d => badIf (v.d d).bad 0x43 (some d)),
    badIf (fmtBad v i) 0x49 head, badIf (shapeBad v i) 0x48 head, badIf (shardBad v i) 0x4A head, aliasBad v i ]

/-! ### Exchanges between ranks (R305, R316 to R320) -/

/-- The ranks among which an operator exchanges data: its group where an operand is sharded over one, or this device alone. -/
def OpEnv.ranks (v : OpEnv) (i : Instr) : List Nat :=
  let at_ (d : Nat) : List Nat := v.group (v.d d).group
  let split (d : Desc) : List Nat := if (v.d d.toNat).skind = 2 then at_ d.toNat else [v.dev]
  match i with
  | .routeDispatch y _ _ _ | .routeCombine _ y _ _ => split y
  | .fft _ _ _ src => split src
  | .allreduce x | .reducescatter x | .allgather x | .alltoall x | .broadcast x => at_ x.src.toNat
  | .reshard dst src => match lowerOf (v.d src.toNat) (v.d dst.toNat) with
    | some .copy | none => [v.dev]
    | _ => at_ src.toNat
  | i =>
    let o := (opnds i).outs.headD 0
    if partialOut v i && (v.d o).skind ≠ 3 then at_ o else [v.dev]

/-! ### Fusion (R321) -/

/-- FUSE's rules on its members; the instruction with the FUSE's PC is malformed where they fail. -/
def fuseHead : Instr → Bool
  | .matmul _ _ _ _ _ | .attn _ | .norm _ | .softmax _ _ _ | .eltw _ _ _ _ _ | .convert _ _ _ _ _ => true
  | _ => false

def fuseTail : Instr → Bool
  | .eltw _ _ _ _ _ | .convert _ _ _ _ _ => true
  | _ => false

/-- The output of a member. -/
def outOf (i : Instr) : Nat := (opnds i).outs.headD 0

/-- Each later member takes the previous output once, with the same extents, and no other operand is another member's
output. `outs` are the outputs of all members. -/
def fuseChain (v : OpEnv) (outs : List Nat) : Nat → List Instr → Bool
  | _, [] => true
  | prev, i :: l =>
    let ins := (opnds i).ins
    fuseTail i && ins.contains prev && (ins.filter (· = prev)).length = 1 && (v.d (outOf i)).exts == (v.d prev).exts &&
      ((ins.filter (· ≠ prev)).all fun d => !(outs.erase (outOf i)).contains d) && fuseChain v outs (outOf i) l

def fuseOk (v : OpEnv) (l : List Instr) : Bool :=
  match l with
  | [] => false
  | i :: rest =>
    fuseHead i && !partialOut v i && ((opnds i).ins.all fun d => !((rest.map outOf).contains d)) &&
      fuseChain v (l.map outOf) (outOf i) rest

end Sys2Proof.Machine
end

