-- ==== Sys2Proof/Machine/OpValues.lean ====
section
/-!
DEFINITION. What graph operators compute (R307 to R320): each element of an output as a function of its coordinates, and
the elements of each tile (R323).
-/
namespace Sys2Proof.Machine

/-- What a kernel reads: the operator's environment, the W-bit elements of its operands by descriptor and coordinates, the
seed of a CONVERT, and the bytes of the receive buffer in which its exchanges have ended. -/
structure RdEnv where
  v : OpEnv
  el : Nat → List Nat → Nat
  seed : Nat
  rx : Nat → Nat

/-- A value that a kernel writes: none writes nothing, `free` is not stated by the spec. -/
inductive OutVal where
  | keep | free | val (n : Nat)

/-! ### f32 and f64 helpers -/

def dec (t : ElemType) (b : Nat) : FV := (fmtOf t).decode b
def rnd (t : ElemType) (x : FV) : Nat := (roundFV (fmtOf t) .rne false 0 x).1
def fsum (t : ElemType) (a b : Nat) : Nat := (fAdd (fmtOf t) .rne false (dec t a) (dec t b)).1
def fprod (t : ElemType) (a b : Nat) : Nat := (fMul (fmtOf t) .rne false (dec t a) (dec t b)).1
def special (f : Config.Special) (a : Nat) : Nat := (specialFn f .f32 false a).1

/-- The computing format of a float type: f64 for f64, else f32 (R307, R313). -/
def wideOf (t : ElemType) : ElemType := if t = .f64 then .f64 else .f32

/-- A pattern of a float type in its computing format, exactly. -/
def widen (t : ElemType) (b : Nat) : Nat := rnd (wideOf t) (valueOf t b)

/-- The axis-sum rule on patterns of f32 or f64 (R307). -/
def axisSum (t : ElemType) (l : List Nat) : Nat :=
  let c := if t = .f64 then 32 else 64
  let f (a b : Nat) : Nat × Flags := (fsum t a b, 0)
  let one (ch : List Nat) : Nat :=
    (((treeUp f 10 (ch ++ List.replicate (c - ch.length) (redIdentity .add t))).1.headD []).headD 0)
  match (chunks c l.length l).map one with
  | [] => redIdentity .add t
  | x :: xs => xs.foldl (fsum t) x

/-- x divided by a count, rounded once. -/
def divCount (x n : Nat) : Nat :=
  match dec .f32 x with
  | .fin s m e => if n = 0 then (fmtOf .f32).nanBits else let q := divSticky m n; rnd .f32 (.fin s (if m = 0 then 0 else q.1) (q.2 + e))
  | y => if n = 0 then (fmtOf .f32).nanBits else rnd .f32 y

/-! ### Coordinates -/

/-- The place of coordinates in packed order. -/
def packIdx : List Nat → List Nat → Nat
  | x :: xs, e :: es => x + e * packIdx xs es
  | _, _ => 0

/-- Coordinates of a broadcast operand (R306). -/
def bcast (xs : List Nat) (e : List Nat) : List Nat := (xs.zip e).map fun (x, n) => if n = 1 then 0 else x

/-- The line of an operand along an axis through coordinates xs. -/
def lineOf (g : List Nat → Nat) (xs : List Nat) (axis n : Nat) : List Nat := (rangeFrom 0 n).map fun k => g (setAt xs axis k)

/-! ### Tiles (R323) -/

def tileRows128 (n : Nat) : Nat := ceilDiv n 128

/-- Elements of an output. -/
def DescVal.bytes (v : DescVal) : Nat := (v.count * v.fmt.width + 7) / 8

/-- How many tiles an operator has. -/
def tileCount (v : OpEnv) (i : Instr) : Nat :=
  let o := v.d ((opnds i).outs.headD 0)
  let lines (d : DescVal) (axis : Nat) : Nat := (setAt d.exts axis 1).foldl (· * ·) 1
  match i with
  | .matmul _ _ _ _ _ => tileRows128 (o.ext 1) * ceilDiv (o.ext 0) 256 * (o.exts.getD 2 1)
  | .attn _ => tileRows128 (o.ext 1) * o.ext 2
  | .softmax axis _ _ => tileRows128 (lines o axis.toNat)
  | .norm x => tileRows128 (lines o x.axis.toNat)
  | .reduce _ _ _ _ _ => tileRows128 o.count
  | .topk _ _ _ _ _ => tileRows128 (lines o 0)
  | .fft _ _ _ _ => (o.exts.drop 2).foldl (· * ·) 1
  | .allreduce _ | .reducescatter _ | .allgather _ | .alltoall _ | .broadcast _ | .reshard _ _ | .routeDispatch _ _ _ _ =>
      max 1 (ceilDiv (v.d ((opnds i).ins.headD 0)).bytes 8192)
  | .routeCombine _ _ _ _ => max 1 (ceilDiv (v.d ((opnds i).ins.headD 0)).bytes 8192)
  | _ => ceilDiv o.count 65536

/-- Coordinates of an output's elements with packed places a … a + n − 1. -/
def packedCoords (e : List Nat) (a n : Nat) : List (List Nat) :=
  (rangeFrom a (min n (e.foldl (· * ·) 1 - a))).map fun k => coords k e

/-- Every coordinate of the lines a … a + n − 1 along an axis. -/
def lineCoords (e : List Nat) (axis a n : Nat) : List (List Nat) :=
  (packedCoords (setAt e axis 1) a n).flatMap fun xs => (rangeFrom 0 (e.getD axis 0)).map fun k => setAt xs axis k

/-- The coordinates of tile t of an operator's first output. -/
def tileCoords (v : OpEnv) (i : Instr) (t : Nat) : List (List Nat) :=
  let o := v.d ((opnds i).outs.headD 0)
  let e := o.exts
  match i with
  | .matmul _ _ _ _ _ =>
      let mt := tileRows128 (o.ext 1)
      let nt := ceilDiv (o.ext 0) 256
      let m0 := t % mt * 128
      let n0 := t / mt % nt * 256
      let b := t / mt / nt
      (rangeFrom m0 (min 128 (o.ext 1 - m0))).flatMap fun m => (rangeFrom n0 (min 256 (o.ext 0 - n0))).map fun n =>
        ([n, m, b] : List Nat).take o.rank
  | .attn _ =>
      let rt := tileRows128 (o.ext 1)
      let r0 := t % rt * 128
      (rangeFrom r0 (min 128 (o.ext 1 - r0))).flatMap fun r => (rangeFrom 0 (o.ext 0)).map fun x => [x, r, t / rt]
  | .softmax axis _ _ => lineCoords e axis.toNat (128 * t) 128
  | .norm x => lineCoords e x.axis.toNat (128 * t) 128
  | .reduce _ _ _ _ _ => packedCoords e (128 * t) 128
  | .topk _ _ _ _ _ => lineCoords e 0 (128 * t) 128
  | .fft _ _ _ _ => packedCoords e (t * (e.getD 0 0 * e.getD 1 0)) (e.getD 0 0 * e.getD 1 0)
  | .allreduce _ | .reducescatter _ | .allgather _ | .alltoall _ | .broadcast _ | .reshard _ _ | .routeDispatch _ _ _ _
  | .routeCombine _ _ _ _ =>
      -- chunk t of the send data; an output that is longer than it ends with the last tile
      let n := 65536 / o.fmt.width
      packedCoords e (n * t) (if t + 1 = tileCount v i then o.count else n)
  | _ => packedCoords e (65536 * t) 65536

/-! ### Stochastic rounding (R310) -/

/-- The draw of position k under a seed. -/
def drawAt (seed : BitVec 32) : Nat → Nat
  | 0 => (srDraw seed).toNat
  | k + 1 => drawAt (srDraw seed) k

/-- The draw for an element of a CONVERT or MATMUL output: the tile's seed and the element's place in the tile. -/
def tileDraw (v : OpEnv) (i : Instr) (seed : Nat) (xs : List Nat) : Nat :=
  let o := v.d (outOf i)
  match i with
  | .matmul _ _ _ _ _ =>
      let n := xs.getD 0 0
      let m := xs.getD 1 0
      let t := m / 128 + tileRows128 (o.ext 1) * (n / 256 + ceilDiv (o.ext 0) 256 * xs.getD 2 0)
      drawAt (.ofNat 32 (seed + t)) (m % 128 * min 256 (o.ext 0 - n / 256 * 256) + n % 256)
  | _ =>
      let p := packIdx xs o.exts
      drawAt (.ofNat 32 (seed + p / 65536)) (p % 65536)

/-! ### dx elements -/

/-- The place of the scale word of an element whose blocks run along `axis`. -/
def planeAt (axis : Nat) (xs : List Nat) : List Nat := xs.getD axis 0 / 32 :: (xs.take axis ++ xs.drop (axis + 1))

def RdEnv.scale (r : RdEnv) (d axis : Nat) (xs : List Nat) : Nat := r.el (r.v.d d).sdesc (planeAt axis xs)

/-! ### MATMUL (R308) -/

/-- The type of the accumulator. -/
def accType (a : ElemType) : ElemType := if a = .i8 then .i32 else if a = .f64 then .f64 else .f32

/-- K padded to whole tiles of A and B. -/
def padK (a : ElemType) (layB k : Nat) : Nat :=
  let t := if layB = 3 then 1024 else if layB = 4 then 512 else tileK a
  ceilDiv k t * t

/-- The update chain of one element from `start`: pairs of A and B elements at k, in increasing k. -/
def RdEnv.chain (r : RdEnv) (a b : Nat) (start k : Nat) (ca cb : Nat → List Nat) : Nat :=
  let fa := (r.v.d a).fmt
  let fb := (r.v.d b).fmt
  if fa.isDx then
    (rangeFrom 0 (ceilDiv k 32)).foldl (fun acc blk =>
      let ks := (rangeFrom (32 * blk) 32).filter (· < k)
      let x := ks.map fun j => r.el a (ca j)
      let y := ks.map fun j => r.el b (cb j)
      let dx4 := fa = .dx4
      (mscaElem dx4 (fun p => let s := planeSel p; planeSum dx4 s.1 s.2 x y) (r.scale a 0 (ca (32 * blk))) (r.scale b 1 (cb (32 * blk))) acc).1) start
  else
    let n := padK fa (r.v.d b).layout k
    (mmaChain fa fb start ((rangeFrom 0 n).map fun j => if j < k then (r.el a (ca j), r.el b (cb j)) else (0, 0))).1

/-- An element of C. -/
def RdEnv.matmul (r : RdEnv) (i : Instr) (acc : Bool) (rm : RMode) (c a b : Nat) (xs : List Nat) : Nat :=
  let va := r.v.d a
  let vb := r.v.d b
  let vc := r.v.d c
  let n := xs.getD 0 0
  let m := xs.getD 1 0
  let bat (v : DescVal) : List Nat := if v.rank = 3 then [if v.ext 2 = 1 then 0 else xs.getD 2 0] else []
  let z := r.chain a b (if acc then r.el c xs else 0) (va.ext 0) (fun k => [k, m] ++ bat va) (fun k => [n, k] ++ bat vb)
  (convert vc.fmt (accType va.fmt) rm false (match rm with | .sr => tileDraw r.v i 0 xs | _ => 0) z).1

/-! ### SOFTMAX, NORM, ATTN (R309, R311, R312) -/

/-- SOFTMAX of a line of f32 patterns into format t. -/
def softmaxLine (t : ElemType) (l : List Nat) : List Nat :=
  let f := fmtOf .f32
  let m := l.foldl (fMinMax f true) (f.infBits true)
  if m = f.infBits true then l.map fun _ => 0
  else
    let e := l.map fun x =>
      special .exp2 (fprod .f32 (rnd .f32 (sumFV .rne [dec .f32 x, (dec .f32 m).negate]).1) 0x3FB8AA3B)
    let q := special .rcp (axisSum .f32 e)
    e.map fun x => rnd t (mulFV (dec .f32 x) (dec .f32 q)).1

/-- NORM of position k of a line. -/
def RdEnv.norm (r : RdEnv) (x : NormW) (xs : List Nat) : Nat :=
  let src := r.v.d x.src.toNat
  let ax := x.axis.toNat
  let l := (lineOf (r.el x.src.toNat) xs ax (src.ext ax)).map (widen src.fmt)
  let n := l.length
  let mu := divCount (axisSum .f32 l) n
  let d := if x.rms then l else l.map fun y => rnd .f32 (sumFV .rne [dec .f32 y, (dec .f32 mu).negate]).1
  let var := divCount (axisSum .f32 (d.map fun y => fprod .f32 y y)) n
  let rho := special .rsq (fsum .f32 var (r.v.x x.eps.toNat))
  let k := xs.getD ax 0
  let t := fprod .f32 (d.getD k 0) rho
  let g := match x.gamma with | some e => r.el e.toNat [k] | none => 0x3F800000
  let b := match x.beta with | some e => r.el e.toNat [k] | none => 0
  rnd (r.v.d x.dst.toNat).fmt (dec .f32 (fFma (fmtOf .f32) .rne false (dec .f32 t) (dec .f32 g) (dec .f32 b)).1)

/-- The key-value head of a query head, and whether key j is masked for a row (R309). -/
def RdEnv.kvHead (r : RdEnv) (x : AttnW) (h : Nat) : Nat := h * (r.v.d x.k.toNat).ext 2 / (r.v.d x.q.toNat).ext 2
def RdEnv.masked (r : RdEnv) (x : AttnW) (row j : Nat) : Bool :=
  (x.causal && decide ((row : Int) + (r.v.d x.k.toNat).ext 1 - (r.v.d x.q.toNat).ext 1 < j)) ||
    (match x.mask with | some m => r.el m.toNat [j, row] = 0 | none => false)

/-- The weights P of a query row, in V's FMT (R309). -/
def RdEnv.weights (r : RdEnv) (x : AttnW) (row h : Nat) : List Nat :=
  let q := r.v.d x.q.toNat
  let k := r.v.d x.k.toNat
  let g := r.kvHead x h
  softmaxLine k.fmt ((rangeFrom 0 (k.ext 1)).map fun j =>
    if r.masked x row j then (fmtOf .f32).infBits true
    else fprod .f32 (r.chain x.q.toNat x.k.toNat 0 (q.ext 0) (fun d => [d, row, h]) (fun d => [d, j, g])) (r.v.x x.scale.toNat))

/-- An element of the product of the weights and V in the accumulator. -/
def RdEnv.attnAcc (r : RdEnv) (x : AttnW) (d row h : Nat) : Nat :=
  let k := r.v.d x.k.toNat
  let p := r.weights x row h
  (mmaChain k.fmt k.fmt 0 ((rangeFrom 0 (padK k.fmt 0 (k.ext 1))).map fun j =>
    if j < k.ext 1 then (p.getD j 0, r.el x.v.toNat [d, j, r.kvHead x h]) else (0, 0))).1

/-- An element of O: zero where every key is masked or there is none. -/
def RdEnv.attn (r : RdEnv) (x : AttnW) (xs : List Nat) : Nat :=
  let row := xs.getD 1 0
  if (rangeFrom 0 ((r.v.d x.k.toNat).ext 1)).all (r.masked x row) then 0
  else (convert (r.v.d x.o.toNat).fmt .f32 .rne false 0 (r.attnAcc x (xs.getD 0 0) row (xs.getD 2 0))).1

/-! ### ELTW (R313) -/

/-- An operand constant in dst's FMT, as an exact value or an integer pattern. -/
def eltConst (t : ElemType) (w : Nat) : FV × Nat :=
  if isFloat t then (dec .f32 w, 0) else let n := (intResult t false (rdInt .i32 w)).1; (valueOf t n, n)

/-- Float ELTW: the exact result before its one rounding into dst. -/
def eltFloat (op : EltOp) (t : ElemType) (a b : FV) : FV :=
  let w := wideOf t
  let pat (x : FV) : Nat := rnd w x
  let fn (f : Config.Special) (x : FV) : FV := dec .f32 (special f (pat x))
  match op with
  | .add => (sumFV .rne [a, b]).1
  | .sub => (sumFV .rne [a, b.negate]).1
  | .mul => (mulFV a b).1
  | .div => (mulFV a (fn .rcp b)).1
  | .max => dec w (fMinMax (fmtOf w) true (pat a) (pat b))
  | .min => dec w (fMinMax (fmtOf w) false (pat a) (pat b))
  | .neg => a.negate
  | .abs => match a with | .fin _ m e => .fin false m e | .inf _ => .inf false | .nan => .nan
  | .exp2 => fn .exp2 a
  | .log2 => fn .log2 a
  | .tanh => fn .tanh a
  | .sigm => fn .sigm a
  | .rcp => fn .rcp a
  | .rsqrt => fn .rsq a
  | .relu => dec w (fMinMax (fmtOf w) true (pat a) 0)
  | .silu => (mulFV a (fn .sigm a)).1
  | .gelu => (mulFV a (dec .f32 (special .sigm (fprod .f32 (pat a) 0x3FD9DB23)))).1

/-- Integer ELTW. -/
def eltInt (op : EltOp) (t : ElemType) (sat : Bool) (a b : Nat) : Nat :=
  match op with
  | .add => (addElem t sat .rne a b).1
  | .sub => (subElem t sat .rne a b).1
  | .mul => (mulElem t sat .rne a b).1
  | .max => (minMaxElem t true a b).1
  | .min => (minMaxElem t false a b).1
  | .neg => (negElem t sat a).1
  | .abs => (absElem t sat a).1
  | .relu => (minMaxElem t true a 0).1
  | _ => 0

def RdEnv.eltw (r : RdEnv) (sat : Bool) (op : EltOp) (dst a : Nat) (b : EltB) (xs : List Nat) : Nat :=
  let t := (r.v.d dst).fmt
  let rd (d : Nat) : Nat := r.el d (bcast xs (r.v.d d).exts)
  let x := rd a
  let y : FV × Nat := match b with
    | .none => (.fin false 0 0, 0)
    | .desc d => (valueOf t (rd d.toNat), rd d.toNat)
    | .attr k => eltConst t (r.v.x k.toNat)
  if isFloat t then (roundFV (fmtOf t) .rne sat 0 (eltFloat op t (valueOf t x) y.1)).1 else eltInt op t sat x y.2

/-! ### CONVERT (R306, R310) -/

/-- The 32 source values of the block of a dx output that holds xs; positions beyond the extent are zero. -/
def RdEnv.block (r : RdEnv) (src : Nat) (xs : List Nat) : List FV :=
  let v := r.v.d src
  let b := xs.getD 0 0 / 32 * 32
  (rangeFrom b 32).map fun k => if k < v.ext 0 then dxSource v.fmt (r.el src (setAt xs 0 k)) else .fin false 0 0

def RdEnv.convert (r : RdEnv) (i : Instr) (rm : RMode) (sat : Bool) (dst src : Nat) (xs : List Nat) : Nat :=
  let t := (r.v.d dst).fmt
  let u := (r.v.d src).fmt
  let draw := match rm with | .sr => tileDraw r.v i r.seed xs | _ => 0
  if t.isDx then
    let dx4 := t = .dx4
    (dxElem dx4 rm draw (dxScale dx4 (r.block src xs)) (dxSource u (r.el src xs))).1
  else if u.isDx then (roundFV (fmtOf t) rm sat draw (dxVal (u = .dx4) (r.el src xs) (r.scale src 0 xs))).1
  else (Machine.convert t u rm sat draw (r.el src xs)).1

/-! ### REDUCE (R314) -/

/-- Reduce one axis of length n of the element function g. -/
def reduceAxis (op : RedOp) (t : ElemType) (n axis : Nat) (g : List Nat → Nat) (xs : List Nat) : Nat :=
  let l := lineOf g xs axis n
  match op with
  | .add => if isFloat t then
      (if l = [] then redIdentity .add t else rnd t (dec (wideOf t) (axisSum (wideOf t) (l.map (widen t)))))
    else l.foldl (fun a b => (addElem t false .rne a b).1) 0
  | _ => l.foldl (fun a b => (redElem op t false .rne a b).1) (redIdentity op t)

/-- The result at coordinates xs of the source's rank, innermost reduced axis first. -/
def RdEnv.reduce (r : RdEnv) (op : RedOp) (mask : BitVec 8) (src : Nat) (xs : List Nat) : Nat :=
  let v := r.v.d src
  (((rangeFrom 0 v.rank).filter fun j => mask.getLsbD j).foldl (fun g j => reduceAxis op v.fmt (v.ext j) j g) (r.el src)) xs

/-- Coordinates of the source for those of a REDUCE output. -/
def unreduce (keep : Bool) (mask : BitVec 8) (rank : Nat) (xs : List Nat) : List Nat :=
  if keep then xs
  else ((rangeFrom 0 rank).foldl (fun (acc : List Nat × List Nat) j =>
    if mask.getLsbD j then (acc.1 ++ [0], acc.2) else (acc.1 ++ [acc.2.headD 0], acc.2.drop 1)) ([], xs)).1

/-! ### Indexing (R315) -/

/-- The index at position p. -/
def RdEnv.index (r : RdEnv) (index p : Nat) : Int := rdInt (r.v.d index).fmt (r.el index [p])

/-- The lowest position whose index lies outside 0 … n − 1. -/
def RdEnv.badIndex (r : RdEnv) (index n : Nat) : Option Nat :=
  (rangeFrom 0 ((r.v.d index).ext 0)).find? fun p => let x := r.index index p; x < 0 || (n : Int) ≤ x

/-- One SCATTER step. -/
def scatStep (mode : ScatMode) (t : ElemType) (a b : Nat) : Nat :=
  match mode with
  | .store => b
  | .add => (addElem t false .rne a b).1
  | .max => (minMaxElem t true a b).1
  | .min => (minMaxElem t false a b).1

/-- An element of SCATTER's dst; none where no position names its slice. -/
def RdEnv.scatter (r : RdEnv) (mode : ScatMode) (axis dst index update : Nat) (xs : List Nat) : OutVal :=
  let ps := (rangeFrom 0 ((r.v.d index).ext 0)).filter fun p => r.index index p = (xs.getD axis 0 : Int)
  if ps = [] then .keep
  else .val (ps.foldl (fun a p => scatStep mode (r.v.d dst).fmt a (r.el update (setAt xs axis p))) (r.el dst xs))

/-- x comes before y in TOPK's order (largest first; `small` smallest first; NaN is the greatest number). -/
def topkBefore (small : Bool) (t : ElemType) (x y : Nat) : Bool :=
  let less (a b : Nat) : Bool :=
    if isFloat t then (let u := dec t a; let w := dec t b; if u.isNan then false else if w.isNan then true else fLt false u w)
    else decide (rdInt t a < rdInt t b)
  if small then less x y else less y x

/-- The index of place `rank` in a line (R315). -/
def topkIdx (small : Bool) (t : ElemType) (l : List Nat) (rank : Nat) : Nat :=
  let n := l.length
  let before (i : Nat) : Nat := ((rangeFrom 0 n).filter fun j =>
    topkBefore small t (l.getD j 0) (l.getD i 0) || (j < i && !topkBefore small t (l.getD i 0) (l.getD j 0))).length
  ((rangeFrom 0 n).find? fun i => before i = rank).getD 0

/-! ### Exchanges between ranks (R316 to R320, R343) -/

/-- One exchange among the n ranks of a group: how its parts move, the rank that alone sends where there is one, the extents of what a rank
sends, the axes along which the parts join (`a`) and are cut (`b`), the bits of an element, the comets' operation and format, and
the elements that this rank sends. -/
structure Phase where
  low : Lower
  root : Option Nat
  exts : List Nat
  a : Nat
  b : Nat
  w : Nat
  op : Nat
  efmt : Nat
  el : List Nat → Nat

/-- Elements of w bits as bytes. -/
def packElems (w : Nat) (l : List Nat) : List Byte :=
  if w = 4 then (chunks 2 l.length l).map fun c => .ofNat 8 (c.getD 0 0 % 16 + 16 * (c.getD 1 0 % 16)) else l.flatMap (leBytes (w / 8))

namespace Phase
/-- Each rank gets a part of its own. -/
def cuts (p : Phase) : Bool := p.low == .reducescatter || p.low == .alltoall
/-- The parts of all ranks are combined in one place: comets other than RSTO. -/
def reduces (p : Phase) : Bool := p.op ≠ 3
/-- Extents of a part. -/
def part (p : Phase) (n : Nat) : List Nat := if p.cuts then setAt p.exts p.b (p.exts.getD p.b 0 / n) else p.exts
def count (p : Phase) (n : Nat) : Nat := (p.part n).foldl (· * ·) 1
def bytes (p : Phase) (n : Nat) : Nat := (p.count n * p.w + 7) / 8
/-- A part in whole 256-byte units. -/
def pad (p : Phase) (n : Nat) : Nat := ceilDiv (p.bytes n) 256 * 256
/-- All parts land in one place. -/
def oneSlot (p : Phase) : Bool := p.reduces || p.root.isSome
/-- Bytes of the receive buffer, and where the part of rank i lies in it. -/
def size (p : Phase) (n : Nat) : Nat := if p.oneSlot then p.pad n else n * p.pad n
def slot (p : Phase) (n i : Nat) : Nat := if p.oneSlot then 0 else i * p.pad n
/-- Comets of at most 8 KiB that carry a part. -/
def comets (p : Phase) (n : Nat) : Nat := ceilDiv (p.bytes n) 8192
/-- Arrivals that complete the exchange on rank `me` (R333, R347). -/
def expects (p : Phase) (n me : Nat) : Nat :=
  if p.reduces then n * p.comets n
  else match p.root with
    | some k => if me = k then 0 else p.comets n
    | none => (n - 1) * p.comets n
/-- Element k of the part for rank j. -/
def elem (p : Phase) (n j k : Nat) : Nat :=
  let xs := coords k (p.part n)
  p.el (if p.cuts then setAt xs p.b (xs.getD p.b 0 + j * (p.part n).getD p.b 0) else xs)
/-- Comet m of the part for rank j as its payload. -/
def payload (p : Phase) (n j m : Nat) : List Byte :=
  let per := 65536 / p.w
  let bs := packElems p.w ((rangeFrom (per * m) (min per (p.count n - per * m))).map (p.elem n j))
  bs ++ List.replicate ((256 - bs.length % 256) % 256) 0
/-- The comets that rank `me` sends, as (rank, comet, place in the send data): to itself as well where contributions are combined. -/
def sends (p : Phase) (n me : Nat) : List (Nat × Nat × Nat) :=
  if p.root.any (· ≠ me) then []
  else (rangeFrom 0 n).flatMap fun j => if j = me && !p.reduces then []
    else (rangeFrom 0 (p.comets n)).map fun m => (j, m, if p.cuts then j * p.comets n + m else m)
/-- The rank from which coordinates of the result come, and their place in its part. -/
def source (p : Phase) (n : Nat) (xs : List Nat) : Nat × Nat :=
  let e := p.part n
  if p.oneSlot then (p.root.getD 0, packIdx xs e)
  else
    let m := e.getD p.a 0
    (xs.getD p.a 0 / m, packIdx (setAt xs p.a (xs.getD p.a 0 % m)) e)
end Phase

/-- Element k of the part that begins at byte o of the receive buffer. -/
def RdEnv.rxElem (r : RdEnv) (w o k : Nat) : Nat :=
  if w = 4 then r.rx (o + k / 2) / 16 ^ (k % 2) % 16
  else (rangeFrom 0 (w / 8)).foldl (fun z b => z + r.rx (o + k * (w / 8) + b) * 256 ^ b) 0

/-- The result of an exchange at byte o of the receive buffer, for rank `me` of n. -/
def RdEnv.result (r : RdEnv) (p : Phase) (n me o : Nat) (xs : List Nat) : Nat :=
  let (i, k) := p.source n xs
  if p.reduces then (if n = 1 then p.elem 1 0 k else r.rxElem p.w o k)
  else if i = me then p.elem n me k else r.rxElem p.w (o + p.slot n i) k

/-- The element of rank i, of those that every rank has sent to all. -/
def RdEnv.gathered (r : RdEnv) (p : Phase) (n me o i : Nat) (ys : List Nat) : Nat :=
  if i = me then p.el ys else r.rxElem p.w (o + p.slot n i) (packIdx ys p.exts)

/-- Tensor d moves as raw data, its scale plane after it (R318). -/
def RdEnv.moved (r : RdEnv) (l : Lower) (root : Option Nat) (a b d : Nat) : List Phase :=
  let one (d : Nat) : Phase := ⟨l, root, (r.v.d d).exts, a, b, (r.v.d d).fmt.width, 3, 7, r.el d⟩
  one d :: if (r.v.d d).sdesc = 0 then [] else [one (r.v.d d).sdesc]

/-- Contributions of a type that the bank ALUs add are reduced (R318, R331); none for another type. -/
def reduced (l : Lower) (b : Nat) (op : RedOp) (t : ElemType) (e : List Nat) (el : List Nat → Nat) : List Phase :=
  let o := match op with | .add => 0 | .max => 1 | .min => 2
  let one (f : Nat) : List Phase := [⟨l, none, e, 0, b, t.width, o, f, el⟩]
  match t with
  | .f32 => one 0
  | .i32 => one 1
  | .f16 => one 2
  | .bf16 => one 3
  | _ => []

/-- The scale word that a rank contributes at plane coordinates; a block of zeros contributes 0 (R58). -/
def RdEnv.scaleOf (r : RdEnv) (src : Nat) (xs : List Nat) : Nat :=
  let s := r.v.d src
  let b := xs.headD 0 * 32
  let zero := (rangeFrom b (min 32 (s.ext 0 - b))).all fun k => (dxFields (s.fmt = .dx4) (r.el src (k :: xs.drop 1))).2.2 = 0
  if zero then 0 else r.el s.sdesc xs

/-- The two phases of an exact reduction (R58 to R60, R343). -/
def RdEnv.exact (r : RdEnv) (l : Lower) (n me src b : Nat) : List Phase :=
  let s := r.v.d src
  let scale : Phase := ⟨.allreduce, none, (r.v.d s.sdesc).exts, 0, 0, 16, 1, 5, r.scaleOf src⟩
  [ scale,
    ⟨l, none, s.exts, 0, b, 32, 0, 4, fun xs =>
      (dxwStore (dxwInt (s.fmt = .dx4) (r.el src xs) (r.scale src 0 xs) (r.result scale n me 0 (planeAt 0 xs) / 256))).1⟩ ]

/-- The lowering of a partial result to its declared sharding (R319, R320). -/
def partialLow (o : DescVal) : Lower := if o.skind = 2 then .reducescatter else .allreduce

/-- The exchanges of an operator in order. ROUTE's ranks send one another E and then X or Y whole, and those of a split FFT their
sources: DESIGN CHOICE, log 101. -/
def RdEnv.phases (r : RdEnv) (i : Instr) : List Phase :=
  let v := r.v
  let ranks := v.ranks i
  let n := ranks.length
  let me := ranks.idxOf v.dev
  let ax (d : Desc) : Nat := (v.d d.toNat).axis
  let coll (l : Lower) (x : CollW) : List Phase :=
    if x.exact then r.exact l n me x.src.toNat (ax x.dst)
    else reduced l (ax x.dst) x.op (v.d x.src.toNat).fmt (v.d x.src.toNat).exts (r.el x.src.toNat)
  let o := v.d (outOf i)
  match i with
  | .allreduce x => coll .allreduce x
  | .reducescatter x => coll .reducescatter x
  | .allgather x => r.moved .allgather none (ax x.src) 0 x.src.toNat
  | .alltoall x => r.moved .alltoall none (ax x.src) (ax x.dst) x.src.toNat
  | .broadcast x => r.moved .allreduce (some x.root.toNat) 0 0 x.src.toNat
  | .reshard dst src => match lowerOf (v.d src.toNat) (v.d dst.toNat) with
    | some .allreduce => reduced .allreduce 0 .add (v.d src.toNat).fmt (v.d src.toNat).exts (r.el src.toNat)
    | some .reducescatter => reduced .reducescatter (ax dst) .add (v.d src.toNat).fmt (v.d src.toNat).exts (r.el src.toNat)
    | some .allgather => r.moved .allgather none (ax src) 0 src.toNat
    | some .alltoall => r.moved .alltoall none (ax src) (ax dst) src.toNat
    | _ => []
  | .routeDispatch _ x e _ => r.moved .allgather none 0 0 e.toNat ++ r.moved .allgather none 0 0 x.toNat
  | .routeCombine _ y e _ => r.moved .allgather none 0 0 e.toNat ++ r.moved .allgather none 0 0 y.toNat
  | .fft _ _ _ src => r.moved .allgather none 1 0 src.toNat
  | .matmul acc rm c a b =>
      if partialOut v i then reduced (partialLow o) o.axis .add o.fmt (partialExts v i o) (r.matmul i acc rm c.toNat a.toNat b.toNat) else []
  | .reduce op keep mask _ src =>
      if partialOut v i then reduced (partialLow o) o.axis .add o.fmt (partialExts v i o)
        (fun xs => r.reduce op mask src.toNat (unreduce keep mask (v.d src.toNat).rank xs)) else []
  | _ => []

/-- Where exchange k begins in the receive buffer. -/
def phaseAt (ps : List Phase) (n k : Nat) : Nat := ((ps.take k).map (·.size n)).sum

/-! ### ROUTE (R316) -/

/-- One pair of the walk with its rank, expert and slot. -/
structure Routed where
  rank : Nat
  j : Nat
  t : Nat
  e : Nat
  slot : Option Nat

/-- The walk over every rank's E (k, T) with capacity c, as far as the first `most` pairs. -/
def routeWalk (e : DescVal) (n c most : Nat) (el : Nat → List Nat → Nat) : List Routed :=
  let step (acc : List Routed × Tbl Nat) (p : Nat) : List Routed × Tbl Nat :=
    let i := p / e.count
    let j := p % e.count % e.ext 0
    let t := p % e.count / e.ext 0
    let x := el i [j, t]
    let m := tget 0 acc.2 x
    if m < c then (acc.1 ++ [⟨i, j, t, x, some m⟩], tput 0 acc.2 x (m + 1)) else (acc.1 ++ [⟨i, j, t, x, none⟩], acc.2)
  ((rangeFrom 0 (min most (n * e.count))).foldl step ([], [])).1

/-- The lowest place whose expert is not below n. -/
def RdEnv.badExpert (r : RdEnv) (e n : Nat) : Option Nat :=
  let v := r.v.d e
  (rangeFrom 0 v.count).find? fun p => n ≤ r.el e [p % v.ext 0, p / v.ext 0]

/-- Y and CNT of a dispatch after the first `most` pairs of the walk; `x` gives each rank's tokens. -/
def RdEnv.dispatch (r : RdEnv) (y e cnt d n me most : Nat) (ee x : Nat → List Nat → Nat) (xs : List Nat) : Nat :=
  let v := r.v.d y
  let w := routeWalk (r.v.d e) n (v.ext 1) most ee
  let base := me * v.ext 2
  if d = cnt then (w.filter fun a => a.e = base + xs.getD 0 0 && a.slot.isSome).length
  else match w.find? fun a => a.e = base + xs.getD 2 0 && a.slot = some (xs.getD 1 0) with
    | some a => x a.rank [xs.getD 0 0, a.t]
    | none => 0

/-- X of a combine; `yy` gives each rank's slots. -/
def RdEnv.combine (r : RdEnv) (x y e w n me : Nat) (ee yy : Nat → List Nat → Nat) (xs : List Nat) : Nat :=
  let t := (r.v.d x).fmt
  let ne := (r.v.d y).ext 2
  let mine := (routeWalk (r.v.d e) n ((r.v.d y).ext 1) (n * (r.v.d e).count) ee).filter fun a => a.rank = me && a.t = xs.getD 1 0
  let s := mine.foldl (fun acc a => match a.slot with
    | none => acc
    | some k => (fFma (fmtOf .f32) .rne false (dec .f32 (r.el w [a.j, a.t])) (valueOf t (yy (a.e / ne) [xs.getD 0 0, k, a.e % ne])) (dec .f32 acc)).1) 0
  rnd t (dec .f32 s)

/-- What rank i holds of the tensor that exchange k gathers. -/
def RdEnv.ofRank (r : RdEnv) (i : Instr) (n me k rank : Nat) (ys : List Nat) : Nat :=
  let ps := r.phases i
  match ps[k]? with
  | some p => r.gathered p n me (phaseAt ps n k) rank ys
  | none => 0

/-! ### FFT (R317) -/

/-- x · 2^(−k), rounded once. -/
def scaleDown (t : ElemType) (k x : Nat) : Nat :=
  match dec t x with
  | .fin s m e => rnd t (.fin s m (e - k))
  | y => rnd t y

/-- An element of the transform of the (re, im) sequence of L points whose element (c, k) is `g c k`. -/
def fftElem (inv norm : Bool) (t : ElemType) (len : Nat) (g : Nat → Nat → Nat) (c k : Nat) : Nat :=
  let b := t.width / 8
  let bytes := (rangeFrom 0 len).flatMap fun k => (rangeFrom 0 2).flatMap fun c => leBytes b (g c k)
  let x := leNat ((rangeFrom ((k * 2 + c) * b) b).map (Config.fftByte inv t bytes))
  if inv && norm then scaleDown t len.log2 x else x

/-- An element of FFT's output: this rank's part of the transform, in natural order. -/
def RdEnv.fft (r : RdEnv) (i : Instr) (inv norm : Bool) (src n me : Nat) (xs : List Nat) : Nat :=
  let v := r.v.d src
  let len := v.ext 1
  let g (c k : Nat) : Nat := r.ofRank i n me 0 (k / len) ([c, k % len] ++ xs.drop 2)
  fftElem inv norm v.fmt (n * len) g (xs.getD 0 0) (xs.getD 1 0 + me * len)

/-! ### Copies of dx tensors (R39, R306) -/

/-- The dimension along which the blocks of a tensor run, by the extents of its scale plane. -/
def OpEnv.blockAxis (v : OpEnv) (d : Nat) : Nat :=
  let x := v.d d
  ((rangeFrom 0 x.rank).find? fun j => planeExts j x.exts == (v.d x.sdesc).exts).getD 0

/-- Plane coordinates xs of PERMUTE's dst in src's plane, `p` giving the source dimension of each destination dimension. -/
def permPlane (p : List Nat) (axis : Nat) (xs : List Nat) : List Nat :=
  let at_ := p.idxOf axis
  let ys := (xs.drop 1).take at_ ++ [xs.headD 0] ++ (xs.drop 1).drop at_
  let zs := (rangeFrom 0 p.length).map fun k => ys.getD (p.idxOf k) 0
  zs.getD axis 0 :: (zs.take axis ++ zs.drop (axis + 1))

/-! ### The value at each coordinate -/

/-- What an exchange leaves at coordinates xs of output d of a collective, RESHARD or partial result: exchange `k` gives the elements, `kp` the
scale plane, whose blocks of this rank's part begin at `shift`. Free where this device is no rank of the group or the exchange is
none that the spec states. -/
def RdEnv.collValue (r : RdEnv) (i : Instr) (d k kp : Nat) (shift : List Nat → List Nat) (xs : List Nat) : OutVal :=
  let ranks := r.v.ranks i
  let n := ranks.length
  let me := ranks.idxOf r.v.dev
  let ps := r.phases i
  let main : Bool := d = outOf i
  let q := if main then k else kp
  match ps[q]? with
  | some p => if me < n then .val (r.result p n me (phaseAt ps n q) (if main then xs else shift xs)) else .free
  | none => .free

/-- A collective that reduces: under EXACT its first exchange leaves the agreed scale words, of which this rank keeps those of its part. -/
def RdEnv.collReduced (r : RdEnv) (i : Instr) (x : CollW) (d : Nat) (xs : List Nat) : OutVal :=
  let v := r.v.d x.dst.toNat
  let me := (r.v.ranks i).idxOf r.v.dev
  let part (ys : List Nat) : List Nat :=
    if v.skind = 2 then setAt ys v.axis (ys.getD v.axis 0 + me * (r.v.d v.sdesc).ext v.axis) else ys
  if x.exact then r.collValue i d 1 0 part xs else r.collValue i d 0 1 id xs

/-- A partial result that other ranks add to (R319 rule 3). -/
def RdEnv.partialVal (r : RdEnv) (i : Instr) (d : Nat) (xs : List Nat) (n : Nat) : OutVal :=
  if partialOut r.v i && (r.v.d (outOf i)).skind ≠ 3 && r.v.ranks i ≠ [r.v.dev] then r.collValue i d 0 1 id xs else .val n

/-- What operator i writes at coordinates xs of output d; a dx output's scale plane is the output `sdesc` (R307 to R320). -/
def RdEnv.value (r : RdEnv) (i : Instr) (d : Nat) (xs : List Nat) : OutVal :=
  let ranks := r.v.ranks i
  let n := ranks.length
  let me := ranks.idxOf r.v.dev
  let here (x : Nat) : OutVal := if me < n then .val x else .free
  match i with
  | .copy dst src => .val (r.el (if d = dst.toNat then src.toNat else (r.v.d src.toNat).sdesc) xs)
  | .convert rm sat dst src _ =>
      if d = dst.toNat then .val (r.convert i rm sat dst.toNat src.toNat xs)
      else .val (dxScale ((r.v.d dst.toNat).fmt = .dx4) (r.block src.toNat (32 * xs.headD 0 :: xs.drop 1)))
  | .permute dst src x =>
      let p := (rangeFrom 0 (r.v.d dst.toNat).rank).map (permDim (r.v.x x.toNat))
      if d = dst.toNat then .val (r.el src.toNat ((rangeFrom 0 p.length).map fun k => xs.getD (p.idxOf k) 0))
      else .val (r.el (r.v.d src.toNat).sdesc (permPlane p (r.v.blockAxis src.toNat) xs))
  | .matmul acc rm c a b => r.partialVal i d xs (r.matmul i acc rm c.toNat a.toNat b.toNat xs)
  | .attn x => .val (r.attn x xs)
  | .softmax axis dst src =>
      let s := r.v.d src.toNat
      .val ((softmaxLine (r.v.d dst.toNat).fmt ((lineOf (r.el src.toNat) xs axis.toNat (s.ext axis.toNat)).map (widen s.fmt))).getD (xs.getD axis.toNat 0) 0)
  | .norm x => .val (r.norm x xs)
  | .eltw sat op dst a b => .val (r.eltw sat op dst.toNat a.toNat b xs)
  | .reduce op keep mask _ src => r.partialVal i d xs (r.reduce op mask src.toNat (unreduce keep mask (r.v.d src.toNat).rank xs))
  | .gather zero axis _ data index =>
      let n := (r.v.d data.toNat).ext axis.toNat
      let v := r.index index.toNat (xs.getD axis.toNat 0)
      if v < 0 ∨ (n : Int) ≤ v then (if zero then .val 0 else .keep) else .val (r.el data.toNat (setAt xs axis.toNat v.toNat))
  | .scatter mode _ axis dst index update => r.scatter mode axis.toNat dst.toNat index.toNat update.toNat xs
  | .routeDispatch y _ e cnt =>
      here (r.dispatch y.toNat e.toNat cnt.toNat d n me (n * (r.v.d e.toNat).count) (r.ofRank i n me 0) (r.ofRank i n me 1) xs)
  | .routeCombine x y e w => here (r.combine x.toNat y.toNat e.toNat w.toNat n me (r.ofRank i n me 0) (r.ofRank i n me 1) xs)
  | .topk small _ _ indices src =>
      let s := r.v.d src.toNat
      let l := lineOf (r.el src.toNat) xs 0 (s.ext 0)
      let k := topkIdx small s.fmt l (xs.headD 0)
      .val (if d = indices.toNat then k else l.getD k 0)
  | .fft inv norm _ src => here (r.fft i inv norm src.toNat n me xs)
  | .allreduce x | .reducescatter x => r.collReduced i x d xs
  | .allgather _ | .alltoall _ | .broadcast _ => r.collValue i d 0 1 id xs
  | .reshard dst src =>
      let s := r.v.d src.toNat
      let b := (r.v.d dst.toNat).axis
      let from_ : Nat := if d = dst.toNat then src.toNat else s.sdesc
      match lowerOf s (r.v.d dst.toNat) with
      | some .copy => .val (r.el from_ xs)
      | some .slice => here (r.el from_ (setAt xs b (xs.getD b 0 + me * (r.v.d d).ext b)))
      | some _ => r.collValue i d 0 1 id xs
      | none => .keep
  | _ => .keep

/-- The cells that operator i writes where a task covers coordinates `cs` of its first output: each output with its
coordinates. `all` says that the task writes every further output whole. -/
def opCells (v : OpEnv) (i : Instr) (cs : List (List Nat)) (all : Bool) : List (Nat × List Nat) :=
  let o := outOf i
  let s := v.d o
  let whole (d : Nat) : List (Nat × List Nat) := if all then (packedCoords (v.d d).exts 0 (v.d d).count).map fun xs => (d, xs) else []
  let plane := if s.sdesc = 0 then [] else match i with
    | .convert _ _ _ _ _ => (cs.filter fun xs => xs.headD 0 % 32 = 0).map fun xs => (s.sdesc, planeAt 0 xs)
    | _ => whole s.sdesc
  cs.map (fun xs => (o, xs)) ++ plane ++ match i with
    | .topk _ _ _ indices _ => cs.map fun xs => (indices.toNat, xs)
    | .routeDispatch _ _ _ cnt => whole cnt.toNat
    | _ => []

/-- The environment of the next member of a fused group: it reads the previous output as that member computed it (R322). -/
def RdEnv.after (r : RdEnv) (i : Instr) (seed : Nat) : RdEnv :=
  let o := outOf i
  let s := (r.v.d o).sdesc
  { r with
    seed := seed
    el := fun d xs => if d = o ∨ (s ≠ 0 ∧ d = s) then (match r.value i d xs with | .val n => n | _ => r.el d xs) else r.el d xs }

/-- The environments of the members of a group in order, with their seeds. -/
def memberEnvs (r : RdEnv) : List (Instr × Nat) → List (Instr × RdEnv)
  | [] => []
  | (i, sd) :: l =>
    let r := { r with seed := sd }
    (i, r) :: memberEnvs (r.after i 0) l

/-! ### Elements in memory (R284, R285) -/

/-- The bit at which an element of a plain layout begins, counted from the handle's CUR. -/
def elemBit (v : DescVal) (xs : List Nat) : Nat :=
  let w := v.fmt.width
  if v.layout = 0 then ((xs.zip v.strs).map fun (x, s) => x * s).sum * w
  else
    let t := tileDims v.layout v.fmt
    let x := xs.getD 0 0
    let y := xs.getD 1 0
    let c0 := ceilDiv (v.ext 0) t.1
    let c1 := ceilDiv (v.exts.getD 1 1) t.2
    let n := x / t.1 + c0 * (y / t.2 + c1 * packIdx (xs.drop 2) (v.exts.drop 2))
    n * (tileSize v.layout v.fmt * 8) + (y % t.2 * t.1 + x % t.1) * w

/-- Where tile number of a sparse B element begins, in bytes from CUR, with its column and logical k in the tile (R233). -/
def sparseTile (v : DescVal) (xs : List Nat) : Nat × Nat × Nat :=
  let t := tileDims v.layout v.fmt
  let x := xs.getD 0 0
  let y := xs.getD 1 0
  let n := x / t.1 + ceilDiv (v.ext 0) t.1 * (y / t.2 + ceilDiv (v.exts.getD 1 1) t.2 * packIdx (xs.drop 2) (v.exts.drop 2))
  (n * tileSize v.layout v.fmt, x % t.1, y % t.2)

/-- Kept values of a group column: N of the layout. -/
def sparseN (lay : Nat) : Nat := if lay = 3 then 32 else 64

/-- A sparse element from the bytes of its object at CUR + o (R233). -/
def sparseElem (v : DescVal) (byte : Nat → Nat) (xs : List Nat) : Nat :=
  let (a, n, k) := sparseTile v xs
  let g := k / 128
  let p := k % 128
  let m := a + 0x10000 + 16 * (256 * g + n)
  let mask := (rangeFrom 0 16).foldl (fun z b => z + byte (m + b) * 256 ^ b) 0
  if mask.testBit p then byte (a + 256 * (sparseN v.layout * g + popNat p (mask % 2 ^ p)) + n) else 0

/-- An element of a tensor from the bytes of its object at CUR + o. -/
def tensorElem (v : DescVal) (byte : Nat → Nat) (xs : List Nat) : Nat :=
  if v.layout = 3 ∨ v.layout = 4 then sparseElem v byte xs
  else
    let b := elemBit v xs
    let w := v.fmt.width
    if w = 4 then byte (b / 8) / 2 ^ (b % 8) % 16
    else (rangeFrom 0 (w / 8)).foldl (fun z k => z + byte (b / 8 + k) * 256 ^ k) 0

/-- The bytes of a sparse tensor that hold given elements, as offsets from CUR (R233): each column of a group keeps its
non-zero elements where there are exactly N of them; which are kept otherwise, or of the columns that pad it, is not stated. -/
def sparseBytes (v : DescVal) (el : List Nat → Nat) : List (Nat × OutVal) :=
  let t := tileDims v.layout v.fmt
  let n := sparseN v.layout
  let c0 := ceilDiv (v.ext 0) t.1
  let c1 := ceilDiv (v.exts.getD 1 1) t.2
  (rangeFrom 0 (c0 * c1 * (v.exts.drop 2).foldl (· * ·) 1)).flatMap fun tile =>
    let a := tile * tileSize v.layout v.fmt
    let rest := coords (tile / (c0 * c1)) (v.exts.drop 2)
    (rangeFrom 0 (256 / n)).flatMap fun g => (rangeFrom 0 256).flatMap fun col =>
      let x := tile % c0 * t.1 + col
      let vals := (rangeFrom 0 128).map fun p =>
        let y := tile / c0 % c1 * t.2 + 128 * g + p
        if x < v.ext 0 ∧ y < v.ext 1 then el ([x, y] ++ rest) else 0
      let nz := (rangeFrom 0 128).filter fun p => vals.getD p 0 ≠ 0
      let ok := nz.length = n
      let mask := (nz.map fun p => 2 ^ p).sum
      ((rangeFrom 0 n).map fun k => (a + 256 * (n * g + k) + col, if ok then OutVal.val (vals.getD (nz.getD k 0) 0) else .free)) ++
        (rangeFrom 0 16).map fun b => (a + 0x10000 + 16 * (256 * g + col) + b, if ok then OutVal.val (mask / 256 ^ b % 256) else .free)

end Sys2Proof.Machine
end

