-- ==== Sys2Proof/Machine/Collect.lean ====
section
/-!
DEFINITION. Comets and collectives (R266, R329 to R349, R354, R441): posting, arrival and the operation of each hop,
multicast, completion, timeout, and the release of switch slots.
-/
namespace Sys2Proof

open Machine

/-! ### Headers (R329 to R331) -/

def Comet.word (c : Comet) (k : Nat) : Word := c.hdr.getD k 0
def Comet.hops (c : Comet) : Nat := fld (c.word 0) 56 4
def Comet.hop (c : Comet) : Nat := fld (c.word 0) 52 4
def Comet.efmt (c : Comet) : Nat := fld (c.word 0) 45 3
def Comet.plen (c : Comet) : Nat := fld (c.word 0) 32 6
def Comet.boff (c : Comet) : Nat := fld (c.word 0) 0 32
def Comet.cid (c : Comet) : Nat := fld (c.word 1) 32 32
def Comet.seq (c : Comet) : Nat := fld (c.word 1) 0 16
/-- Route entry k and operation entry k. -/
def Comet.route (c : Comet) (k : Nat) : Nat := fld (c.word (2 + k / 2)) (32 * (k % 2)) 32
def Comet.op (c : Comet) (k : Nat) : Nat := fld (c.word (6 + k / 4)) (16 * (k % 4)) 16
def rPort (r : Nat) : Nat := r / 2 ^ 27
def rPod (r : Nat) : Nat := r / 2 ^ 16 % 2 ^ 11
def rDev (r : Nat) : Nat := r / 2 ^ 6 % 2 ^ 10
def rMc (r : Nat) : Bool := r.testBit 5
def opCode (o : Nat) : Nat := o / 2 ^ 13
def opDn (o : Nat) : Bool := o.testBit 12
def opFop (o : Nat) : Nat := o / 2 ^ 10 % 4

/-- The header as it goes to hop k. -/
def Comet.setHop (c : Comet) (k : Nat) : Comet :=
  let w := c.word 0
  { c with hdr := setAt c.hdr 0 (.ofNat 64 (w.toNat - fld w 52 4 * 2 ^ 52 + k % 16 * 2 ^ 52)) }

/-- Every hop after k stays on its device. -/
def Comet.localAfter (c : Comet) (k : Nat) : Bool := (rangeFrom (k + 1) (c.hops - (k + 1))).all fun j => rPort (c.route j) = 31

/-- The comet with route entry k naming device d directly. -/
def Comet.direct (c : Comet) (k d : Nat) : Comet :=
  let r := c.route k
  let r' := r / 2 ^ 16 * 2 ^ 16 + d % 1024 * 64
  let w := c.word (2 + k / 2)
  let w' := w.toNat - r * 2 ^ (32 * (k % 2)) + r' * 2 ^ (32 * (k % 2))
  { c with hdr := setAt c.hdr (2 + k / 2) (.ofNat 64 w') }

end Sys2Proof

namespace Sys2Proof.Machine

/-- Element formats that an operation allows (R331). -/
def efmtOk (op fop efmt : Nat) : Bool :=
  match op with
  | 0 => efmt ≤ 4
  | 1 | 2 => efmt ≤ 3 || efmt = 5
  | 4 => if fop = 0 then efmt ≤ 4 else efmt ≤ 3 || efmt = 5
  | _ => efmt ≠ 6

/-- A route entry fits the device that takes the hop (R330, R342): `last` says that only hops on that device follow. -/
def State.routeOk (s : State) (r : Nat) (last : Bool) : Bool :=
  let p := rPort r
  let pod := s.dev.pod.toNat
  let dev := s.dev.dev.toNat
  (!rMc r || last) &&
    if p < 18 then rPod r = pod
    else if p < 26 then rDev r = dev && !rMc r
    else p = 31 && rPod r = pod && rDev r = dev && !rMc r

/-- The codes of R332 that a posted header fails, in order. -/
def State.cometCodes (s : State) (c : Comet) : List Nat :=
  let n := c.hops
  let ks := rangeFrom 0 (min n 8)
  let has (b : Bool) (k : Nat) : List Nat := if b then [k] else []
  let op (k : Nat) : Nat := opCode (c.op k)
  has (fld (c.word 0) 60 4 ≠ 1 || n = 0 || 8 < n || c.hop ≠ 0 || c.cid / 4096 = 0 || fld (c.word 0) 48 4 ≠ 0 ||
    fld (c.word 0) 38 7 ≠ 0 || fld (c.word 1) 16 16 ≠ 0 || ks.any fun k => c.route k % 32 ≠ 0) 1 ++
  has (c.efmt = 6 || ks.any fun k => op k ≠ 7 && !efmtOk (op k) (opFop (c.op k)) c.efmt) 2 ++
  has (32 < c.plen || c.boff % 256 ≠ 0 || (c.plen = 0 && ks.any fun k => op k ≠ 5 && op k ≠ 6)) 3 ++
  has ((rangeFrom n (8 - n)).any (fun k => c.route k ≠ 0) || ks.any (fun k => 26 ≤ rPort (c.route k) && rPort (c.route k) ≠ 31) ||
    !s.routeOk (c.route 0) (c.localAfter 0)) 4 ++
  has ((rangeFrom n (8 - n)).any (fun k => c.op k ≠ 0) || ks.any fun k =>
    op k = 7 || c.op k % 1024 ≠ 0 || (if op k = 4 then opFop (c.op k) = 3 else opFop (c.op k) ≠ 0) || (op k = 5 && !opDn (c.op k))) 5 ++
  has (op (n - 1) = 4 || op (n - 1) = 6 || (c.plen = 0 && (rangeFrom 0 (n - 1)).any fun k => op k = 5 || op k = 3)) 6

/-! ### Sending (R330, R341, R349, R354, R441) -/

/-- The members of slot n of plane k in the mirror (R441). -/
def State.mirror (s : State) (k n : Nat) : List Nat :=
  let l := locFast 0 (fld s.dev.mcmbase 7 41 * 128 + 128 * (1024 * k + n))
  (rangeFrom 0 64).filterMap fun i =>
    let w := s.rdNat (l + 2 * i) 2
    if w.testBit 15 then some (w % 1024) else none

/-- A comet goes out by a port; it is held while a scale-up port trains, and in the queue of an Ethernet port's connection. -/
def State.cometOut (s : State) (p : Nat) (c : Comet) : State :=
  { s with comets := s.comets ++ [⟨p, c, 18 ≤ p || (tget SupPort.reset s.dev.sup p).st == .train⟩] }

/-- A comet of a released slot leaves once per member; a member that is this device gets it back over the fabric (R349). -/
def State.expandSlot (s : State) (p : Nat) (c : Comet) : State :=
  let k := c.hop
  (s.mirror p (rDev (c.route k))).foldl (fun s d =>
    let x := c.direct k d
    if d = s.dev.dev.toNat then { s with loopComets := s.loopComets ++ [x] } else s.cometOut p x) s

/-- Send a comet by its next route entry (R330, R336, R341, R354). -/
def State.sendComet (s : State) (c : Comet) : State :=
  let k := c.hop
  let r := c.route k
  let p := rPort r
  if !s.routeOk r (c.localAfter k) then s.cometDrop
  else if p = 31 then { s with loopComets := s.loopComets ++ [c] }
  else if p < 18 then
    let x := tget SupPort.reset s.dev.sup p
    if !x.en || x.st = .down then s.cometDrop
    else if rMc r && s.dev.released.contains (1024 * p + rDev r) then s.expandSlot p c
    else s.cometOut p c
  else
    let x := tget EthPort.reset s.dev.eth (p - 18)
    if x.en && x.up then s.cometOut p c else s.cometDrop

/-! ### Posting (R266, R332) -/

/-- The eight words at l. -/
def hdrAt (f : Nat → Nat → List Byte) (l : Nat) : List Word := (rangeFrom 0 8).map fun k => .ofNat 64 (leNat (f (l + 8 * k) 8))

/-- XCOMET (R266): the checks at issue, then an entry of the core's comet buffer. -/
def execXcomet (x : XCometW) (s : State) : Res :=
  slotP x.pr (fun s => withG s .i64 x.c fun off =>
    let ha := s.h x.a
    let hb := s.h x.b
    let a : Int := hb.cur + off.toInt
    match ha.check rR ha.cur 64 with
    | some f => s.hTrapped f s.pos ha
    | none =>
      let hl := s.ownSp ha ha.cur 64
      let plen := match hl with
        | .at_ l => leNat (s.view s.focus.eng s.focus.sec s.nextId (l + 4) 1) % 64
        | _ => 0
      let n := 256 * min plen 32
      match hb.check rR a n with
      | some f => s.hTrapped f s.pos hb
      | none =>
        if ha.cur % 64 ≠ 0 then s.hTrapped 7 s.pos ha
        else if a % 64 ≠ 0 then s.hTrapped 7 s.pos hb
        else inScratchpad s ha ha.cur 64 fun hl => inScratchpad s hb a.toNat n fun pl =>
          if 16 ≤ (s.pends.filter fun p => p.eng == s.focus.eng && match p.kind with | .comet _ _ _ _ _ => true | _ => false).length then s.stall
          else atPort s ha hl fun l => atPort s hb pl fun lp =>
            tokAdd s x.tok.val 1 fun s =>
              let (id, s) := s.fresh
              let s : State := { s with pends := s.pends ++
                [⟨id, s.focus.eng, s.focus.sec, some x.tok.val, .comet l lp x.cls s.fs.pc [ha.oid, hb.oid]⟩] }
              s.modFs fun y => { y with lags := y.lags ++ [LagEnt.mk id y.cycle .engine] }) s

/-- COMET_POST (R116, R332): header and payload are read in the posting's class, the token falls, the header is checked, and
the comet goes to its first hop. -/
def execCometPost (id : Nat) (s : State) : Res :=
  .next (match s.pendOf id with
    | some p => match p.kind with
      | .comet l lp cls pc _ =>
        if !s.ordered p.eng p.sec id cls then s
        else
          let rd (a n : Nat) : List Byte := s.view p.eng p.sec id a n
          let c : Comet := ⟨hdrAt rd l, []⟩
          let c : Comet := { c with payload := rd lp (256 * min c.plen 32) }
          let s := ((s.pendDone p).modEng p.eng fun x => x.modStr p.sec fun y => { y with lags := y.lags.filter (·.id ≠ id) }).otSettle
          match (s.cometCodes c).head? with
          | some code => s.engTrap p.eng p.sec pc (trapOf 0x27 code)
          | none => s.sendComet c
      | _ => s
    | none => s)

/-! ### Arrival (R335 to R338) -/

/-- The n bytes at a of the object that a handle of entry k's context names, in a space that the entry permits: what fails, or the page that
is not resident, or the runs. -/
inductive CollPlace where
  | bad | absent (ctx oid prio : Nat) (layer : Option Nat) (g : Nat) | runs (l : List (Nat × Nat × Nat))

def State.collPlace (s : State) (k : Nat) (h : Handle) (right a n : Nat) (fast : Bool) : CollPlace :=
  match s.entCtx k with
  | none => .bad
  | some c => match h.check right (a : Int) n with
    | some _ => .bad
    | none => match s.objEnt c h.oid with
      | none => .bad
      | some x =>
        if !(x.space.val = 1 || (fast && x.space.val = 2)) || x.size < a + n then .bad
        else match s.reach c h.oid a n with
          | .fault _ => .bad
          | .absent prio y g => .absent c h.oid prio y g
          | .runs l => .runs l

/-- The handles of entry k pass the checks of R336. -/
def State.entHandlesOk (s : State) (k : Nat) : Bool :=
  let buf := s.entHandle k 2
  let ok (h : Handle) (n : Nat) : Bool := match s.collPlace k h rW h.cur n false with | .runs _ => true | _ => false
  (match s.entCtx k with
    | some c => buf.tag && buf.has rB && (match s.objEnt c buf.oid with | some x => x.space.val = 1 || x.space.val = 2 | none => false)
    | none => false) && ok (s.entHandle k 4) 16 && ok (s.entHandle k 6) 8192

/-- Where byte o of n placed bytes lies. -/
def runAt (l : List (Nat × Nat × Nat)) (a o : Nat) : Nat :=
  match l.find? fun (_, b, k) => b ≤ a + o && a + o < b + k with
  | some (q, b, _) => q + (a + o - b)
  | none => 0

/-- The bank type and ALU operation of a comet operation (R331, R337). -/
def cometBank (efmt : Nat) : ElemType × BankType :=
  match efmt with
  | 0 => (.f32, .f32)
  | 1 => (.i32, .i32)
  | 2 => (.f16, .f16)
  | 3 => (.bf16, .bf16)
  | 4 => (.n32, .dxw)
  | _ => (.n8, .n64)

/-- One element of RRED, RMAX or RMIN. -/
def cometAlu (red efmt y x : Nat) : Nat × Flags :=
  if efmt = 5 then (if red = 1 then max y x else min y x, 0)
  else bankAlu (if red = 0 then .badd else if red = 1 then .bmax else .bmin) (cometBank efmt).2 0 y x

/-- The new bytes of the buffer and the flags. -/
def cometApply (op fop efmt : Nat) (y x : List Byte) : List Byte × Flags :=
  let t := (cometBank efmt).1
  if op = 3 then (x, 0)
  else
    let r := ((elemsOf t y).zip (elemsOf t x)).map fun (a, b) => cometAlu (if op = 4 then fop else op) efmt a b
    (r.flatMap fun p => leBytes (t.width / 8) p.1, r.foldl (fun z p => z ||| p.2) 0)

/-- Where the buffer of a comet lies at entry k (R336). -/
def State.cometBuf (s : State) (c : Comet) (k : Nat) : CollPlace :=
  let buf := s.entHandle k 2
  s.collPlace k buf rB (buf.cur + c.boff) (256 * c.plen) true

/-- The operation of an accepted comet at entry k, with its count and its next hop (R336 to R338). -/
def State.cometPerform (s : State) (c : Comet) (k : Nat) (ls : List (Nat × Nat × Nat)) (dmap : Nat) : State :=
  let o := c.op c.hop
  let op := opCode o
  let r : List Byte × Flags := if op ≤ 4 then cometApply op (opFop o) c.efmt (ls.flatMap fun (q, _, n) => s.bytes q n) c.payload else ([], 0)
  let s := if op ≤ 4 then s.runStore 0 ls r.1 else s
  let s := s.modDev fun d => { d with cometFlags := tput 0 d.cometFlags k (tget 0 d.cometFlags k ||| r.2) }
  let b := s.rdNat dmap 1
  let s := s.put dmap [.ofNat 8 (b + if b.testBit (c.seq % 8) then 0 else 2 ^ (c.seq % 8))]
  let w := s.entWord k 1
  let s := if opDn o then s.put64 (collLoc + 64 * k + 8) (pack [(32, 32, fld w 32 32 + 1), (0, 32, fld w 0 32)]) else s
  if c.hop + 1 < c.hops then
    s.sendComet { (c.setHop (c.hop + 1)) with payload := if op = 4 then r.1 else c.payload }
  else s

/-- A comet that no entry accepts waits at its port, with a retry count, or is dropped at the sixteenth (R335, R420). -/
def State.cometPark (s : State) (c : Comet) (retry : Nat) : State :=
  if 16 ≤ retry then (s.errRecord 8 0 5 (.ofNat 64 c.cid) none).cometDrop
  else { s with parkedComets := s.parkedComets ++ [⟨c, retry + 1, s.retryAt (retry + 1)⟩] }

/-- An arriving comet is matched against its entry (R335, R336); `retry` counts the retries it has made. An operation without a data effect
needs no page of the buffer. -/
def State.cometArrive (s : State) (c : Comet) (retry : Nat) : State :=
  let k := c.cid % 4096
  let w0 := s.entWord k 0
  let same := s.entCid k = c.cid && c.cid / 4096 ≠ 0
  if c.hops ≤ c.hop || c.hdr.length ≠ 8 || c.payload.length ≠ 256 * c.plen then s.cometDrop
  else if opCode (c.op c.hop) = 7 then s.pauseCount c.cid (c.boff = 1)
  else if s.entArmed k && same then
    let dm := s.entHandle k 6
    if !s.entHandlesOk k then s.cometDrop
    else match s.collPlace k dm rW dm.cur 8192 false with
      | .runs l =>
        let dmap := runAt l dm.cur (c.seq / 8)
        if (s.rdNat dmap 1).testBit (c.seq % 8) then s
        else match s.cometBuf c k with
          | .bad => s.cometDrop
          | .absent x o pr y g =>
            if opCode (c.op c.hop) ≤ 4 then ((s.absentReq x o pr y g).1).cometPark c retry else s.cometPerform c k [] dmap
          | .runs ls => s.cometPerform c k ls dmap
      | _ => s.cometDrop
  else if w0.getLsbD 62 && fld w0 60 2 = 0 && same then s.modDev fun d => { d with cometDiscards := d.cometDiscards + 1 }
  else s.cometPark c retry

/-- No write to the comet's buffer is still on its way, and no migration has copied a line of it, so that its operation keeps the coherence
order (R95, R114, R411). -/
def State.cometQuiet (s : State) (c : Comet) : Bool :=
  match s.cometBuf c (c.cid % 4096) with
  | .runs l => 4 < opCode (c.op c.hop) || l.all fun (q, _, n) => s.allQuiet q n && !s.migBlocked q n
  | _ => true

/-- A comet that waits: where a migration holds it back its port has received a retry response, which is counted (R412). -/
def State.cometWaits (s : State) (c : Comet) : State :=
  match s.cometBuf c (c.cid % 4096) with
  | .runs l => if opCode (c.op c.hop) ≤ 4 && l.any fun (q, _, n) => s.migBlocked q n then s.modDev fun d => { d with rtrycnt := d.rtrycnt + 1 } else s
  | _ => s

/-- COMET_ARRIVAL: a comet from the fabric, from this device's own loop, or parked at a port and due for its retry. -/
def execCometArrival (c : CometSrc) (s : State) : Res :=
  .next (match c with
    | .fabric x => if s.cometQuiet x then s.cometArrive x 0 else s.cometWaits x
    | .loop k => match s.loopComets[k]? with
      | none => s
      | some x => if s.cometQuiet x then ({ s with loopComets := s.loopComets.eraseIdx k } : State).cometArrive x 0 else s.cometWaits x
    | .parked k => match s.parkedComets[k]? with
      | none => s
      | some p =>
        if s.clk.toNat < p.retryAt then s
        else if !s.cometQuiet p.c then s.cometWaits p.c
        else ({ s with parkedComets := s.parkedComets.eraseIdx k } : State).cometArrive p.c p.retry)

/-! ### Multicast (R342, R349) -/

/-- SWITCH_MULTICAST: the switch replicates a sent comet once per member of its slot; the replica for this device, if it is a
member, arrives here with its header unchanged (R342). -/
def execSwitchMulticast (k : Nat) (s : State) : Res :=
  .next (match s.comets[k]? with
    | none => s
    | some o =>
      let r := o.c.route o.c.hop
      if !rMc r || 18 ≤ o.port then s
      else
        let s' := { s with comets := s.comets.eraseIdx k }
        if (s.mirror o.port (rDev r)).contains s.dev.dev.toNat then { s' with loopComets := s'.loopComets ++ [o.c] } else s')

/-- SLOT_RELEASE: the notice that a switch has released a slot arrives; comets to it that came back unreplicated leave point
to point, as later ones do (R349). -/
def execSlotRelease (plane slot : Nat) (s : State) : Res :=
  .next (if 18 ≤ plane ∨ 1024 ≤ slot then s
    else
      let mine (o : OutComet) : Bool := o.port == plane && rMc (o.c.route o.c.hop) && rDev (o.c.route o.c.hop) == slot
      let back := s.comets.filter mine
      let s := ({ s with comets := s.comets.filter fun o => !mine o } : State).modDev fun d =>
        { d with released := if d.released.contains (1024 * plane + slot) then d.released else d.released ++ [1024 * plane + slot] }
      back.foldl (fun s o => s.expandSlot plane o.c) s)

/-! ### Completion (R339, R348) -/

/-- Complete entry k with a status: the record at CMP, then DONE set and ARM clear (R336, R339). -/
def State.collFinish (s : State) (k status : Nat) : State :=
  let h := s.entHandle k 4
  let w0 := s.entWord k 0
  let arr := fld (s.entWord k 1) 32 32
  let s := match s.collPlace k h rW h.cur 16 false with
    | .runs l => s.putWords (runAt l h.cur 0) [pack [(32, 32, s.entCid k), (0, 32, arr)], pack [(60, 4, status), (0, 4, (tget 0 s.dev.cometFlags k).toNat)]]
    | _ => s.cometDrop
  let s := s.put64 (collLoc + 64 * k) (.ofNat 64 (w0.toNat % 2 ^ 62 + 2 ^ 62))
  s.modDev fun d => { d with timers := tput (0, none) d.timers k (0, none) }

/-- Entry k is armed and completes at a count. -/
def State.entCounts (s : State) (k : Nat) : Bool := s.entArmed k && fld (s.entWord k 1) 0 32 ≠ 0

/-- COLLECTIVE_COMPLETE: the counted arrivals have reached EXP (R339). -/
def execCollectiveComplete (i : Nat) (s : State) : Res :=
  .next (if i < 4096 && s.entCounts i && decide (fld (s.entWord i 1) 0 32 ≤ fld (s.entWord i 1) 32 32) then s.collFinish i 0 else s)

/-- The running time of entry k's timer (R348). -/
def State.runTime (s : State) (k : Nat) : Nat :=
  match tget (0, none) s.dev.timers k with
  | (a, some t) => a + (s.clk.toNat - t)
  | (a, none) => a

/-- The source of a library gang's operator. -/
def collSource (l : List Instr) : Nat := ((l.head?).bind fun i => (opnds i).ins.head?).getD 0

/-- COLLECTIVE_TIMEOUT (R348): the running time exceeds TMO; the routine whose gangs wait for that entry takes the
collective-timeout trap, which names the operator and its src (R318). -/
def execCollectiveTimeout (i : Nat) (s : State) : Res :=
  .next (
    let tmo := let t := fld (s.entWord i 0) 32 16; if t = 0 then 2000 else t
    if i < 4096 && s.entCounts i && decide (tmo * msClk < s.runTime i) then
      let t := s.collFinish i 1
      match t.gangs.find? fun g => g.coll.contains (s.entCid i) with
        | none => t
        | some g =>
          let d := collSource g.lib
          t.gangTrap g.gk 0 false none 0 ⟨0x54, 0, some (((tfind g.descs d).map fun v => v.handle.oid).getD 0), some d, none⟩
    else s)

end Sys2Proof.Machine
end

