-- ==== Sys2Proof/Machine/Submit.lean ====
section
/-!
DEFINITION. Submission (R357 to R359, R378 to R385): the queues, the service threads, the four record types, the
notifications, the end of a run (R376, R377).
-/
namespace Sys2Proof.Machine

/-! ### Capabilities of the service processor (R358, R359) -/

def rRD : Nat := 123
def rWR : Nat := 122
def rEX : Nat := 121

/-- The check of R359 on n bytes at a with the right at bit `right`. -/
def State.bcxOk (s : State) (h : Handle) (right a n : Nat) : Bool :=
  let b := h.bits.toNat
  let kind := b / 2 ^ 124
  let lo := b / 2 ^ 70 % 2 ^ 42 * 64
  h.tag && kind < 6 && b / 2 ^ 112 % 256 = (tget 0 s.dev.epochs kind).toNat && b.testBit right && (right != rEX || kind = 4) &&
    lo ≤ a && a + n ≤ lo + b / 2 ^ 48 % 2 ^ 18 * 2 ^ (6 + b / 2 ^ 66 % 16)

/-- The capability by which a thread reads the device range of FEEDDEV: KIND 0, RD, the current epoch (R374, R380). -/
def State.feedCap (s : State) (w : Word) : Handle :=
  ⟨.ofNat 128 (2 ^ rRD + (tget 0 s.dev.epochs 0).toNat * 2 ^ 112 + fld w 16 32 * 1024 * 2 ^ 70 + 10 * 2 ^ 66 + fld w 0 16 * 2 ^ 48), true⟩

/-! ### Service threads (R357, R362) -/

/-- A thread that serves a submission queue (KIND 1) or a partition's trap queue (KIND 2) and is awake. -/
def State.thread? (s : State) (kind : Nat) (part : Fin 4) (q : Nat) : Option Nat :=
  (s.dev.threads.find? fun (n, t) => s.threadOf part n t && t.awake && t.kind.val == kind && (kind == 2 || t.qid == q)).map (·.1)

/-- SERVICE_THREAD_WAKE: a write to the notify register of a bound thread's queue wakes the thread (R357). -/
def execServiceThreadWake (n : Nat) (s : State) : Res :=
  .next (let t := tget SpThread.reset s.dev.threads n
    if t.en && t.kind ≠ 0 then s.modDev fun d => d.modThread n fun x => { x with awake := true } else s)

/-! ### Notifications (R384, R385) -/

def SubQ.depth (x : SubQ) : Nat := 2 ^ x.ldep
def SubQ.nent (x : SubQ) : Nat := 2 ^ (x.lnent + 4)

/-- Write one notification at the head of the ring, with its phase, and its MSI-X message (R384, R385). -/
def State.writeNote (s : State) (q : Nat) (n : Note) : State :=
  let x := s.queue q
  let k := x.nwidx.toNat
  let bs := words [n.w0, n.w1 ||| pack [(15, 1, k / x.nent + 1)]]
  let a := fld x.nbase 4 59 * 16 + 16 * (k % x.nent)
  let s := if x.nbase.getLsbD 63 then (let (id, s) := s.fresh; s.extSend id (locBus a) (some bs) true) else s.put (locFast x.part.val a) bs
  s.modQueue q fun y => { y with nwidx := y.nwidx + 1, msix := if y.ven then y.msix + 1 else y.msix }

/-- Write the held notifications as far as the ring has room (R385). -/
def State.writeNotes (s : State) (q : Nat) : List Note → State
  | [] => s.modQueue q fun x => { x with held := [] }
  | n :: l =>
    let x := s.queue q
    if ringRoom x.nwidx x.ncons x.nent then (s.writeNote q n).writeNotes q l else s.modQueue q fun x => { x with held := n :: l }

/-- Post a notification (R385). -/
def State.notify (s : State) (q : Nat) (n : Note) : State := s.writeNotes q ((s.queue q).held ++ [n])

/-- The notification of a record (R384); its PH is set when it is written. -/
def noteOf (cookie : Word) (seq ty ctx status detail : Nat) : Note :=
  ⟨cookie, pack [(48, 16, detail), (40, 8, status), (32, 8, ty), (16, 16, seq), (0, 10, ctx)]⟩

/-- NCONS: a store frees notification entries and held notifications are written (R378, R385). -/
def execNcons (q : Fin 64) (v : Word) (s : State) : Res :=
  .next (let s := s.modQueue q.val fun x => { x with ncons := v.setWidth 16 }
    s.writeNotes q.val (s.queue q.val).held)

/-! ### Submission (R378, R379) -/

/-- What a master outside the core receives as an answer. -/
def State.reply (s : State) (bs : List Byte) : State := s.modDev fun d => { d with replies := d.replies ++ [bs] }

/-- Location of record k's slot. -/
def State.recLoc (s : State) (q : Nat) (k : BitVec 16) : Nat :=
  let x := s.queue q
  locFast x.part.val (fld x.ring 7 41 * 128 + 128 * (k.toNat % x.depth))

/-- The queue takes a record now (R379). -/
def SubQ.takes (x : SubQ) : Bool := x.en && !x.err && ringRoom x.widx x.ridx x.depth

/-- Submit a record whole: ACCEPT (1) writes it into the ring, RETRY (2) changes nothing (R378, R379). -/
def State.submit (s : State) (q : Nat) (rec : List Word) : State :=
  let x := s.queue q
  if x.takes then
    ((s.putWords (s.recLoc q x.widx) rec).modQueue q fun y => { y with widx := y.widx + 1 }).reply [1]
  else s.reply [2]

/-- A write to SUBMIT that is no 128-byte DMWr is discarded and counted (R378). -/
def State.submitDrop (s : State) (q : Nat) : State := s.modQueue q fun x => { x with drop := x.drop + 1 }

/-- SUBMIT: a 128-byte DMWr submits its record; any other write is discarded and counted, a DMWr of another size with the answer RETRY, since
every DMWr is answered and it is not accepted (R378; DEDUCED, log 108). Before boot stage 4 the host's writes are ignored (R450). -/
def execSubmit (q : Fin 64) (dmwr : Bool) (rec : List Word) (s : State) : Res :=
  .next (if dmwr && rec.length = 16 then s.submit q.val rec
    else if s.dev.stage < 4 then s
    else if dmwr then (s.submitDrop q.val).reply [2]
    else s.submitDrop q.val)

/-- GO: a load takes STAGE whole as one record (R378). -/
def execGo (q : Fin 64) (s : State) : Res :=
  .next (s.submit q.val ((rangeFrom 0 16).map fun k => tget 0 (s.queue q.val).stage k))

/-- QRESET of 1 skips the offending record; ignored unless ERR is set (R378, R380). -/
def execQresetSkip (q : Fin 64) (s : State) : Res :=
  .next (if (s.queue q.val).err then s.modQueue q.val fun x => { x with ridx := x.ridx + 1, err := false } else s)

/-- QRESET of 2 discards every pending record; ignored unless ERR is set (R378, R380). -/
def execQresetDiscard (q : Fin 64) (s : State) : Res :=
  .next (if (s.queue q.val).err then s.modQueue q.val fun x => { x with ridx := x.widx, err := false } else s)

/-! ### Records (R380, R381) -/

/-- The record that the queue's thread would process now, with the thread: none in ERROR, while the notification ring is full,
or while no thread is awake for the queue (R357, R380, R385). -/
def State.headRec (s : State) (q : Nat) : Option (Nat × List Word) :=
  let x := s.queue q
  if x.err || x.ridx = x.widx || x.held ≠ [] || !ringRoom x.nwidx x.ncons x.nent then none
  else (s.thread? 1 x.part q).map fun t => (t, (rangeFrom 0 16).map fun k => s.rd64 (s.recLoc q x.ridx + 8 * k))

def recType (w : List Word) : Nat := fld (w.getD 0 0) 0 8
def recCtx (w : List Word) : Nat := fld (w.getD 0 0) 32 10

/-- A res0 field of a record is not zero (R380). -/
def recRes0 (w : List Word) : Bool :=
  let g (k : Nat) : Word := w.getD k 0
  outside (g 0) [(0, 9), (16, 16), (32, 10)] ≠ 0 ||
    match recType w with
    | 1 => outside (g 2) [(0, 6)] ≠ 0
    | 2 => outside (g 2) [(0, 20)] ≠ 0 || outside (g 4) [(0, 32)] ≠ 0 || (w.drop 6).any (· ≠ 0)
    | 3 => outside (g 2) [(0, 20)] ≠ 0 || (w.drop 5).any (· ≠ 0)
    | _ => (w.drop 2).any (· ≠ 0)

/-- The priority that a LAUNCH names: the record's, or under DEFP the image's (R380). -/
def State.launchPrio (s : State) (w : List Word) : Nat :=
  if (w.getD 2 0).getLsbD 5 then s.rdNat (s.img (recCtx w) 0x4E) 1 else fld (w.getD 2 0) 0 5

/-- The source of a FEED passes the thread's capability check (R380). -/
def State.feedOk (s : State) (q : Nat) (w : List Word) : Bool :=
  let x := s.queue q
  let a := fld (w.getD 5 0) 0 63
  let n := fld (w.getD 4 0) 0 32
  if (w.getD 5 0).getLsbD 63 then
    let lo := fld x.feedhost 16 47 * 65536
    lo ≤ a && a + n ≤ lo + fld x.feedhost 0 16 * 65536
  else s.bcxOk (s.feedCap x.feeddev) rRD a n

/-- The reason for which a record is malformed (R380). -/
def State.recBad (s : State) (q : Nat) (w : List Word) : Option Nat :=
  let ty := recType w
  if ty = 0 ∨ 4 < ty then some 1
  else if recRes0 w then some 2
  else if (s.ctx (recCtx w)).ownq ≠ q then some 3
  else if ty = 1 ∧ (s.queue q).maxprio < s.launchPrio w then some 4
  else if ty = 2 ∧ fld (w.getD 4 0) 0 32 = 0 then some 5
  else if ty = 2 ∧ !s.feedOk q w then some 6
  else none

/-- The notification of a record in the ring. -/
def recNote (w : List Word) (status detail : Nat) : Note :=
  noteOf (w.getD 1 0) (fld (w.getD 0 0) 16 16) (recType w) (recCtx w) status detail

/-- The record has been processed: the thread goes on, or sleeps where the queue is empty. -/
def State.recDone (s : State) (q t : Nat) : State :=
  let s := s.modQueue q fun x => { x with ridx := x.ridx + 1, feed := none }
  if (s.queue q).ridx = (s.queue q).widx then s.sleep t else s

/-- A record that cannot act is notified as REFUSED, a FEED or SIGNAL only with NTF (R381, R384). -/
def State.refuse (s : State) (q t : Nat) (w : List Word) (detail : Nat) : State :=
  let s := s.recDone q t
  if recType w = 1 ∨ (w.getD 0 0).getLsbD 8 then s.notify q (recNote w 3 detail) else s

/-- Process the head record if it has the given TYPE, or an unknown one: a malformed record puts the queue into ERROR (R380). -/
def onRecord (q : Fin 64) (ty : Nat) (f : Nat → List Word → State → State) (s : State) : Res :=
  .next (match s.headRec q.val with
    | none => s
    | some (t, w) =>
      if recType w ≠ ty ∧ recType w ≠ 0 ∧ recType w ≤ 4 then s
      else match s.recBad q.val w with
        | some r =>
          let s := if r = 6 then s.modDev fun d => d.modThread t fun x => { x with faults := x.faults + 1 } else s
          let s := s.modQueue q.val fun x => { x with err := true, reci := x.ridx, reason := .ofNat 8 r }
          s.notify q.val (recNote w 5 r)
        | none => f t w s)

/-! ### LAUNCH (R279, R381, R382, R399, R405) -/

/-- Entry e of XREQ. -/
def State.xreq (s : State) (c : Nat) : List Nat :=
  let (o, n) := s.section c 0x38
  (rangeFrom 0 (n / 8)).map fun k => s.rdNat (s.img c (o + 8 * k)) 1

/-- An XOP has a routine bound in the operator table of every sequencer of the partition (R326, R328). -/
def State.xopBound (s : State) (p opc : Nat) : Bool :=
  let qs := s.seqsOf p
  !qs.isEmpty && qs.all fun q => (tget 0 (s.seq q).opTable opc).getLsbD 32

/-- The refusal of a LAUNCH (R381). -/
def State.launchBad (s : State) (c : Nat) : Option Nat :=
  let x := s.ctx c
  if x.st ≠ .loaded ∧ x.st ≠ .stopped then some 1
  else if !x.imgok then some 2
  else if (s.xreq c).any fun o => !s.xopBound x.part.val o then some 3
  else if x.clset = 0 || (cluList x.clset).any fun k => !s.cluOn k || (s.clu k).part != x.part then some 4
  else none

/-- Bind descriptor d of layer n to its object (R279): the object that the table already holds under the descriptor's OID, or a
new one, swapped out, with a backing copy in the capacity tier. The handle carries R. -/
def State.mintLayer (s : State) (c n d : Nat) : State :=
  let v := s.desc c d
  let bind (s : State) (oid size : Nat) : State :=
    s.putDesc c d (((v.setHandle (newHandle oid 0x80 size)).setWord 12 (.ofNat 64 size)).setFlags true ((v.word 0).getLsbD 33))
  if v.valid && v.tag then s
  else match (if v.valid then s.objEnt c (s.descOid c d) else none) with
    | some x => bind s (s.descOid c d) x.size
    | none =>
      let k := ceilDiv v.footprint 65536
      let p := (s.ctx c).part.val
      let (w, t) := s.draw
      match t.freeOid c (w.toNat % 2 ^ 20) (2 ^ 20) with
      | none => s
      | some oid =>
        if k = 0 ∨ runTotal (t.freeCap p) < k then s
        else
          let (t, bg) := t.takeUnits (t.freeCap p) k
          let es := bg.zipIdx.map fun (b, i) => Extent.mk 0 true 1 i b 0
          let t := t.modCtx c fun x => { x with exts := tset x.exts oid es }
          let t := t.putObj c oid (some ⟨2, 0, k * 65536, n, s.layerPrio c n, false, v.nextu, 0, k⟩)
          bind t oid (k * 65536)

/-- A context's first launch: its residency words are placed at zero and its layers' descriptors are bound (R279, R399). -/
def State.firstLaunch (s : State) (c : Nat) : State :=
  let ls := rangeFrom 0 (s.layers c)
  let s := ls.foldl (fun s n => s.put64 (s.resLoc c n) 0) s
  ls.foldl (fun s n => (s.layerDescs c n).foldl (fun s d => s.mintLayer c n d) s) s

/-- The FETCH command that a LAUNCH issues for layer n (R405). -/
def fetchCmd (c n : Nat) : List Word :=
  [pack [(32, 32, 0x80000000 + 4096 * c + n), (8, 10, c), (0, 8, 1)], pack [(63, 1, 1), (0, 12, n)], 0, 0]

/-- The effect of an accepted LAUNCH (R382, R399, R405, R407, R409). -/
def State.launch (s : State) (q : Nat) (w : List Word) : State :=
  let c := recCtx w
  let run := (s.ctx c).run + 1
  let zs : List Word := (rangeFrom 3 13).map (fun k => w.getD k 0) ++ [run.setWidth 64, .ofNat 64 c, .ofNat 64 q]
  let z := zs.zipIdx.foldl (fun (t : Tbl Word) (v, k) => tput 0 t k v) []
  let entry := s.rdNat (s.img c 8) 4
  let prio := s.launchPrio w
  let s := if (s.ctx c).firstRun then s.firstLaunch c else s
  let res := (rangeFrom 0 (s.layers c)).filter fun n => s.resSet c n
  let s := s.modCtx c fun x =>
    { x with run := run, prio := prio, z := z, bpc := entry, gloops := [], gcalls := [], scb := [], keep := false, saved := none
             opstep := 0, everRes := res, faulted := [], firstRun := false, ending := none, trapQueued := false
             cookie := w.getD 1 0, lseq := .ofNat 16 (fld (w.getD 0 0) 16 16), lq := q }
  let p := (s.ctx c).part.val
  let s := s.ringIn p ((s.part p).cmds ++ (rangeFrom 0 (s.layers c)).map (fetchCmd c))
  s.makeReady c

/-- LAUNCH (R381, R382). -/
def execLaunch (q : Fin 64) (s : State) : Res :=
  onRecord q 1 (fun t w s => match s.launchBad (recCtx w) with
    | some d => s.refuse q.val t w d
    | none => (s.launch q.val w).recDone q.val t) s

/-! ### FEED, SIGNAL, CANCEL (R381, R383) -/

/-- The fast granule, as partition · 2^24 + granule, that granule k of the aperture shows: the one on which the runtime has placed it, else
granule k of partition 0 (R360; DESIGN CHOICE, log 103). -/
def State.apertureGran (s : State) (k : Nat) : Nat := (tget none s.dev.aperture k).getD k

/-- The n bytes at offset a of the aperture as runs of (location, offset, length), cut where granules end. -/
def State.apertureRuns (s : State) : Nat → Nat → Nat → List (Nat × Nat × Nat)
  | 0, _, _ => []
  | f + 1, a, n =>
    if n = 0 then []
    else
      let k := min n (65536 - a % 65536)
      let g := s.apertureGran (a / 65536)
      (locFast (g / 2 ^ 24) (g % 2 ^ 24 * 65536 + a % 65536), a, k) :: s.apertureRuns f (a + k) (n - k)

/-- Where n bytes at a control-core physical address lie, if they exist there and are memory: the carve-out as far as firmware has set it,
the aperture, or shared bank memory (R360). -/
def State.hartRuns (s : State) (a n : Nat) : Option (List (Nat × Nat × Nat)) :=
  if a + n ≤ s.dev.carve then some [(locCap a, a, n)]
  else if 0x1000000000 ≤ a ∧ a + n ≤ 0x2000000000 then
    let l := s.apertureRuns (n / 65536 + 2) (a - 0x1000000000) n
    if l.all fun (q, _, k) => q % 2 ^ 40 + k ≤ s.stacks * 0xC00000000 then some l else none
  else if 0x2000000000 ≤ a ∧ a + n ≤ 0x2004000000 then some [(locSbm (a - 0x2000000000), a, n)]
  else none

/-- The record takes effect and is notified as DONE or NOTRUN where NTF asks for it (R384). -/
def State.recEnd (s : State) (q t : Nat) (w : List Word) (status : Nat) : State :=
  let s := s.recDone q t
  if (w.getD 0 0).getLsbD 8 then s.notify q (recNote w status 0) else s

/-- The bytes of a FEED's source: from a device range at once, from the host once the read that the queue has sent is answered; `fails` where
the read fails (R381, R434). -/
inductive FeedSrc where
  | fails | sent (s : State) | bytes (l : List Byte)

def State.feedSrc (s : State) (q : Nat) (host : Bool) (a n : Nat) : FeedSrc :=
  if host then match (s.queue q).feed with
    | some (_, true) => .fails
    | some (_, false) => .bytes (extRead s (locBus a) n)
    | none =>
      if s.dev.pciSpeed = 0 then .fails
      else
        let (id, s) := s.fresh
        .sent ((s.extSend id (locBus a) none false).modQueue q fun x => { x with feed := some (id, false) })
  else match s.hartRuns a n with
    | none => .fails
    | some ls => if ls.all fun (l, _, k) => s.allQuiet l k then .bytes (ls.flatMap fun (l, _, k) => s.bytes l k) else .sent s

/-- FEED: LEN bytes from SRC into the object; a non-resident page is fetched first. From the host the first FEED step of the record sends the
read and a later one stores what it returned, unless it has failed (R381, R383, R396, R434). -/
def execFeed (q : Fin 64) (s : State) : Res :=
  onRecord q 2 (fun t w s =>
    let c := recCtx w
    let oid := fld (w.getD 2 0) 0 20
    let off := (w.getD 3 0).toNat
    let n := fld (w.getD 4 0) 0 32
    match s.objEnt c oid with
    | none => s.refuse q.val t w 0x10
    | some x =>
      if x.space.val = 0 ∨ x.space.val = 4 then s.refuse q.val t w 0x10
      else if x.size < off + n then s.refuse q.val t w 0x11
      else match s.feedSrc q.val ((w.getD 5 0).getLsbD 63) (fld (w.getD 5 0) 0 63) n with
        | .fails => s.refuse q.val t w 0x12
        | .sent s => s
        | .bytes bs => match s.reach c oid off n with
          | .fault _ => s.refuse q.val t w 0x10
          | .absent pr y g => (s.absentReq c oid pr y g).1
          | .runs rs =>
            if rs.all fun (b, _, k) => s.allQuiet b k && !s.migBlocked b k then (s.runStore 0 rs bs).recEnd q.val t w 4 else s) s

/-- SIGNAL: N is added to the word at the bank ALU, a release that covers the queue's earlier FEEDs (R383). -/
def execSignalRecord (q : Fin 64) (s : State) : Res :=
  onRecord q 3 (fun t w s =>
    let c := recCtx w
    let oid := fld (w.getD 2 0) 0 20
    let off := (w.getD 3 0).toNat
    match s.objEnt c oid with
    | none => s.refuse q.val t w 0x20
    | some x =>
      if x.space.val ≠ 1 ∨ off % 8 ≠ 0 ∨ x.size < off + 8 then s.refuse q.val t w 0x20
      else match s.place c oid x off with
        | .at_ l =>
          if !s.allQuiet l 8 then s
          else (s.put64 l (s.rd64 l + w.getD 4 0)).recEnd q.val t w 4
        | _ => s.refuse q.val t w 0x20) s

/-- CANCEL: an active context goes to STOPPING and its run ends CANCELLED; one that does not run is NOTRUN (R377, R383). -/
def execCancel (q : Fin 64) (s : State) : Res :=
  onRecord q 4 (fun t w s =>
    let c := recCtx w
    match (s.ctx c).st with
    | .free | .loaded | .stopped => s.recEnd q.val t w 6
    | _ => (s.stopCtx c ⟨2, 0⟩).recEnd q.val t w 4) s

/-! ### The end of a run (R325, R376, R377, R384) -/

/-- CONTEXT_STOPPED: every gang of a stopping context is gone, its sequencer is free and its trap record is written; its staging
regions and its scoreboard go, it enters STOPPED, and the run's end is notified (R377, R384, R418). -/
def execContextStopped (c : Nat) (s : State) : Res :=
  .next (
    let x := s.ctx c
    if x.st != .stopping || x.seq.isSome || x.trapQueued || s.gangs.any (fun g => g.ctx == c) then s
    else
      let e := x.ending.getD ⟨0, 0⟩
      let s := (cluList x.clset).zipIdx.foldl (fun s (k, i) => s.freeRegion c k (0xFFF00 + i)) s
      let s := s.modCtx c fun y => { y with st := .stopped, scb := [], exit := e.detail, lstat := e.status, ending := none }
      s.notify x.lq (noteOf x.cookie x.lseq.toNat 1 c e.status.toNat e.detail.toNat))

end Sys2Proof.Machine
end

