-- ==== Sys2Proof/Machine/Ras.lean ====
section
/-!
DEFINITION. Reliability (R416 to R427): the trap queue, hardware faults and what consumes them, the machine check, patrol,
the predicted life.
-/
namespace Sys2Proof.Machine

/-! ### The trap queue (R418) -/

/-- TRAP_RECORD_WRITE: the partition's trap-queue thread writes the next record. While the ring is full operator-trap records
wait in order, and overdue and retry records are dropped and counted (R418). -/
def execTrapRecordWrite (p : Fin 4) (s : State) : Res :=
  .next (
    let x := s.part p.val
    match s.thread? 2 p 0 with
    | none => s
    | some t =>
      let n := 2 ^ (fld x.tqbase 0 4 + 4)
      if !ringRoom x.tqWidx x.tqCons n then
        let lost := (x.traps.filter fun r => r.kind ≠ 1).length
        s.modPart p.val fun y => { y with traps := y.traps.filter fun r => r.kind == 1, tqDrop := y.tqDrop + .ofNat 32 lost }
      else match x.traps with
        | [] => s.sleep t
        | r :: rest =>
          let l := locFast p.val (fld x.tqbase 6 42 * 64 + 64 * (x.tqWidx.toNat % n))
          let s := s.putWords l (r.words ++ [.ofNat 64 x.tqWidx.toNat])
          let s := s.modPart p.val fun y => { y with traps := rest, tqWidx := y.tqWidx + 1 }
          let s := if r.kind = 1 then s.modCtx r.ctx fun c => { c with trapQueued := false } else s
          if rest.isEmpty then s.sleep t else s)

/-! ### Hardware faults (R423, R424) -/

/-- A control fault: every context of the partition stops with TRAPPED and cause 0x60 (R423). -/
def State.machineCheck (s : State) (p unit : Nat) : State :=
  ((tkeys s.ctxs).filter fun c => (s.ctx c).part.val = p && (s.ctx c).st.live).foldl (fun s c =>
    let x : TrapInfo := trapOf 0x60 unit
    let s := match (s.ctx c).seq with
      | some q => s.seqTrap q.val x
      | none => s.operatorTrap ⟨c, none, 0, false, none, 0, 0, .reset, 0, 0, (s.ctx c).bpc⟩ x false 0 0
    (s.gangs.filter fun g => g.ctx == c).foldl (fun s g => s.stopGang g.gk) s) s

/-- The partition of the unit in which a control fault arose: that of the engine, or of cluster `place`. -/
def State.faultPart (s : State) (x : ErrorW) : Nat :=
  match x.eng with
  | some e => if isSeq e then (s.seq (e - 48)).part.val else (s.clu (cluOf e)).part.val
  | none => (s.clu x.place.toNat).part.val

/-- A detected fault: its error record, and its consequence for the engine that consumed the data or whose arithmetic was checked, for the
hart that read it, or for the partition (R423, R424). -/
def State.detect (s : State) (x : ErrorW) : State :=
  if x.sev.toNat = 0 ∨ 4 < x.sev.toNat then s
  else
    let seq := s.dev.errWidx.toNat
    let oid := x.obj.map fun o => o.2.toNat
    let s := s.errRecord x.unit.toNat x.place.toNat x.sev.toNat x.loc (x.obj.map fun (c, o) => (c.toNat, o.toNat))
    let at_ (e : Nat) (s : State) (cause detail : Nat) : State :=
      let t : TrapInfo := ⟨cause, detail, oid, none, none⟩
      if isSeq e then s.seqTrap (e - 48) t else s.engTrap e false ((s.eng e).str false).pc t
    let s := match x.sev.toNat, x.hart with
      | 2, some h => s.modDev fun d => { d with hartFaults := d.hartFaults ++ [h.val] }
      | _, _ => s
    match x.sev.toNat, x.eng with
    | 2, some e => at_ e s 0x29 seq
    | 3, some e =>
      let s := match x.dst with
        | some n => ({ s with free := s.free + 1 } : State).modEng e fun y => { y with v := tput 0 y.v n.val (Config.freeVec s.free) }
        | none => s
      at_ e s 0x2A x.slot.toNat
    | 4, _ => s.machineCheck (s.faultPart x) x.unit.toNat
    | _, _ => s

/-- ERROR_DETECTED (R423). -/
def execErrorDetected (x : ErrorW) (s : State) : Res := .next (s.detect x)

/-- PATROL: while PATCTL.EN is set, patrol meets a fault in a memory or a state machine; nothing has consumed it (R423). -/
def execPatrol (x : ErrorW) (s : State) : Res :=
  .next (if s.dev.patEn then s.detect { x with eng := none, hart := none } else s)

/-! ### Predicted life (R427) -/

/-- 24 hours. -/
def dayClk : Nat := 86400 * 1000000000

/-- LIFE_ESTIMATE_UPDATE: EOL takes the new figure; VALID comes after 24 h; a valid figure that falls below 12 months writes an
error record of SEV 7. -/
def execLifeEstimateUpdate (months : BitVec 16) (s : State) : Res :=
  .next (
    let old := if s.dev.eolValid then s.dev.eolMonths else 0xFFFF
    let valid := s.dev.eolValid || dayClk ≤ s.clk.toNat
    let s := s.modDev fun d => { d with eolMonths := months, eolValid := valid }
    if valid && 12 ≤ old.toNat && months.toNat < 12 then s.errRecord 9 0 7 (.ofNat 64 months.toNat) none else s)

end Sys2Proof.Machine
end

