-- ==== Sys2Proof/Machine/Priv.lean ====
section
/-!
DEFINITION. The privileged register space (R361, R362, R374, R378, R415, R427, R445, R462): where each register lies, who may
write it, what it reads and what a write does; image checks (R278, R290, R328, R375, R459); partitions (R371, R373); microcode
patches and XOPs (R327, R328).
-/
namespace Sys2Proof.Machine

/-! ### The registers -/

/-- The registers of the space, with cluster, sequencer, thread, partition, context, queue, port or stack number. -/
inductive PReg where
  | devid | partcfg | bootst | bootseq | wyst | wyrst
  | clctl (c : Nat) | frbase (c : Nat) | frcnt (c : Nat) | frfree (c : Nat) | corestat (c k : Nat)
  | sqctl (q : Nat) | sqctx (q : Nat) | spthr (n : Nat)
  | pdeadl (p : Nat) | ctxst (c : Nat) | ctximg (c : Nat) | ctxclu (c : Nat) | ctxlim (c : Nat) | ctxgs (c : Nat) | ctxrun (c : Nat)
  | ctxseq (c : Nat)
  | qcfg (n : Nat) | qring (n : Nat) | nbase (n : Nat) | qptr (n : Nat) | qerr (n : Nat) | qdrop (n : Nat) | feeddev (n : Nat)
  | feedhost (n : Nat)
  | submit (n : Nat) | stage (n k : Nat) | go (n : Nat) | qstat (n : Nat) | qreset (n : Nat) | ncons (n : Nat)
  | otdir (c : Nat) | rwbase (c : Nat) | opstep (c : Nat) | swapcnt (c : Nat)
  | orcbase (p : Nat) | orcptr (p : Nat) | orebase (p : Nat) | oreptr (p : Nat) | otsync (p : Nat)
  | hscfg (c : Nat) | hsring (c : Nat) | hsptr (c : Nat) | rhcfg (p : Nat) | rhring (p : Nat) | rhptr (p : Nat)
  | tqbase (p : Nat) | tqptr (p : Nat) | retrymax | patctl | errbase | errptr | cecnt | uecnt | rtrycnt | eol | rpcmap (k : Nat)
  | pcictl | pcistat | lnkid | hostdrop | indrop | imgdrop | winbase (p : Nat) | wincnt (p : Nat) | expbase (p : Nat) | expcnt (p : Nat)
  | supctl (k : Nat) | ethctl (k : Nat) | mcmbase
  deriving DecidableEq, Repr

/-- The device control block (R362, R462). -/
def devReg (o : Nat) : Option PReg :=
  match o with
  | 0 => some .devid | 8 => some .partcfg | 0x100 => some .bootst | 0x108 => some .bootseq | 0x110 => some .wyst | 0x118 => some .wyrst
  | _ => none

/-- A cluster's block. -/
def cluReg (c o : Nat) : Option PReg :=
  match o with
  | 0 => some (.clctl c) | 8 => some (.frbase c) | 0x10 => some (.frcnt c) | 0x18 => some (.frfree c)
  | 0x20 => some (.corestat c 0) | 0x28 => some (.corestat c 1) | 0x30 => some (.corestat c 2) | 0x38 => some (.corestat c 3)
  | _ => none

/-- A context entry (R374). -/
def ctxReg (c o : Nat) : Option PReg :=
  match o with
  | 0 => some (.ctxst c) | 8 => some (.ctximg c) | 0x10 => some (.ctxclu c) | 0x18 => some (.ctxlim c) | 0x20 => some (.ctxgs c)
  | 0x28 => some (.ctxrun c) | 0x30 => some (.ctxseq c) | _ => none

/-- A queue's registers (R374). -/
def queueReg (n o : Nat) : Option PReg :=
  match o with
  | 0 => some (.qcfg n) | 8 => some (.qring n) | 0x10 => some (.nbase n) | 0x18 => some (.qptr n) | 0x20 => some (.qerr n)
  | 0x28 => some (.qdrop n) | 0x30 => some (.feeddev n) | 0x38 => some (.feedhost n) | _ => none

/-- A submission page (R378). -/
def pageReg (n o : Nat) : Option PReg :=
  if o < 0x80 then some (.submit n) else if o < 0x100 then some (.stage n ((o - 0x80) / 8))
  else match o with
    | 0x100 => some (.go n) | 0x108 => some (.qstat n) | 0x110 => some (.qreset n) | 0x118 => some (.ncons n) | _ => none

/-- The scheduling block (R374). -/
def schedReg (o : Nat) : Option PReg :=
  if o < 0x20 then some (.pdeadl (o / 8))
  else if 0x100000 ≤ o ∧ o < 0x110000 then ctxReg ((o - 0x100000) / 0x40) (o % 0x40)
  else if 0x200000 ≤ o ∧ o < 0x201000 then queueReg ((o - 0x200000) / 0x40) (o % 0x40)
  else if 0x300000 ≤ o ∧ o < 0x340000 then pageReg ((o - 0x300000) / 0x1000) (o % 0x1000)
  else none

/-- The translation block (R415). -/
def objReg (o : Nat) : Option PReg :=
  if o < 0x10000 then
    let c := o / 0x40
    match o % 0x40 with
    | 0 => some (.otdir c) | 8 => some (.rwbase c) | 0x10 => some (.opstep c) | 0x18 => some (.swapcnt c) | _ => none
  else if 0x100000 ≤ o ∧ o < 0x100400 then
    let p := (o - 0x100000) / 0x100
    match o % 0x100 with
    | 0 => some (.orcbase p) | 8 => some (.orcptr p) | 0x10 => some (.orebase p) | 0x18 => some (.oreptr p) | 0x20 => some (.otsync p)
    | _ => none
  else if 0x200000 ≤ o ∧ o < 0x200C00 then
    let c := (o - 0x200000) / 0x100
    match o % 0x100 with
    | 0 => some (.hscfg c) | 8 => some (.hsring c) | 0x10 => some (.hsptr c) | _ => none
  else if 0x300000 ≤ o ∧ o < 0x300400 then
    let p := (o - 0x300000) / 0x100
    match o % 0x100 with
    | 0 => some (.rhcfg p) | 8 => some (.rhring p) | 0x10 => some (.rhptr p) | _ => none
  else none

/-- The RAS block (R427). -/
def rasReg (o : Nat) : Option PReg :=
  if o < 0x100 then
    let p := o / 0x40
    match o % 0x40 with
    | 0 => some (.tqbase p) | 8 => some (.tqptr p) | _ => none
  else if 0x1100 ≤ o ∧ o < 0x1140 then some (.rpcmap ((o - 0x1100) / 8))
  else match o with
    | 0x1000 => some .retrymax | 0x1008 => some .patctl | 0x1010 => some .errbase | 0x1018 => some .errptr | 0x1020 => some .cecnt
    | 0x1028 => some .uecnt | 0x1030 => some .rtrycnt | 0x1038 => some .eol | _ => none

/-- The link block (R445). -/
def linkReg (o : Nat) : Option PReg :=
  if 0x100 ≤ o ∧ o < 0x200 then
    match o % 0x40 with | 0 => some (.winbase ((o - 0x100) / 0x40)) | 8 => some (.wincnt ((o - 0x100) / 0x40)) | _ => none
  else if 0x200 ≤ o ∧ o < 0x300 then
    match o % 0x40 with | 0 => some (.expbase ((o - 0x200) / 0x40)) | 8 => some (.expcnt ((o - 0x200) / 0x40)) | _ => none
  else if 0x1000 ≤ o ∧ o < 0x1480 then (if o % 0x40 = 0 then some (.supctl ((o - 0x1000) / 0x40)) else none)
  else if 0x2000 ≤ o ∧ o < 0x2200 then (if o % 0x40 = 0 then some (.ethctl ((o - 0x2000) / 0x40)) else none)
  else match o with
    | 0 => some .pcictl | 8 => some .pcistat | 0x10 => some .lnkid | 0x18 => some .hostdrop | 0x20 => some .indrop | 0x28 => some .imgdrop
    | 0x3000 => some .mcmbase | _ => none

/-- The register at an 8-byte aligned offset of the space; none at an unassigned offset (R361). -/
def prsReg (o : Nat) : Option PReg :=
  if o % 8 ≠ 0 then none
  else if o < 0x10000 then devReg o
  else if o < 0xD0000 then cluReg (o / 0x10000 - 1) (o % 0x10000)
  else if 0x100000 ≤ o ∧ o < 0x140000 then
    let q := (o - 0x100000) / 0x10000
    match o % 0x10000 with | 0 => some (.sqctl q) | 8 => some (.sqctx q) | _ => none
  else if 0x200000 ≤ o ∧ o < 0x200200 then some (.spthr ((o - 0x200000) / 8))
  else if 0x1000000 ≤ o ∧ o < 0x2000000 then schedReg (o - 0x1000000)
  else if 0x2000000 ≤ o ∧ o < 0x3000000 then objReg (o - 0x2000000)
  else if 0x3000000 ≤ o ∧ o < 0x4000000 then rasReg (o - 0x3000000)
  else if 0x4000000 ≤ o ∧ o < 0x5000000 then linkReg (o - 0x4000000)
  else none

/-- Who may write a register: nobody, firmware, the device OS too, or whoever a page is mapped to (R361, R378, R430). -/
inductive PAcc where
  | ro | fw | os | page
  deriving DecidableEq, Repr

def PReg.acc : PReg → PAcc
  | .devid | .bootst | .bootseq | .wyst | .clctl _ | .frfree _ | .corestat _ _ | .sqctx _ | .ctxrun _ | .ctxseq _ | .qptr _ | .qerr _
  | .qdrop _ | .opstep _ | .swapcnt _ | .cecnt | .uecnt | .rtrycnt | .eol | .pcistat | .hostdrop | .indrop | .imgdrop => .ro
  | .partcfg | .wyrst | .frbase _ | .frcnt _ | .spthr _ | .patctl | .errbase | .rpcmap _ | .lnkid | .supctl _ | .ethctl _ | .mcmbase => .fw
  | .submit _ | .stage _ _ | .go _ | .qstat _ | .qreset _ | .ncons _ => .page
  | _ => .os

/-! ### Reading (R361) -/

def CoreSt.code : CoreSt → Nat
  | .idle => 0 | .running => 1 | .saving => 2 | .restoring => 3

def CtxSt.code : CtxSt → Nat
  | .free => 0 | .loaded => 1 | .ready => 2 | .running => 3 | .waiting => 4 | .stopping => 5 | .stopped => 6

def PortSt.code : PortSt → Nat
  | .down => 0 | .train => 1 | .up4 => 2 | .up8 => 3

def bootstWord (d : Device) : Word :=
  pack [(0, 3, d.stage), (4, 1, d.slotB.toNat), (5, 1, d.fallback.toNat), (6, 1, d.nomark.toNat), (16, 32, d.svnmin.toNat)]

def qptrWord (x : SubQ) : Word := pack [(0, 16, x.widx.toNat), (16, 16, x.ridx.toNat), (32, 16, x.nwidx.toNat), (48, 1, x.err.toNat)]

/-- What a register reads. -/
def State.readReg (s : State) : PReg → Word
  | .devid => s.dev.devid
  | .partcfg => pack [(0, 2, s.dev.mode.val), (8, 1, s.dev.lock.toNat)]
  | .bootst => bootstWord s.dev
  | .bootseq => s.dev.bootseq
  | .wyst => pack [(0, 1, (s.dev.upd != .idle).toNat), (1, 1, s.dev.pendReset.toNat)]
  | .wyrst => pack [(0, 1, s.dev.wyReq.toNat)]
  | .clctl c => pack [(0, 1, (s.cluOn c).toNat), (4, 2, (s.clu c).part.val)]
  | .frbase c => pack [(16, 32, fld (s.clu c).frbase 16 32)]
  | .frcnt c => .ofNat 64 (s.clu c).frcnt
  | .frfree c => (s.clu c).frfree.setWidth 64
  | .corestat c k =>
    let x := s.eng (4 * c + k)
    pack [(0, 2, x.stat.code), (8, 5, x.frame), (16, 16, x.gang.getD 0)]
  | .sqctl q => pack [(0, 2, (s.seq q).part.val), (8, 1, (s.seq q).stop.toNat)]
  | .sqctx q => pack [(0, 10, (s.seq q).ctx.getD 0), (31, 1, (s.seq q).ctx.isSome.toNat)]
  | .spthr n =>
    let x := tget SpThread.reset s.dev.threads n
    pack [(63, 1, x.en.toNat), (56, 2, x.part.val), (48, 4, x.kind.val), (32, 16, x.qid)]
  | .pdeadl p => .ofNat 64 (s.part p).pdeadl
  | .ctxst c =>
    let x := s.ctx c
    pack [(0, 3, x.st.code), (8, 2, x.part.val), (16, 5, x.prio), (32, 6, x.ownq), (40, 1, x.wlp.toNat), (41, 1, x.refetch.toNat),
      (42, 1, x.imgok.toNat), (48, 8, x.imgerr.toNat)]
  | .ctximg c => (s.ctx c).img
  | .ctxclu c => pack [(0, 12, (s.ctx c).clset.toNat), (16, 12, (s.ctx c).quota)]
  | .ctxlim c => pack [(0, 32, (s.ctx c).pinlim.toNat), (32, 32, (s.ctx c).fastq.toNat)]
  | .ctxgs c => (s.ctx c).gsa
  | .ctxrun c => pack [(0, 32, (s.ctx c).run.toNat), (32, 16, (s.ctx c).exit.toNat), (48, 8, (s.ctx c).lstat.toNat)]
  | .ctxseq c => pack [(0, 2, match (s.ctx c).seq with | some q => q.val | none => 0), (8, 1, (s.ctx c).seq.isSome.toNat)]
  | .qcfg n =>
    let x := s.queue n
    pack [(0, 1, x.en.toNat), (1, 2, x.part.val), (4, 4, x.ldep), (8, 5, x.maxprio), (16, 11, x.vec.toNat), (27, 1, x.ven.toNat), (28, 4, x.lnent)]
  | .qring n => (s.queue n).ring
  | .nbase n => (s.queue n).nbase
  | .qptr n | .qstat n => qptrWord (s.queue n)
  | .qerr n => pack [(0, 16, (s.queue n).reci.toNat), (16, 8, (s.queue n).reason.toNat)]
  | .qdrop n => (s.queue n).drop.setWidth 64
  | .feeddev n => (s.queue n).feeddev
  | .feedhost n => (s.queue n).feedhost
  | .submit _ | .go _ | .qreset _ => 0
  | .ncons n => (s.queue n).ncons.setWidth 64
  | .stage n k => tget 0 (s.queue n).stage k
  | .otdir c => (s.ctx c).otdir
  | .rwbase c => (s.ctx c).rwbase
  | .opstep c => (s.ctx c).opstep.setWidth 64
  | .swapcnt c => (s.ctx c).swapcnt.setWidth 64
  | .orcbase p => (s.part p).orcbase
  | .orcptr p => pack [(16, 16, (s.part p).orcRidx.toNat), (0, 16, (s.part p).orcWidx.toNat)]
  | .orebase p => (s.part p).orebase
  | .oreptr p => pack [(16, 16, (s.part p).oreCons.toNat), (0, 16, (s.part p).oreWidx.toNat)]
  | .otsync p => pack [(63, 1, (s.part p).otsDone.toNat), (0, 10, (s.part p).otsCtx.toNat)]
  | .hscfg c => (s.clu c).hscfg
  | .hsring c => (s.clu c).hsring
  | .hsptr c => (s.clu c).hsptr
  | .rhcfg p => pack [(32, 32, (s.part p).rhDecay.toNat), (16, 16, (s.part p).rhThr.toNat), (0, 1, (s.part p).rhEn.toNat)]
  | .rhring p => (s.part p).rhring
  | .rhptr p => pack [(32, 32, (s.part p).rhDrop.toNat), (16, 16, (s.part p).rhCons.toNat), (0, 16, (s.part p).rhWidx.toNat)]
  | .tqbase p => (s.part p).tqbase
  | .tqptr p => pack [(32, 32, (s.part p).tqDrop.toNat), (16, 16, (s.part p).tqCons.toNat), (0, 16, (s.part p).tqWidx.toNat)]
  | .retrymax => .ofNat 64 s.dev.retrymax
  | .patctl => pack [(0, 1, s.dev.patEn.toNat), (8, 4, s.dev.patPer)]
  | .errbase => s.dev.errbase
  | .errptr => pack [(16, 16, s.dev.errCons.toNat), (0, 16, s.dev.errWidx.toNat)]
  | .cecnt => s.dev.cecnt.setWidth 64
  | .uecnt => s.dev.uecnt.setWidth 64
  | .rtrycnt => s.dev.rtrycnt.setWidth 64
  | .eol => pack [(16, 1, s.dev.eolValid.toNat), (0, 16, s.dev.eolMonths.toNat)]
  | .rpcmap k => tget 0 s.dev.rpcmap k
  | .pcictl => pack [(0, 1, s.dev.hostos.toNat), (8, 8, s.dev.cto)]
  | .pcistat => pack [(0, 4, s.dev.pciSpeed.toNat), (4, 5, s.dev.pciWidth.toNat), (16, 1, s.dev.pciFlit.toNat)]
  | .lnkid => pack [(63, 1, s.dev.lnkLock.toNat), (32, 11, s.dev.pod.toNat), (0, 10, s.dev.dev.toNat)]
  | .hostdrop => s.dev.hostdrop.setWidth 64
  | .indrop => s.dev.indrop.setWidth 64
  | .imgdrop => s.dev.imgdrop.setWidth 64
  | .winbase p => (s.part p).winbase
  | .wincnt p => .ofNat 64 (s.part p).wincnt
  | .expbase p => (s.part p).expbase
  | .expcnt p => .ofNat 64 (s.part p).expcnt
  | .supctl k =>
    let x := tget SupPort.reset s.dev.sup k
    pack [(0, 1, x.en.toNat), (1, 3, x.st.code), (4, 1, (x.st == .up4 && x.half).toNat), (16, 16, x.retr.toNat)]
  | .ethctl k =>
    let x := tget EthPort.reset s.dev.eth k
    pack [(0, 1, x.en.toNat), (1, 1, x.up.toNat), (16, 48, x.mac.toNat)]
  | .mcmbase => s.dev.mcmbase

/-- An 8-byte load at an offset of the space; the load of GO submits STAGE (R361, R378). -/
def State.prsLoad (s : State) (o : Nat) : Word × State :=
  match prsReg o with
  | none => (0, s)
  | some (.go n) =>
    let ok := (s.queue n).takes
    (if ok then 1 else 2, s.submit n ((rangeFrom 0 16).map fun k => tget 0 (s.queue n).stage k))
  | some r => (s.readReg r, s)

/-! ### Image checks (R278, R279, R290, R328, R375, R399, R459) -/

/-- Header offsets of the sections with the bytes of one unit and the most units. -/
def imgSections : List (Nat × Nat × Nat) :=
  [(0x10, 4, 2 ^ 24), (0x18, 128, 65536), (0x20, 4, 2 ^ 24), (0x28, 8, 4096), (0x30, 16, 4096), (0x38, 8, 2 ^ 29), (0x40, 1, 2 ^ 32)]

/-- Which words of CODE are a word 0: each is followed by its NW operand words (R280). -/
def codeStarts : Nat → List Nat → List Bool
  | _, [] => []
  | 0, w :: ws => true :: codeStarts (w / 2 ^ 20 % 16) ws
  | k + 1, _ :: ws => false :: codeStarts k ws

/-- The branch target of the instruction with word 0 w at pc (R290, R291). -/
def branchTarget (pc w : Nat) : Option Int :=
  let op := w / 2 ^ 24
  if op = 2 ∨ op = 3 ∨ op = 6 then some (pc + (BitVec.ofNat 16 w).toInt)
  else if op = 4 then some (pc + w % 2 ^ 16)
  else none

/-- An instruction of this chapter, or an unassigned opcode, that R281 and R282 refuse as it stands in CODE: ws begins with its word 0. -/
def codeBad (ws : List Nat) : Bool :=
  match decodeGraph ws with
  | .ok _ => false
  | .error .unknown => match ws with | w :: _ => w / 2 ^ 24 < 0xC0 || 0xF0 ≤ w / 2 ^ 24 | [] => false
  | .error .range => false
  | .error _ => match ws with | w :: _ => w / 2 ^ 24 < 0x20 | [] => false

/-- Bytes of an image's end: that of its last section. -/
def State.imgEnd (s : State) (c : Nat) : Nat := (s.imgRange c).2 - (s.imgRange c).1

/-- Granules of layer n by the descriptors that the image gives it. -/
def State.layerGranules (s : State) (c n : Nat) : Nat :=
  ((s.layerDescs c n).map fun d => ceilDiv (s.desc c d).footprint 65536).sum

/-- The digest of an image: the header to 0x4F and the bytes from 0x100 to the end without the SIG section (R278). -/
def State.imgDigest (s : State) (c : Nat) : BitVec 256 :=
  let (o, n) := s.section c 0x40
  let body := (rangeFrom 256 (s.imgEnd c - 256)).filter fun k => !(o ≤ k && k < o + n)
  Config.sha3 (s.bytes (s.img c 0) 0x50 ++ body.map fun k => mget s.mem (s.img c k))

/-- Where the image-key table's entry i lies: 8 KiB each, a valid flag (1) in its first byte, the key from byte 16 (R451, R459). -/
def keyLoc (i : Nat) : Nat := norBase + 0x20000 + 8192 * i

/-- Code 0x04: the signature of a signed image (R459), or a SIG section where SIGNED is clear (R278; log 105). -/
def State.imgSigBad (s : State) (c : Nat) : Bool :=
  if s.rdNat (s.img c 6) 2 % 2 = 0 then (s.section c 0x40).2 ≠ 0
  else
    (let (o, n) := s.section c 0x40
     let i := s.rdNat (s.img c o) 8
     n ≠ 2428 || 7 < i || mget s.mem (keyLoc i) ≠ 1 ||
       !Config.mldsaVerify (s.bytes (keyLoc i + 16) 1312) (s.imgDigest c) (s.bytes (s.img c (o + 8)) 2420))

/-- The words of CODE. -/
def State.imgCode (s : State) (c : Nat) : List Nat :=
  let (o, n) := s.section c 0x10
  (rangeFrom 0 (n / 4)).map fun k => s.rdNat (s.img c (o + 4 * k)) 4

/-- The instructions of CODE as (PC, word 0). -/
def State.imgInstrs (s : State) (c : Nat) : List (Nat × Nat) :=
  let ws := s.imgCode c
  ((ws.zip (codeStarts 0 ws)).zipIdx.filter fun x => x.1.2).map fun x => (x.2, x.1.1)

/-- Code 0x02: section placement, a size limit, or an ENTRY that is not the word 0 of an instruction (R278). -/
def State.imgPlaceBad (s : State) (c : Nat) : Bool :=
  (imgSections.any fun (at_, unit, most) =>
    let (o, n) := s.section c at_
    n ≠ 0 && (o % 64 ≠ 0 || o < 256 || n % unit ≠ 0 || most < n / unit)) ||
  (let k := s.rdNat (s.img c 0x4C) 2; k = 0 || 12 < k) || 31 < s.rdNat (s.img c 0x4E) 1 ||
  !((s.imgInstrs c).any fun (k, _) => k == s.rdNat (s.img c 8) 4) ||
  (rangeFrom 0 (s.layers c)).any fun n =>
    s.ndesc c < fld (s.layerEnt c n) 0 16 + fld (s.layerEnt c n) 16 16 || 65535 < s.layerGranules c n

/-- Code 0x05: a branch target that is not the word 0 of an instruction in CODE. -/
def State.imgBranchBad (s : State) (c : Nat) : Bool :=
  let is := s.imgInstrs c
  is.any fun (pc, w) => match branchTarget pc w with
    | some t => !is.any fun (k, _) => decide ((k : Int) = t)
    | none => false

/-- Code 0x06: an XOP of CODE that XREQ omits (R328). -/
def State.imgXopBad (s : State) (c : Nat) : Bool :=
  (s.imgInstrs c).any fun (_, w) => 0xC0 ≤ w / 2 ^ 24 && w / 2 ^ 24 < 0xF0 && !(s.xreq c).contains (w / 2 ^ 24)

/-- Code 0x07: a res0 field of the header, a layer entry or an XREQ entry, a descriptor of DESC that breaks R283 or R284, or an encoding
of CODE that breaks R280 to R282. R375 names no code of its own for the last two: DESIGN CHOICE, log 105. -/
def State.imgRes0Bad (s : State) (c : Nat) : Bool :=
  let (xo, xn) := s.section c 0x38
  let (lo, ln) := s.section c 0x30
  1 < s.rdNat (s.img c 6) 2 || s.rdNat (s.img c 0xC) 4 ≠ 0 || s.rdNat (s.img c 0x4F) 1 ≠ 0 || (s.bytes (s.img c 0x70) 144).any (· ≠ 0) ||
    ((rangeFrom 0 (ln / 16)).any fun k => outside (s.rd64 (s.img c (lo + 16 * k))) [(0, 37)] ≠ 0 || s.rd64 (s.img c (lo + 16 * k + 8)) ≠ 0) ||
    ((rangeFrom 0 (xn / 8)).any fun k =>
      let w := s.rdNat (s.img c (xo + 8 * k)) 8
      256 ≤ w || w < 0xC0 || 0xF0 ≤ w) ||
    ((rangeFrom 0 (s.ndesc c)).any fun d => (s.desc c d).bad) ||
    (let ws := s.imgCode c
     (s.imgInstrs c).any fun (pc, _) => codeBad (ws.drop pc))

/-- The first failing check of the image at CTXIMG; 0 where all pass (R375). -/
def State.imgCheck (s : State) (c : Nat) : BitVec 8 :=
  if s.rdNat (s.img c 0) 4 ≠ 0x3149474B ∨ s.rdNat (s.img c 4) 2 ≠ 1 then 1
  else if s.imgPlaceBad c then 2
  else if (s.imgDigest c).toNat ≠ s.rdNat (s.img c 0x50) 32 then 3
  else if s.imgSigBad c then 4
  else if s.imgBranchBad c then 5
  else if s.imgXopBad c then 6
  else if s.imgRes0Bad c then 7
  else 0

/-- Firmware retires every capability of a kind by advancing the kind's epoch (R358, R359). -/
def State.epochUp (s : State) (kind : Nat) : State :=
  s.modDev fun d => { d with epochs := tput 0 d.epochs kind (tget 0 d.epochs kind + 1) }

/-- A write to CTXIMG (R375, R376). A context that is freed retires its capabilities (R359). -/
def State.writeImg (s : State) (c : Nat) (v : Word) : State :=
  let a := pack [(6, 42, fld v 6 42)]
  match (s.ctx c).st with
  | .free | .loaded | .stopped =>
    if a = 0 then (s.modCtx c fun x => { x with st := .free, img := 0, imgok := false, imgerr := 0 }).epochUp 3
    else
      let s := s.modCtx c fun x => { x with st := .loaded, img := a, firstRun := true }
      let e := s.imgCheck c
      s.modCtx c fun x => { x with imgok := e == 0, imgerr := e }
  | _ => s

/-- CTXIMG: the device OS writes a context's image register (R375). -/
def execCtximg (c : Nat) (v : Word) (s : State) : Res := .next (if c < 1024 then s.writeImg c v else s)

/-! ### Partitions (R371, R373) -/

/-- A write that the space ignores and counts (R361). -/
def State.ignore (s : State) : State := s.modDev fun d => { d with ignored := d.ignored + 1 }

/-- Every sequencer is stopped, and no graph context is resident. -/
def State.quiescent (s : State) : Bool :=
  (rangeFrom 0 4).all (fun q => (s.seq q).stop && (s.seq q).ctx.isNone) && (tkeys s.ctxs).all (fun c => (s.ctx c).st == .free) &&
    s.gangs.isEmpty

/-- Every scratchpad, L2, shared bank memory and both tiers read zero, with no tag set (R373, R450). -/
def State.scrubAll (s : State) (from_ : Nat) : State := { s with mem := s.mem.filter fun x => from_ ≤ x.1, tags := [] }

/-! ### Loading microcode (R326 to R328) -/

/-- The bytes of a patch over which it is signed. -/
def patchBytes (x : Patch) : List Byte :=
  x.bundles.flatMap (fun (k, ws) => leBytes 4 k ++ words ws) ++ x.entries.flatMap fun (k, w) => leBytes 4 k ++ leBytes 8 w.toNat

/-- A patch that carries Bernatik's signature, as against an XOP's routine (R327, R328). -/
def patchSigned (x : Patch) : Bool := x.entries.all fun e => e.1 < 0xC0

/-- Load a patch into sequencer q: its bundles, then its entries. A signed patch's bundles are marked as such; an XOP's routine replaces the
one that its OPC had (R327, R328). -/
def State.loadPatch (s : State) (q : Nat) (x : Patch) : State :=
  let s := x.bundles.foldl (fun s (k, ws) => s.putWords (locUc q (64 * k)) ws) s
  let sig : Word := pack [(32, 1, 1), (33, 1, 1)]
  let ks := x.bundles.map (·.1)
  s.modSeq q fun z => { z with
    patches := z.patches.drop 1
    opTable := x.entries.foldl (fun t (k, w) => tput 0 t k (if k < 0xC0 then w ||| sig else w)) z.opTable
    sigBundles := if patchSigned x then (z.sigBundles ++ ks).eraseDups else z.sigBundles
    xopRuns := (x.entries.filter fun e => 0xC0 ≤ e.1).foldl (fun t (k, w) => tput (0, 0) t k (fld w 0 15, ks.length)) z.xopRuns }

/-- Sequencer q adopts its oldest patch; the first adoption of a signed patch in the partition extends the measured chain (R327, R328,
R460). -/
def State.adopt (s : State) (q : Nat) : State :=
  match (s.seq q).patches with
  | [] => s
  | x :: _ =>
    let first := (s.seqsOf (s.seq q).part.val).all fun r => (s.seq r).patches.contains x
    let s := if first && patchSigned x then
        let h := Config.sha3 (leBytes 32 s.dev.patchChain.toNat ++ leBytes 32 (Config.sha3 (patchBytes x)).toNat)
        s.modDev fun d => { d with patchChain := h }
      else s
    s.loadPatch q x

/-- Sequencer q adopts every patch that it has been given, as it does at an operator boundary (R327). -/
def State.adoptAll (s : State) (q : Nat) : State := (s.seq q).patches.foldl (fun s _ => s.adopt q) s

/-! ### MODE (R371, R373) -/

/-- What the microcode store of sequencer q holds, by offset. -/
def State.ucCells (s : State) (q : Nat) : List Host.Cell :=
  s.mem.filterMap fun (a, b) => if locUc q 0 ≤ a ∧ a < locUc q 0 + 2 ^ 21 then some (a - locUc q 0, b) else none

/-- Sequencer q takes over the store and the operator table of sequencer r, where they differ (R326; log 106). -/
def State.ucCopy (s : State) (r q : Nat) : State :=
  let a := s.seq r
  let b := s.seq q
  if a.opTable = b.opTable ∧ a.sigBundles = b.sigBundles ∧ a.xopRuns = b.xopRuns ∧ s.ucCells r = s.ucCells q then s
  else (s.put (locUc q 0) (s.bytes (locUc r 0) (2 ^ 21))).modSeq q fun z =>
    { z with opTable := a.opTable, sigBundles := a.sigBundles, xopRuns := a.xopRuns }

/-- Every sequencer of a partition holds the table of the partition's lowest one (R326; DESIGN CHOICE, log 106). -/
def State.ucAgree (s : State) : State :=
  (rangeFrom 0 4).foldl (fun s q => match s.seqsOf (s.seq q).part.val with
    | r :: _ => s.ucCopy r q
    | [] => s) s

/-- The units of each partition under a MODE (R371). The sequencers, none of which runs, adopt their patches first, and those that are one
partition from now on hold one table (R326). -/
def State.setMode (s : State) (m : Fin 3) : State :=
  let s := (rangeFrom 0 4).foldl State.adoptAll s
  let s := s.modDev fun d => { d with mode := m }
  let s := (rangeFrom 0 12).foldl (fun s c => s.modClu c fun x => { x with part := Fin.ofNat 4 (partOfUnit m (c / 3)) }) s
  ((rangeFrom 0 4).foldl (fun s q => s.modSeq q fun x => { x with part := Fin.ofNat 4 (partOfUnit m q) }) s).ucAgree

/-- A firmware write to PARTCFG (R373). -/
def State.writePartcfg (s : State) (v : Word) : State :=
  let k := fld v 0 2
  if h : k < 3 then
    let m : Fin 3 := ⟨k, h⟩
    if fld s.dev.devid 32 16 = 0x9E40 ∧ m ≠ 0 then s.ignore
    else if m = s.dev.mode then s.modDev fun d => { d with lock := d.lock || v.getLsbD 8 }
    else if s.dev.lock || !s.quiescent then s
    else ((s.scrubAll (2 ^ 52)).setMode m).modDev fun d => { d with lock := v.getLsbD 8 }
  else s.ignore

/-! ### Writing (R361, R430) -/

/-- A port that is DOWN and is enabled again trains (R444); every entry into TRAIN is recorded. -/
def State.train (s : State) (k : Nat) (narrow : Bool) : State :=
  let s := s.modDev fun d =>
    let x := tget SupPort.reset d.sup k
    { d with sup := tput .reset d.sup k { x with st := .train, retr := x.retr + 1, fails := 0, narrow := narrow, since := s.clk.toNat } }
  s.errRecord 8 k 6 0 none

/-- A context may be written: it is FREE, LOADED or STOPPED (R374, R393). -/
def State.ctxIdle (s : State) (c : Nat) : Bool :=
  match (s.ctx c).st with | .free | .loaded | .stopped => true | _ => false

def State.modIdle (s : State) (c : Nat) (f : Context → Context) : State := if s.ctxIdle c then s.modCtx c f else s

/-- A queue may be written: EN is clear. -/
def State.modClosed (s : State) (n : Nat) (f : SubQ → SubQ) : State := if (s.queue n).en then s else s.modQueue n f

/-- The field (lo, n) of a write in its place. -/
def keep (v : Word) (l : List (Nat × Nat)) : Word := pack (l.map fun (lo, n) => (lo, n, fld v lo n))

/-- A write of QCFG (R374): while EN is set only one that clears EN. A LDEP or LNENT outside its range leaves the register with EN clear
(DESIGN CHOICE, log 74). -/
def State.writeQcfg (s : State) (n : Nat) (v : Word) : State :=
  if (s.queue n).en && v.getLsbD 0 then s
  else if fld v 4 4 < 4 || 10 < fld v 4 4 || 8 < fld v 28 4 then s.modQueue n fun x => { x with en := false }
  else s.modQueue n fun x =>
    { x with en := v.getLsbD 0, part := Fin.ofNat 4 (fld v 1 2), ldep := fld v 4 4, maxprio := fld v 8 5, vec := .ofNat 11 (fld v 16 11)
             ven := v.getLsbD 27, lnent := fld v 28 4 }

/-- The effect of a permitted write; `fw` says that the master is firmware, which alone writes the FW fields of a mixed register. -/
def State.writeReg (s : State) (fw : Bool) (v : Word) : PReg → State
  | .partcfg => s.writePartcfg v
  | .wyrst => if v.getLsbD 0 then s.modDev fun d => { d with wyReq := true } else s
  | .frbase c => if (s.clu c).frfree ≠ BitVec.allOnes 32 then s else s.modClu c fun x => { x with frbase := keep v [(16, 32)] }
  | .frcnt c => if (s.clu c).frfree ≠ BitVec.allOnes 32 ∨ 32 < fld v 0 6 then s else s.modClu c fun x => { x with frcnt := fld v 0 6 }
  | .sqctl q => s.modSeq q fun x => { x with stop := v.getLsbD 8 }
  | .spthr n => if 3 < fld v 48 4 then s else s.modDev fun d => d.modThread n fun x =>
      { x with en := v.getLsbD 63, part := Fin.ofNat 4 (fld v 56 2), kind := Fin.ofNat 4 (fld v 48 4), qid := fld v 32 16, awake := false }
  | .pdeadl p => let n := fld v 0 20; if n = 0 ∨ 1000000 < n then s else s.modPart p fun x => { x with pdeadl := n }
  | .ctxst c => s.modIdle c fun x =>
      { x with part := Fin.ofNat 4 (fld v 8 2), ownq := fld v 32 6, wlp := v.getLsbD 40, refetch := v.getLsbD 41 }
  | .ctximg c => s.writeImg c v
  | .ctxclu c => s.modIdle c fun x => { x with clset := v.setWidth 12, quota := fld v 16 12 }
  | .ctxlim c => s.modIdle c fun x => { x with pinlim := v.setWidth 32, fastq := .ofNat 32 (fld v 32 32) }
  | .ctxgs c => s.modIdle c fun x => { x with gsa := keep v [(12, 36)] }
  | .qcfg n => s.writeQcfg n v
  | .qring n => if (s.queue n).en then s else (s.modQueue n fun x => { x with ring := keep v [(7, 41)] }).epochUp 1
  | .nbase n => s.modClosed n fun x => { x with nbase := keep v [(4, 60)] }
  | .feeddev n => s.modClosed n fun x => { x with feeddev := keep v [(16, 32), (0, 16)] }
  | .feedhost n => s.modClosed n fun x => { x with feedhost := keep v [(16, 47), (0, 16)] }
  | .submit n => s.submitDrop n
  | .stage n k => s.modQueue n fun x => { x with stage := tput 0 x.stage k v }
  | .qreset n =>
    if !(s.queue n).err then s
    else if v = 1 then s.modQueue n fun x => { x with ridx := x.ridx + 1, err := false }
    else if v = 2 then s.modQueue n fun x => { x with ridx := x.widx, err := false }
    else s
  | .ncons n => let s := s.modQueue n fun x => { x with ncons := v.setWidth 16 }
    s.writeNotes n (s.queue n).held
  | .otdir c => s.modIdle c fun x => { x with otdir := keep v [(13, 35), (0, 1)] }
  | .rwbase c => s.modIdle c fun x => { x with rwbase := keep v [(36, 12), (3, 23)] }
  | .orcbase p => if (s.part p).orcWidx ≠ (s.part p).orcRidx ∨ 8 < fld v 0 4 then s else (s.modPart p fun x => { x with orcbase := keep v [(6, 42), (0, 4)] }).epochUp 1
  | .orcptr p => s.modPart p fun x => { x with orcWidx := v.setWidth 16 }
  | .orebase p => if (s.part p).orcWidx ≠ (s.part p).orcRidx ∨ 8 < fld v 0 4 then s else (s.modPart p fun x => { x with orebase := keep v [(6, 42), (0, 4)] }).epochUp 1
  | .oreptr p => let s := s.modPart p fun x => { x with oreCons := .ofNat 16 (fld v 16 16) }
    s.flushOr p (s.part p).orEvents
  | .otsync p => s.modPart p fun x => { x with otsDone := false, otsCtx := v.setWidth 10, otsQ := x.otsQ ++ [(fld v 0 10, s.nextId)] }
  | .hscfg c => if fld v 8 5 < 8 ∨ 20 < fld v 8 5 then s
    else s.modClu c fun x =>
      { x with hscfg := keep v [(8, 5), (0, 1)], hscount := if v.getLsbD 0 && !x.hscfg.getLsbD 0 then 0 else x.hscount }
  | .hsring c => if 10 < fld v 0 4 then s else s.modClu c fun x => { x with hsring := keep v [(5, 43), (0, 4)] }
  | .hsptr c => s.modClu c fun x =>
      { x with hsptr := pack [(32, 32, fld x.hsptr 32 32), (16, 16, fld v 16 16), (0, 16, fld x.hsptr 0 16)] }
  | .rhcfg p => if fld v 16 16 = 0 then s
    else s.modPart p fun x => { x with rhDecay := .ofNat 32 (fld v 32 32), rhThr := .ofNat 16 (fld v 16 16), rhEn := v.getLsbD 0 }
  | .rhring p => s.modPart p fun x => { x with rhring := keep v [(4, 44), (0, 4)] }
  | .rhptr p => s.modPart p fun x => { x with rhCons := .ofNat 16 (fld v 16 16) }
  | .tqbase p => if (s.part p).tqWidx ≠ (s.part p).tqCons ∨ 8 < fld v 0 4 then s else (s.modPart p fun x => { x with tqbase := keep v [(6, 42), (0, 4)] }).epochUp 1
  | .tqptr p => s.modPart p fun x => { x with tqCons := .ofNat 16 (fld v 16 16) }
  | .retrymax => let n := fld v 0 20; if n = 0 ∨ 1000000 < n then s else s.modDev fun d => { d with retrymax := n }
  | .patctl => let n := fld v 8 4; if n = 0 ∨ 8 < n then s else s.modDev fun d => { d with patEn := v.getLsbD 0, patPer := n }
  | .errbase => s.modDev fun d => { d with errbase := keep v [(5, 43), (0, 4)] }
  | .errptr => s.modDev fun d => { d with errCons := .ofNat 16 (fld v 16 16) }
  | .rpcmap k => s.modDev fun d => { d with rpcmap := tput 0 d.rpcmap k v }
  | .pcictl =>
    let s := if fld v 8 8 = 0 then s else s.modDev fun d => { d with cto := fld v 8 8 }
    if fw then s.modDev fun d => { d with hostos := v.getLsbD 0 } else s
  | .lnkid => if s.dev.lnkLock then s
    else s.modDev fun d => { d with lnkLock := v.getLsbD 63, pod := .ofNat 11 (fld v 32 11), dev := v.setWidth 10 }
  | .winbase p => s.modPart p fun x => { x with winbase := keep v [(5, 43)] }
  | .wincnt p => if 4096 < fld v 0 13 then s else s.modPart p fun x => { x with wincnt := fld v 0 13 }
  | .expbase p => s.modPart p fun x => { x with expbase := keep v [(5, 43)] }
  | .expcnt p => if 4096 < fld v 0 13 then s else s.modPart p fun x => { x with expcnt := fld v 0 13 }
  | .supctl k =>
    let x := tget SupPort.reset s.dev.sup k
    let s := s.modDev fun d => { d with sup := tput .reset d.sup k { x with en := v.getLsbD 0 } }
    if !x.en && v.getLsbD 0 && x.st = .down then s.train k false else s
  | .ethctl k =>
    let x := tget EthPort.reset s.dev.eth k
    s.modDev fun d => { d with eth := tput .reset d.eth k { x with en := v.getLsbD 0, mac := .ofNat 48 (fld v 16 48) } }
  | .mcmbase => s.modDev fun d => { d with mcmbase := keep v [(7, 41)] }
  | .devid | .bootst | .bootseq | .wyst | .clctl _ | .frfree _ | .corestat _ _ | .sqctx _ | .ctxrun _ | .ctxseq _ | .qptr _ | .qerr _
  | .qdrop _ | .opstep _ | .swapcnt _ | .cecnt | .uecnt | .rtrycnt | .eol | .pcistat | .hostdrop | .indrop | .imgdrop | .go _
  | .qstat _ => s

/-- A master has the right to write a register (R361, R430). -/
def State.mayWrite (s : State) (m : Master) (r : PReg) : Bool :=
  match r.acc, m with
  | .page, _ => true
  | .ro, _ => false
  | .fw, .fw => true
  | .fw, _ => false
  | .os, .host => s.dev.hostos
  | .os, _ => true

/-- An 8-byte store by a master at an offset of the space. A write without the right is ignored and counted, the host's in
HOSTDROP; one to an unassigned offset is ignored (R361, R430). -/
def State.prsStore (s : State) (m : Master) (o : Nat) (v : Word) : State :=
  let drop (s : State) : State := if m = .host then s.modDev fun d => { d with hostdrop := d.hostdrop + 1 } else s.ignore
  match prsReg o with
  | none => if m = .host then drop s else s
  | some r => if s.mayWrite m r then s.writeReg (m == .fw) v r else drop s

/-- A store of another size than 8 bytes changes nothing (R361); one to SUBMIT is counted there (R378), and one of the host where it may not
write is counted as such (R430). -/
def State.prsOddStore (s : State) (m : Master) (o : Nat) : State :=
  match prsReg (o / 8 * 8) with
  | some (.submit n) => s.submitDrop n
  | some r => if m = .host && !s.mayWrite m r then s.modDev fun d => { d with hostdrop := d.hostdrop + 1 } else s
  | none => if m = .host then s.modDev fun d => { d with hostdrop := d.hostdrop + 1 } else s

/-- PARTCFG (R373). -/
def execPartcfg (m : Master) (v : Word) (s : State) : Res :=
  .next (if m = .fw then s.writePartcfg v else if m = .host then s.modDev fun d => { d with hostdrop := d.hostdrop + 1 } else s.ignore)

/-- PRIVILEGED_REGISTER_WRITE: an 8-byte store at an offset of the space. The host reaches offsets of BAR0 alone, and they ignore
writes until boot stage 4 (R361, R429, R430, R450). -/
def execPrivilegedRegisterWrite (m : Master) (addr : Nat) (v : Word) (s : State) : Res :=
  .next (if m = .host && (s.dev.stage < 4 || addr < 0x1000000 || 0x5000000 ≤ addr) then s else s.prsStore m addr v)

/-! ### Microcode (R326 to R328) -/

/-- A well-formed entry word: res0 fields clear. -/
def opEntryOk (w : Word) : Bool := outside w [(48, 16), (32, 2), (0, 15)] = 0

/-- MICROCODE_PATCH: a patch of entries below 0xC0 whose signature verifies is given to every sequencer of the partition; any other
is refused (R327). -/
def execMicrocodePatch (p : Fin 4) (x : Patch) (s : State) : Res :=
  .next (if (x.entries.all fun (k, w) => k < 0xC0 && opEntryOk w) && (x.bundles.all fun (k, ws) => k < 32768 && ws.length = 8) &&
      Config.mldsaVerify Config.patchKey (Config.sha3 (patchBytes x)) x.sig then
      (s.seqsOf p.val).foldl (fun s q => s.modSeq q fun z => { z with patches := z.patches ++ [x] }) s
    else s)

/-- PATCH_ADOPTION: a sequencer at an operator boundary adopts its oldest patch (R327). One that runs adopts what it has been given before
its next graph instruction. -/
def execPatchAdoption (q : Fin 4) (s : State) : Res :=
  .next (if s.atBoundary q.val then s.adopt q.val else s)

/-- The store bundles of a partition that the routine of an OPC may not take: those that signed patches wrote, those of the routines that other
XOPs hold, and those of the patches still to be adopted (R327, R328). -/
def State.ucUsed (s : State) (p opc : Nat) : List Nat :=
  (s.seqsOf p).flatMap fun q =>
    let z := s.seq q
    z.sigBundles ++ ((z.xopRuns.filter fun r => r.1 ≠ opc).flatMap fun (_, b, n) => rangeFrom b n) ++
      z.patches.flatMap fun x => x.bundles.map (·.1)

/-- XOP_REGISTER: the runtime places a customer routine in free store bundles and binds its OPC in every sequencer of the
partition, each at its next operator boundary (R328). -/
def execXopRegister (p : Fin 4) (opc : BitVec 8) (nwmask : BitVec 16) (image : List (List Word)) (s : State) : Res :=
  .next (if opc.toNat < 0xC0 || 0xF0 ≤ opc.toNat || image.isEmpty || image.any (fun ws => ws.length ≠ 8) then s
    else
      let free := (s.ucUsed p.val opc.toNat).foldl (fun l k => runTake l k 1) [(0, 32768)]
      match s.placeRun free image.length with
      | (none, s) => s
      | (some base, s) =>
        let x : Patch := ⟨image.zipIdx.map fun (ws, k) => (base + k, ws),
          [(opc.toNat, pack [(48, 16, nwmask.toNat), (32, 1, 1), (0, 15, base)])], []⟩
        (s.seqsOf p.val).foldl (fun s q => s.modSeq q fun z => { z with patches := z.patches ++ [x] }) s)

end Sys2Proof.Machine
end

