-- ==== Sys2Proof/Machine/Links.lean ====
section
/-!
DEFINITION. Masters outside the graph contexts: control cores (R107, R360), inbound requests (R429, R435 to R437, R414, R440),
failed requests (R434), scale-up, Ethernet and PCIe links (R440, R442, R444), and the debug service (R370).
-/
namespace Sys2Proof.Machine

/-! ### Control cores (R360, R361, R396, R443) -/

/-- The n bytes from l touch a fast granule in TRANSIT. -/
def State.inTransit (s : State) (l n : Nat) : Bool :=
  isFast l && (tkeys s.ctxs).any fun c =>
    (s.ctx c).part.val = l / 2 ^ 40 && (s.oidsOf c).any fun o => (s.extents c o).any fun e =>
      e.st.val = 3 && l % 2 ^ 40 < (e.fg + e.ng) * 65536 && e.fg * 65536 < l % 2 ^ 40 + n

/-- First address of the privileged register space (R360). -/
def prsBase : Nat := 0xF000000000

/-- The value that a hart's load or atomic returns. -/
def State.hartValue (s : State) (hart : Nat) (v : Nat) : State :=
  s.modDev fun d => { d with hartVals := tput 0 d.hartVals hart (.ofNat 64 v) }

/-- An access fault in a hart. -/
def State.hartFault (s : State) (hart : Nat) : State := s.modDev fun d => { d with hartFaults := d.hartFaults ++ [hart] }

/-- A store by a hart: firmware's passes the protection of images (R443). -/
def State.hartStore (s : State) (fw : Bool) (l : Nat) (bs : List Byte) : State :=
  if fw && s.guarded l bs.length then s.put l bs else s.store l bs

/-- A hart's store or atomic to these runs waits: for a granule on its way or migrating, or for a write of another agent to come. -/
def State.hartWaits (s : State) (rs : List (Nat × Nat × Nat)) : Bool :=
  rs.any fun (l, _, k) => s.inTransit l k || s.migBlocked l k || !s.allQuiet l k

/-- A hart's access to the placed runs of its bytes; an atomic lies in one granule (R360). -/
def State.hartMemAccess (s : State) (hart : Nat) (fw : Bool) (rs : List (Nat × Nat × Nat)) (op : HartOp) : State :=
  match op with
  | .load _ => if rs.any fun (l, _, k) => s.inTransit l k then s else s.hartValue hart (leNat (rs.flatMap fun (l, _, k) => s.bytes l k))
  | .store bs =>
    if s.hartWaits rs then s
    else (rs.foldl (fun (x : State × List Byte) (l, _, k) => (x.1.hartStore fw l (x.2.take k), x.2.drop k)) (s, bs)).1
  | .atom o t c => match rs with
    | [(l, _, n)] =>
      if s.hartWaits rs then s
      else
        let old := s.rdNat l n
        (s.hartStore fw l (leBytes n (atomNew o t old old c.toNat))).hartValue hart (ext64 t old).toNat
    | _ => s.hartFault hart
  | _ => s

/-- Bytes of a hart's access. -/
def hartSize : HartOp → Nat
  | .load n => n
  | .store bs => bs.length
  | .atom _ t _ => t.width / 8
  | _ => 0

/-- A hart's access to the register space: 8-byte loads and stores by firmware in M-mode, by the device OS in S-mode, and in U-mode through
the pages that S-mode has mapped for it (R356, R360, R361). -/
def State.hartPrs (s : State) (hart : Nat) (mode : HartMode) (o : Nat) (op : HartOp) : State :=
  if mode == .u && !s.dev.uPages.contains (o / 4096) then s.hartFault hart
  else match op with
    | .load 8 => let (v, t) := s.prsLoad o; t.hartValue hart v.toNat
    | .store bs =>
      let m : Master := if mode == .m then .fw else .os
      if bs.length = 8 then s.prsStore m o (.ofNat 64 (leNat bs)) else s.prsOddStore m o
    | _ => s.hartValue hart 0

/-- Partition p exists under the current MODE (R371). -/
def State.hasPart (s : State) (p : Nat) : Bool := (rangeFrom 0 4).any fun u => partOfUnit s.dev.mode u == p

/-- CONTROL_CORE_ACCESS: a load, store, atomic or FENCE of a hart in one of its modes. Memory is reached through the physical map, any other
address outside the register space is an access fault in the hart (R360). Firmware sets the length of the carve-out; the runtime places
aperture granules; S-mode maps pages of the register space for U-mode (R355, R356, R360; log 103). -/
def execControlCoreAccess (hart : Hart) (addr : Nat) (op : HartOp) (s : State) : Res :=
  .next (match op with
    | .fence => s
    | .carve n => if hart.mode == .m then (if n ≤ 2 ^ 36 then s.modDev fun d => { d with carve := n } else s) else s.hartFault hart.id.val
    | .place k p g =>
      if hart.mode == .u then s.hartFault hart.id.val
      else if k < 2 ^ 20 ∧ s.hasPart p.val ∧ (g + 1) * 65536 ≤ s.stacks * 0xC00000000 then
        s.modDev fun d => { d with aperture := tput none d.aperture k (some (p.val * 2 ^ 24 + g)) }
      else s
    | .grant page on =>
      if hart.mode == .u then s.hartFault hart.id.val
      else s.modDev fun d => { d with uPages := d.uPages.filter (· ≠ page) ++ (if on && page < 2 ^ 20 then [page] else []) }
    | _ => match s.hartRuns addr (hartSize op) with
      | some rs => s.hartMemAccess hart.id.val (hart.mode == .m) rs op
      | none =>
        if prsBase ≤ addr ∧ addr + hartSize op ≤ prsBase + 2 ^ 32 then s.hartPrs hart.id.val hart.mode (addr - prsBase) op
        else s.hartFault hart.id.val)

/-! ### Remote-access counters (R414) -/

/-- The table with the pair's counter in it: its own, a free one, or that of the lowest count. -/
def remoteRow (l : List RemCnt) (pod dev blk : Nat) : List RemCnt :=
  let mine (r : RemCnt) : Bool := r.pod == pod && r.dev == dev && r.blk == blk
  if l.any mine then l
  else if l.length < 32768 then l ++ [⟨pod, dev, blk, 0⟩]
  else
    let least := l.foldl (fun m r => min m r.count) 65535
    setAt l (l.findIdx fun r => r.count == least) ⟨pod, dev, blk, 0⟩

/-- Count one request from another device to a block; at THR a notification is written and the count returns to zero. -/
def State.countRemote (s : State) (p pod dev blk ctx oid : Nat) : State :=
  let x := s.part p
  if !x.rhEn then s
  else
    let mine (r : RemCnt) : Bool := r.pod == pod && r.dev == dev && r.blk == blk
    let l := (remoteRow x.remote pod dev blk).map fun (r : RemCnt) => if mine r then { r with count := min 65535 (r.count + 1) } else r
    let n := match l.find? mine with | some r => r.count | none => 0
    if n < x.rhThr.toNat then s.modPart p fun y => { y with remote := l }
    else
      let l := l.map fun (r : RemCnt) => if mine r then { r with count := 0 } else r
      let s := s.modPart p fun y => { y with remote := l }
      let cap := 2 ^ (fld x.rhring 0 4 + 6)
      if ringRoom x.rhWidx x.rhCons cap then
        let r := [pack [(48, 10, dev), (32, 11, pod), (0, 24, blk)], pack [(32, 16, x.rhThr.toNat), (20, 10, ctx), (0, 20, oid)]]
        (s.putWords (locFast p (fld x.rhring 4 44 * 16 + 16 * (x.rhWidx.toNat % cap))) r).modPart p fun y => { y with rhWidx := y.rhWidx + 1 }
      else s.modPart p fun y => { y with rhDrop := y.rhDrop + 1 }

/-! ### Inbound requests (R429, R435 to R437, R440) -/

/-- Bytes that an inbound request covers. -/
def inSize : InOp → Nat
  | .read n => n
  | .write bs => bs.length
  | .atom _ t _ _ => t.width / 8

/-- An inbound atomic that a target performs: FetchAdd, Swap or CAS of 32 or 64 bits, aligned (R190, R428, R436). -/
def inOkAt (off : Nat) : InOp → Bool
  | .atom op t _ _ =>
    (op.val = 0 || op.val = 6 || op.val = 7) && (t = .i32 || t = .n32 || t = .i64 || t = .n64) && off % (t.width / 8) = 0
  | _ => true

/-- The entry grants the right that the request needs. -/
def ExpEnt.grants (e : ExpEnt) : InOp → Bool
  | .read _ => true
  | .write _ => e.w
  | .atom _ _ _ _ => e.a

/-- The valid BUS entry that covers n bytes at a BAR2 address, with the offset in its range. -/
def State.busEntry (s : State) (addr n : Nat) : Option (ExpEnt × Nat) :=
  (tkeys s.ctxs).findSome? fun c => (rangeFrom 0 (s.ctx c).expcnt).findSome? fun k => match s.expEnt c k with
    | some e => if e.bus && e.apg * 65536 ≤ addr && addr + n ≤ (e.apg + e.ng) * 65536 then some (e, addr - e.apg * 65536) else none
    | none => none

/-- The PEER entry of a partition that covers n bytes at an offset. -/
def State.peerEntry (s : State) (p k off n : Nat) : Option (ExpEnt × Nat) :=
  match s.export? p k with
  | some e => if e.peer && off + n ≤ e.ng * 65536 then some (e, off) else none
  | none => none

/-- How an inbound request stands: refused, held back, or placed (R436). -/
inductive InReach where
  | refuse | hold (ctx oid prio : Nat) (layer : Option Nat) (g : Nat) | runs (e : ExpEnt) (l : List (Nat × Nat × Nat))

def State.inReach (s : State) (ent : Option (ExpEnt × Nat)) (op : InOp) : InReach :=
  match ent with
  | none => .refuse
  | some (e, off) =>
    if !e.grants op || !inOkAt (e.off + off) op then .refuse
    else match s.objEnt e.ctx e.oid with
      | none => .refuse
      | some x =>
        if !(x.space.val = 1 || (x.space.val = 2 && x.pin)) then .refuse
        else match s.reach e.ctx e.oid (e.off + off) (inSize op) with
          | .fault _ => .refuse
          | .absent pr y g => .hold e.ctx e.oid pr y g
          | .runs l => .runs e l

/-- A refused request: a read or atomic is answered with no bytes, a write is dropped and counted (R436). -/
def State.inRefuse (s : State) : InOp → State
  | .write _ => s.modDev fun d => { d with indrop := d.indrop + 1 }
  | _ => s.reply []

/-- Perform a placed request: the state and the answer; none where it must wait for a migration or another agent's write. -/
def State.inPerform (s : State) (l : List (Nat × Nat × Nat)) : InOp → Option (State × List Byte)
  | .read _ => some (s, l.flatMap fun (q, _, k) => s.bytes q k)
  | .write bs => if l.all fun (q, _, k) => s.allQuiet q k && !s.migBlocked q k then some (s.runStore 0 l bs, []) else none
  | .atom op t b c => match l with
    | (q, _, _) :: _ =>
      let n := t.width / 8
      if s.allQuiet q n && !s.migBlocked q n then
        let old := s.rdNat q n
        some (s.store q (leBytes n (atomNew op t old b.toNat c.toNat)), leBytes n old)
      else none
    | [] => none

/-- One second. -/
def secClk : Nat := 1000000000

/-- The stored response to a tag that a peer has used within the last second (R440). -/
def State.tagSeen (s : State) (pod dev tag : Nat) : Option (List Byte) :=
  (s.dev.peerTags.find? fun t => t.pod == pod && t.dev == dev && t.tag == tag && s.clk.toNat < t.clk + secClk).map (·.resp)

/-- Answer a request, and keep the answer of a peer's tag for one second. -/
def State.inAnswer (s : State) (op : InOp) (pod dev : Nat) (tag : Option Nat) (resp : List Byte) : State :=
  let s := match tag with
    | some t => s.modDev fun d =>
      { d with peerTags := (d.peerTags.filter fun x => s.clk.toNat < x.clk + secClk) ++ [⟨pod, dev, t, s.clk.toNat, resp⟩] }
    | none => s
  match op with
  | .write _ => s
  | _ => s.reply resp

/-- A host access to BAR4: the MSI-X table, the pending bits, which read zero, and the mirror of the device control block (R429). -/
def State.bar4 (s : State) (off : Nat) (op : InOp) : State :=
  match op with
  | .read n =>
    if off + n ≤ 0x8000 then s.reply (mgets s.dev.msixTab off n)
    else if 0xC000 ≤ off ∧ off < 0xD000 ∧ n = 8 then
      s.reply (leBytes 8 (match prsReg (off - 0xC000) with | some r => (s.readReg r).toNat | none => 0))
    else s.reply (List.replicate n 0)
  | .write bs =>
    if off + bs.length ≤ 0x8000 then s.modDev fun d => { d with msixTab := mputs d.msixTab off bs }
    else if 0xC000 ≤ off ∧ off < 0xD000 then s.modDev fun d => { d with hostdrop := d.hostdrop + 1 }
    else s
  | _ => s.reply []

/-- A host access to BAR0: registers by 8-byte accesses; zero and ignored before boot stage 4 (R429, R430, R450). -/
def State.bar0 (s : State) (off : Nat) (op : InOp) : State :=
  let o := 0x1000000 + off
  match op with
  | .read n =>
    if s.dev.stage < 4 || n ≠ 8 || 0x4000000 ≤ off then s.reply (List.replicate n 0)
    else
      let (v, t) := s.prsLoad o
      t.reply (leBytes 8 v.toNat)
  | .write bs =>
    if s.dev.stage < 4 || 0x4000000 ≤ off then s
    else if bs.length = 8 then s.prsStore .host o (.ofNat 64 (leNat bs)) else s.prsOddStore .host o
  | _ => s.reply []

/-- INBOUND_REQUEST: from the host, a PCIe peer, or a device of the pod (R436). -/
def execInboundRequest (p : InPath) (op : InOp) (s : State) : Res :=
  .next (match p with
    | .bar0 off => s.bar0 off op
    | .bar4 off => s.bar4 off op
    | .bar2 addr => match s.inReach (s.busEntry addr (inSize op)) op with
      | .refuse | .hold _ _ _ _ _ => s.inRefuse op
      | .runs _ l => match s.inPerform l op with
        | some (t, r) => t.inAnswer op 0 0 none r
        | none => s
    | .peer part ent off dev pod tag =>
      match tag.bind (s.tagSeen pod.toNat dev.toNat) with
      | some r => (match op with | .write _ => s | _ => s.reply r)
      | none => match s.inReach (s.peerEntry part.val ent off (inSize op)) op with
        | .refuse => s.inRefuse op
        | .hold c oid pr y g => (s.absentReq c oid pr y g).1
        | .runs e l =>
          let away := dev ≠ s.dev.dev || pod ≠ s.dev.pod
          let count (s : State) : State := match l with
            | (q, _, _) :: _ =>
              if away && isFast q then s.countRemote (q / 2 ^ 40) pod.toNat dev.toNat (q % 2 ^ 40 / 65536) e.ctx e.oid else s
            | [] => s
          match s.inPerform l op with
          | some (t, r) => (count t).inAnswer op pod.toNat dev.toNat tag r
          | none => s)

/-! ### Failed requests (R434) -/

/-- The parts of a value that came from outside the device are all-ones. -/
def allOnesExt (a : Access) (v : Vec) : Vec :=
  a.parts.foldl (fun v p => if isExt p.loc then v ||| .ofNat 2048 ((2 ^ (8 * p.n) - 1) * 2 ^ (8 * p.lane)) else v) v

/-- A PCIe request fails: a load or atomic returns all-ones and an error record is written; a posted write is not reported (R434). -/
def State.failReq (s : State) (r : ExtReq) : State :=
  let s := { s with ext := s.ext.filter (· ≠ r) }
  match r.wr with
  | some _ => s
  | none =>
    let s : State := { s with
      accs := s.accs.map fun (a : Access) => if a.id = r.id then { a with taken := a.taken.map (allOnesExt a) } else a
      queues := s.queues.map fun (n, (x : SubQ)) => (n, if x.feed = some (r.id, false) then { x with feed := some (r.id, true) } else x) }
    s.errRecord 8 0 2 (.ofNat 64 (r.addr - 2 ^ 64)) none

/-- COMPLETION_TIMEOUT: a window request over PCIe has no good completion (R434). -/
def execCompletionTimeout (id : Nat) (s : State) : Res :=
  .next (match s.ext.find? fun r => r.id == id && r.kind == 0 && r.wr.isNone with
    | some r => s.failReq r
    | none => s)

/-- PCIE_LINK_CHANGE: PCISTAT shows the link; while it is down every request fails, those under way too (R434, R445). -/
def execPcieLinkChange (speed : BitVec 4) (width : BitVec 5) (flit : Bool) (s : State) : Res :=
  .next (if 7 < speed.toNat then s
    else
      let up : Bool := speed ≠ 0
      let s := s.modDev fun d => { d with pciSpeed := speed, pciWidth := if up then width else 0, pciFlit := up && flit }
      if up then s else (s.ext.filter fun r => r.kind == 0).foldl State.failReq s)

/-! ### Scale-up ports (R440, R444) -/

/-- The comets held at a port are dropped and reported (R341, R442, R444). -/
def State.dropHeld (s : State) (port : Nat) : State :=
  let mine (o : OutComet) : Bool := o.port == port && o.held
  let n := (s.comets.filter mine).length
  ({ s with comets := s.comets.filter fun o => !mine o } : State).modDev fun d => { d with cometReports := d.cometReports + n }

/-- The plane of a window request among the live planes (R439). -/
def State.planeOf (s : State) (loc : Nat) : Nat :=
  let live := (rangeFrom 0 18).filter s.portUp
  let x := (loc - 2 ^ 67) / 2 ^ 48 % 4096 + (loc - 2 ^ 67) % 2 ^ 48 / 4096
  if live = [] then 0 else live.getD (x % live.length) 0

/-- REPLAY_LIMIT: sixteen replays in a row send a port that is up into TRAIN; its requests are sent again on their new planes. -/
def execReplayLimit (k : Fin 18) (s : State) : Res :=
  .next (if !s.portUp k.val then s
    else
      let x := tget SupPort.reset s.dev.sup k.val
      let s := s.train k.val (x.st == .up4)
      { s with ext := s.ext.map fun (r : ExtReq) => if r.kind = 2 ∧ r.plane = k.val then { r with plane := s.planeOf r.addr } else r })

/-- What a training attempt makes of a port (R444): UP8, UP4 with its half, or a failed attempt. -/
def trained (x : SupPort) (r : TrainResult) : Option SupPort :=
  match r, x.narrow with
  | .all, false => some { x with st := .up8, fails := 0 }
  | .all, true => some { x with st := .up4, fails := 0 }
  | .low, n => if n && x.half then none else some { x with st := .up4, half := false, fails := 0, narrow := true }
  | .high, n => if n && !x.half then none else some { x with st := .up4, half := true, fails := 0, narrow := true }
  | .fail, _ => none

/-- TRAIN_END: training ends UP8 or UP4 and the held flits are sent; a third failed attempt in a row takes the port DOWN, and its
held comets are dropped (R444). -/
def execTrainEnd (k : Fin 18) (r : TrainResult) (s : State) : Res :=
  .next (
    let x := tget SupPort.reset s.dev.sup k.val
    let set (y : SupPort) : State := s.modDev fun d => { d with sup := tput .reset d.sup k.val y }
    if x.st != .train then s
    else match trained x r with
      | some y =>
        let t := set y
        { t with comets := t.comets.map fun (o : OutComet) => if o.port = k.val then { o with held := false } else o }
      | none =>
        if x.fails + 1 < 3 then set { x with fails := x.fails + 1 }
        else (set { x with st := .down, fails := 0, narrow := false }).dropHeld k.val)

/-! ### Limits in time (R434, R444, R445) -/

/-- A load or atomic over PCIe, or the read of a FEED, whose value has not arrived within PCICTL.CTO (R434, R445). -/
def State.late (s : State) (r : ExtReq) : Bool :=
  r.kind == 0 && r.wr.isNone && decide (r.born + s.dev.cto * msClk ≤ s.clk.toNat) &&
    (s.accs.any (fun a => a.id == r.id) || s.queues.any fun (_, x) => x.feed == some (r.id, false))

/-- Training that has lasted 2 ms ends. The spec gives no result for it: the port goes DOWN (R444; DESIGN CHOICE, log 107). -/
def State.trainLate (s : State) (k : Nat) : State :=
  let x := tget SupPort.reset s.dev.sup k
  if x.st == .train && decide (x.since + 2 * msClk ≤ s.clk.toNat) then
    (s.modDev fun d => { d with sup := tput .reset d.sup k { x with st := .down, fails := 0, narrow := false } }).dropHeld k
  else s

/-- What comes about because its time has passed: completion timeouts and the end of training (R434, R444). -/
def State.expire (s : State) : State :=
  let t := (s.ext.filter s.late).foldl State.failReq s
  (tkeys t.dev.sup).foldl State.trainLate t

/-! ### Ethernet (R442, R444) -/

/-- CONNECTION_FAILURE: the connection of a port drops its queued comets and reports them (R442). -/
def execConnectionFailure (e : Fin 8) (s : State) : Res := .next (s.dropHeld (18 + e.val))

/-- ETHERNET_LINK_CHANGE: ETHCTL.UP follows the link of an enabled port; a dropped port stops its connections (R442, R444). -/
def execEthernetLinkChange (e : Fin 8) (up : Bool) (s : State) : Res :=
  .next (
    let x := tget EthPort.reset s.dev.eth e.val
    let on := up && x.en
    let s := s.modDev fun d => { d with eth := tput .reset d.eth e.val { x with up := on } }
    if on then s else s.dropHeld (18 + e.val))

/-! ### The debug service (R370) -/

/-- DEBUG_FRAME_WRITE: firmware writes into the frame of a saved task whose context does not run; a write after the restore has
begun is lost (R370). -/
def execDebugFrameWrite (clu frame off : Nat) (bs : List Byte) (s : State) : Res :=
  .next (if clu < 12 && frame < 32 && decide (off + bs.length ≤ 0x104000) then
      match s.frameOwner clu frame with
      | some (g, _, _) => if (s.ctx g.ctx).seq.isSome then s else s.put (s.frameLoc clu frame + off) bs
      | none => s
    else s)

end Sys2Proof.Machine
end

