-- ==== Sys2Proof/Machine/Boot.lean ====
section
/-!
DEFINITION. Bring-up, firmware and management (R425, R450 to R462): reset and the boot stages, markers and slots, firmware
update, image keys, attestation, sensors.
-/
namespace Sys2Proof.Machine

/-! ### Firmware storage (R451 to R454) -/

def markerLoc (k : Nat) : Nat := norBase + 0x10000 + 0x1000 * k
def slotLoc (b : Bool) : Nat := norBase + if b then 0x2800000 else 0x1000000
/-- 24 MiB. -/
def slotSize : Nat := 0x1800000

/-- A marker copy as the boot ROM reads it (R452). -/
structure Marker where
  slotB : Bool
  seq : Nat
  svn : Nat
  idig : Nat
  deriving DecidableEq, Repr

/-- Marker copy k, if it is valid: MAGIC, VER, SLOT, res0 fields and signature (R453). -/
def State.marker (s : State) (k : Nat) : Option Marker :=
  let l := markerLoc k
  let rd (o n : Nat) : Nat := s.rdNat (l + o) n
  if rd 0 4 = 0x314B4D41 ∧ rd 4 2 = 1 ∧ rd 6 1 ≤ 1 ∧ rd 7 1 = 0 ∧ rd 20 4 = 0 ∧ rd 56 8 = 0 ∧
      Config.mldsaVerify Config.markerKey (Config.sha3 (s.bytes l 64)) (s.bytes (l + 64) 2420) = true then
    some ⟨rd 6 1 = 1, rd 8 8, rd 16 4, rd 24 32⟩
  else none

/-- The active marker with its copy: the valid copy of higher SEQ, copy 0 on a tie (R453). -/
def State.activeMarker (s : State) : Option (Nat × Marker) :=
  match s.marker 0, s.marker 1 with
  | some a, some b => if a.seq < b.seq then some (1, b) else some (0, a)
  | some a, none => some (0, a)
  | none, some b => some (1, b)
  | none, none => none

/-- The Bernatik root key, where its digest is the fused one (R451). -/
def State.rootKey (s : State) : Option (List Byte) :=
  let k := s.bytes norBase 1312
  if Config.sha3 k = Config.rootDigest then some k else none

def State.slotHdr (s : State) (b : Bool) : Config.SlotHeader := Config.slotHeader (s.bytes (slotLoc b) 0x10000)

/-- The digest of a slot's image header. -/
def State.hdrDigest (s : State) (b : Bool) : BitVec 256 := Config.sha3 (s.bytes (slotLoc b) (s.slotHdr b).bytes)

/-- The boot ROM accepts a slot, against the IDIG of a marker where one is given (R454, R455). -/
def State.slotOk (s : State) (b : Bool) (idig : Option Nat) : Bool :=
  let h := s.slotHdr b
  match s.rootKey with
  | none => false
  | some key =>
    h.magic = 0x3157464B && Config.mldsaVerify key (s.hdrDigest b) h.sig &&
      (match idig with | some d => (s.hdrDigest b).toNat = d | none => true) &&
      decide (h.comps.length ≤ 16) &&
      (h.comps.all fun (_, o, n, d) => o + n ≤ slotSize && Config.sha3 (s.bytes (slotLoc b + o) n) = d) &&
      decide (s.dev.svnmin.toNat ≤ h.svn.toNat)

/-! ### Reset and boot (R450, R453 to R455) -/

/-- The measurement that a component of a type changes (R460), in the order in which R454 lists the types. -/
def measIndex : Nat → Option Nat
  | 0 => some 3
  | 1 => some 4
  | 2 => some 5
  | 3 => some 7
  | 4 => some 6
  | _ => none

/-- The measurements that a reset sets: the active marker's body and the components of the slot that runs (R460). -/
def State.measure (s : State) (m : Option (Nat × Marker)) (slot : Option Bool) : Tbl (BitVec 256) :=
  let t : Tbl (BitVec 256) := match m with | some (k, _) => tput 0 [] 2 (Config.sha3 (s.bytes (markerLoc k) 64)) | none => []
  match slot with
  | none => t
  | some b => (s.slotHdr b).comps.foldl (fun t (ty, o, n, _) => match measIndex ty with
    | some i => tput 0 t i (Config.sha3 (s.bytes (slotLoc b + o) n))
    | none => t) t

/-- What survives a main-side reset beside the SPI NOR: the part's identity, the fuses, the patch chain and the pseudo-channels
that RPCMAP retires (R425, R455, R460). -/
def Device.afterReset (d : Device) : Device :=
  { Device.reset with
    devid := d.devid, svnmin := d.svnmin, patchChain := d.patchChain, rpcLive := d.rpcmap, spdm := d.spdm, sensorOut := d.sensorOut
    replies := d.replies, pldm := d.pldm }

/-- Every register at its reset value; memory keeps its bytes until stage 2 scrubs it. The agenda and the counters are the
model's own. -/
def State.clear (s : State) : State :=
  { State.reset with agenda := s.agenda, free := s.free, nextId := s.nextId, mem := s.mem, tags := s.tags, dev := s.dev.afterReset }

/-- Boot stage 1: the boot ROM selects the active marker, verifies the slot that it names, and falls back to the other slot; with
both refused the main side stays in recovery (R453, R454). An armed activation raises the fused minimum SVN once its image
has been accepted under its marker (R455, R457). -/
def State.bootRom (s : State) : State :=
  let m := s.activeMarker
  let first := match m with | some (_, x) => x.slotB | none => false
  let idig := m.map fun (_, x) => x.idig
  let ok1 := s.slotOk first idig
  let ok2 := !ok1 && s.slotOk (!first) none
  let slot := if ok1 then first else if ok2 then !first else first
  let t := s.clear
  let svn := (s.slotHdr slot).svn
  t.modDev fun d =>
    { d with accepted := ok1 || ok2, slotB := slot, fallback := ok2, nomark := m.isNone
             bootseq := match m with | some (_, x) => .ofNat 64 x.seq | none => 0
             svnmin := if s.dev.activated && s.dev.raiseReq && ok1 && m.isSome && d.svnmin.toNat < svn.toNat then svn else d.svnmin
             meas := s.measure m (if ok1 || ok2 then some slot else none) }

/-- MAIN_SIDE_RESET: from power-on, the PCIe fundamental reset or a Wyust request, at any stage; an update under way ends (R450,
R458). -/
def execMainSideReset (s : State) : Res := .next s.bootRom

/-- Fast-tier address of a cluster's frame pool, as firmware places it: 64 KiB aligned, the pools side by side. -/
def poolBase (c : Nat) : Nat := 0x1700000000 + 0x2200000 * c

/-- BOOT_STAGE_2: memory is scrubbed, every enabled cluster gets its pool of 32 free frames, and patrol runs (R363, R450). The
microcode stores hold the shipped routines, which the model runs as the graph instructions' own effects. -/
def execBootStage2 (s : State) : Res :=
  .next (if s.dev.stage = 1 && s.dev.accepted then
      let t := (s.scrubAll norBase).modDev fun d => { d with stage := 2 }
      ((rangeFrom 0 12).filter t.cluOn).foldl (fun t c => t.modClu c fun x =>
        { x with frbase := .ofNat 64 (poolBase c), frcnt := 32, frfree := BitVec.allOnes 32 }) t
    else s)

/-- BOOT_STAGE_3: the control cores start the device-OS loader (R450). -/
def execBootStage3 (s : State) : Res := .next (if s.dev.stage = 2 then s.modDev fun d => { d with stage := 3 } else s)

/-- BOOT_STAGE_4: the device OS trains the links; LNKID and the queues follow by register writes (R444, R450). -/
def execBootStage4 (s : State) : Res :=
  .next (if s.dev.stage = 3 then
      ((rangeFrom 0 18).filter fun k => (tget SupPort.reset s.dev.sup k).en).foldl (fun s k => s.train k false)
        (s.modDev fun d => { d with stage := 4 })
    else s)

/-- POWER_LOSS: what the SPI NOR and the fuses hold stays, the next boot runs as from power-on, and an update is lost at its
step (R456). -/
def execPowerLoss (s : State) : Res := .next s.bootRom

/-! ### Firmware update (R456 to R458) -/

/-- Answer a PLDM request with a completion code. -/
def State.pldmReply (s : State) (c : Nat) : State := s.modDev fun d => { d with pldm := d.pldm ++ [c] }

/-- The slot that does not run (R456). -/
def State.target (s : State) : Bool := !s.dev.slotB

/-- PLDM's code for an update already in progress. -/
def pldmBusy : Nat := 0x81
/-- PLDM's code for a command that no update allows. -/
def pldmNotInUpdate : Nat := 0x80
/-- PLDM's generic error. -/
def pldmError : Nat := 1

/-- REQUEST_UPDATE: one update runs at a time (R458). -/
def execRequestUpdate (s : State) : Res :=
  .next (if s.dev.upd != .idle then s.pldmReply pldmBusy
    else (s.modDev fun d => { d with upd := .writing, updLen := 0 }).pldmReply 0)

/-- FIRMWARE_DATA: at most 1,024 bytes of the image go into the target slot, which the first of them erases (R456, R457). -/
def execFirmwareData (off : Nat) (bs : List Byte) (s : State) : Res :=
  .next (if s.dev.upd == .writing && bs.length ≤ 1024 && decide (off + bs.length ≤ slotSize) then
      let l := slotLoc s.target
      let s : State := if s.dev.updLen = 0 then { s with mem := s.mem.filter fun x => x.1 < l || l + slotSize ≤ x.1 } else s
      (s.put (l + off) bs).modDev fun d => { d with updLen := max d.updLen (off + bs.length) }
    else s)

/-- TRANSFER_COMPLETE: the image has been written (R457). -/
def execTransferComplete (s : State) : Res :=
  .next (if s.dev.upd == .writing then (s.modDev fun d => { d with upd := .written }).pldmReply 0 else s.pldmReply pldmNotInUpdate)

/-- The marker copy that an update writes: an invalid one, copy 0 first, else that of lower SEQ, copy 1 on a tie (R456). -/
def State.markerToWrite (s : State) : Nat :=
  match s.marker 0, s.marker 1 with
  | none, _ => 0
  | some _, none => 1
  | some a, some b => if a.seq < b.seq then 0 else 1

/-- The SEQ of the new marker (R456). -/
def State.nextSeq (s : State) : Nat := match s.activeMarker with | some (_, x) => x.seq + 1 | none => 1

/-- Erase n bytes of the SPI NOR. -/
def State.erase (s : State) (l n : Nat) : State := { s with mem := s.mem.filter fun x => x.1 < l || l + n ≤ x.1 }

/-- VERIFY_COMPLETE: the target slot is checked under R454 against a marker not yet written; where it passes, the copy that will
hold the marker is erased, and an update that fails ends (R455, R456). -/
def execVerifyComplete (s : State) : Res :=
  .next (if s.dev.upd != .written then s.pldmReply pldmNotInUpdate
    else if s.slotOk s.target none then
      ((s.erase (markerLoc s.markerToWrite) 0x1000).modDev fun d => { d with upd := .verified }).pldmReply 0
    else (s.modDev fun d => { d with upd := .idle }).pldmReply pldmError)

/-- The 64-byte body of a marker (R452). -/
def markerBody (slotB : Bool) (seq svn : Nat) (idig : BitVec 256) : List Byte :=
  leBytes 4 0x314B4D41 ++ leBytes 2 1 ++ [if slotB then 1 else 0, 0] ++ leBytes 8 seq ++ leBytes 4 svn ++ leBytes 4 0 ++
    leBytes 32 idig.toNat ++ leBytes 8 0

/-- APPLY_COMPLETE: the new marker, complete with its signature, names the target slot; the image runs from the next reset (R452,
R456, R457). -/
def execApplyComplete (s : State) : Res :=
  .next (if s.dev.upd != .verified then s.pldmReply pldmNotInUpdate
    else
      let b := s.target
      let body := markerBody b s.nextSeq (s.slotHdr b).svn.toNat (s.hdrDigest b)
      let s := s.put (markerLoc s.markerToWrite) (body ++ Config.markerSign (Config.sha3 body))
      (s.modDev fun d => { d with upd := .idle, pendReset := true }).pldmReply 0)

/-- ACTIVATE_FIRMWARE: activation waits for a reset; without an ApplyComplete before it it is refused (R455, R457, R458). -/
def execActivateFirmware (raise : Bool) (s : State) : Res :=
  .next (if s.dev.pendReset then (s.modDev fun d => { d with activated := true, raiseReq := raise }).pldmReply 0
    else s.pldmReply pldmNotInUpdate)

/-- WYRST: firmware, or Wyust for the management controller, requests a main-side reset by writing 1; another master has no
right to the register (R457, R461, R462). -/
def execWyrst (m : Master) (v : Word) (s : State) : Res :=
  .next (match m with
    | .fw => if v.getLsbD 0 then s.modDev fun d => { d with wyReq := true } else s
    | .os => s.ignore
    | .host => s.modDev fun d => { d with hostdrop := d.hostdrop + 1 })

/-! ### Keys, attestation, sensors (R459 to R461) -/

/-- IMAGE_KEY_INSTALL: the firmware service writes or removes an entry of the image-key table (R459). -/
def execImageKeyInstall (i : Fin 8) (key : Option (List Byte)) (s : State) : Res :=
  .next (let s := s.erase (keyLoc i.val) 8192
    match key with
    | some k => if k.length = 1312 then (s.put (keyLoc i.val) [1]).put (keyLoc i.val + 16) k else s
    | none => s)

/-- A measurement as it stands (R460). -/
def State.measurement (s : State) (i : Nat) : Option (List Byte) :=
  if i = 1 then some (leBytes 32 Config.bootRom.toNat)
  else if 2 ≤ i ∧ i ≤ 7 then some (leBytes 32 (tget 0 s.dev.meas i).toNat)
  else if i = 8 then some (leBytes 32 s.dev.patchChain.toNat)
  else if i = 9 then some (leBytes 32 (Config.sha3 (s.bytes (norBase + 0x20000) 0x10000)).toNat)
  else if i = 10 then some (leBytes 8 s.dev.svnmin.toNat)
  else none

/-- SPDM_REQUEST: the answer carries the measurement, signed with the device identity key (R460). -/
def execSpdmRequest (index : Nat) (s : State) : Res :=
  .next (s.modDev fun d => { d with spdm := d.spdm ++ [match s.measurement index with
    | some m => m ++ Config.identitySign (Config.sha3 m)
    | none => []] })

/-- Sensors whose source lies in the main domain (R461). -/
def Sensor.main : Sensor → Bool
  | .ioTemp | .power | .boot => false
  | _ => true

/-- What a sensor reads; temperatures and power are free values. -/
def State.sensor (s : State) : Sensor → Word
  | .life => s.dev.eolMonths.setWidth 64
  | .cecnt => s.dev.cecnt.setWidth 64
  | .uecnt => s.dev.uecnt.setWidth 64
  | .port k => .ofNat 64 (tget SupPort.reset s.dev.sup k.val).st.code
  | .boot => bootstWord s.dev
  | x => Config.sensor x s.free

/-- GET_SENSOR_READING: a value, or "unavailable" for a main-side source before stage 4 (R461). -/
def execGetSensorReading (x : Sensor) (s : State) : Res :=
  .next (
    let v := if Sensor.main x && s.dev.stage ≠ 4 then none else some (s.sensor x)
    ({ s with free := s.free + 1 } : State).modDev fun d => { d with sensorOut := d.sensorOut ++ [v] })

end Sys2Proof.Machine
end

