-- ==== Sys2Proof/Machine/Operators.lean ====
section
/-!
DEFINITION. The graph operators at work (R303 to R305, R310, R321 to R325, R350): the routine on a sequencer, which checks,
waits and issues gangs of the operator library, and the end of a library task, at which its tiles are written.
-/
namespace Sys2Proof.Machine

/-! ### Environments -/

/-- What the routine of a context reads of its image. -/
def State.opEnv (s : State) (c : Nat) : OpEnv := ⟨s.desc c, s.attr c, s.group c, s.dev.dev.toNat⟩

/-- The same with the descriptors that a gang was given (R300). -/
def State.gangEnv (s : State) (g : Gang) : OpEnv := { s.opEnv g.ctx with d := fun k => (tfind g.descs k).getD (s.desc g.ctx k) }

/-- The byte o past a handle's CUR as the engine in focus sees it. -/
def State.tensorByte (s : State) (e c : Nat) (h : Handle) (o : Nat) : Nat :=
  match s.objEnt c h.oid with
  | none => 0
  | some x => match s.place c h.oid x (h.cur + o) with
    | .at_ l => (if isExt l then Config.extByte s.free l else s.viewByte e false s.nextId l).toNat
    | _ => 0

/-- The object of the receive buffer of a context's exchanges, that of their completion records (16 bytes for each entry of its range) and
that of their duplicate maps (8 KiB each). The spec reserves their OIDs (R325) and leaves open which they are: DESIGN CHOICE, log 101. -/
def rxOid : Nat := 0xFFFFC
def mapOid : Nat := 0xFFFFD
def doneOid : Nat := 0xFFFFE

/-- A handle over an object with rights. -/
def State.overObj (s : State) (c oid rights : Nat) : Handle :=
  newHandle oid rights (match s.objEnt c oid with | some x => x.size | none => 0)

/-- The reads of a kernel on engine e. -/
def State.rdEnv (s : State) (e c : Nat) (v : OpEnv) : RdEnv :=
  ⟨v, fun d xs => tensorElem (v.d d) (s.tensorByte e c (v.d d).handle) xs, 0, s.tensorByte e c (s.overObj c rxOid 0x80)⟩

/-! ### Reach of operands -/

/-- The translated granule pieces of an operand's footprint. -/
def State.operandPlaces (s : State) (c : Nat) (v : DescVal) (x : ObjEnt) : List (Nat × Place) :=
  let a := v.handle.cur
  let n := v.footprint
  (rangeFrom 0 (if n = 0 then 0 else (a + n - 1) / 65536 - a / 65536 + 1)).map fun k =>
    let b := max a ((a / 65536 + k) * 65536)
    (min (a + n) ((a / 65536 + k + 1) * 65536) - b, s.place c v.handle.oid x b)

/-- The fault that a kernel's access to an operand under a right meets (R74, R396), on cluster `clu`. -/
def State.operandFault (s : State) (c : Nat) (clu : Option Nat) (v : DescVal) (right : Nat) : Option Nat :=
  let h := v.handle
  if v.footprint = 0 then none
  else match h.check right h.cur v.footprint with
    | some f => some f
    | none => match s.objEnt c h.oid with
      | none => some 0x20
      | some x =>
        if x.space.val = 0 ∧ some x.clu ≠ clu then some 0x21
        else
          let ps := s.operandPlaces c v x
          if (ps.any fun p => p.2 == .noObject) then some 0x20
          else if x.space.val ≠ 4 ∧ x.size < h.cur + v.footprint then some 0x22
          else if ps.any fun p => p.2 == .bounds then some 0x22
          else none

/-- The first non-resident piece of an operand, with its object's priority. -/
def State.operandAbsent (s : State) (c : Nat) (v : DescVal) : Option (Nat × Option Nat × Nat) :=
  match s.objEnt c v.handle.oid with
  | none => none
  | some x => (s.operandPlaces c v x).findSome? fun p => match p.2 with | .absent y g => some (x.prio, y, g) | _ => none

/-- Every byte of an operand can be written by an engine now. -/
def State.operandQuiet (s : State) (c : Nat) (v : DescVal) : Bool :=
  match s.objEnt c v.handle.oid with
  | none => true
  | some x => (s.operandPlaces c v x).all fun p => match p.2 with | .at_ l => s.allQuiet l p.1 | _ => true

/-! ### Writes -/

/-- Store bytes o past a handle's CUR, each granule at its place; those to a target outside the device leave as requests. -/
def State.storeTensor (s : State) (c : Nat) (h : Handle) (o : Nat) (bs : List Byte) : State :=
  match s.objEnt c h.oid with
  | none => s
  | some x => (granPieces (h.cur + o) bs.length).foldl (fun s (a, n) =>
      match s.place c h.oid x a with
      | .at_ l =>
        let b := (bs.drop (a - (h.cur + o))).take n
        if isExt l then s.extSend 0 l (some b) true else s.store l b
      | _ => s) s

/-- Write one element of a plain layout. -/
def State.storeElem (s : State) (e c : Nat) (v : DescVal) (xs : List Nat) (n : Nat) : State :=
  let b := elemBit v xs
  if v.fmt.width = 4 then
    let old := s.tensorByte e c v.handle (b / 8)
    let new := if b % 8 = 0 then old / 16 * 16 + n % 16 else old % 16 + n % 16 * 16
    s.storeTensor c v.handle (b / 8) [.ofNat 8 new]
  else s.storeTensor c v.handle (b / 8) (leBytes (v.fmt.width / 8) n)

/-- The number that a value writes, a free one being drawn. -/
def State.outNat (s : State) : OutVal → Option Nat × State
  | .keep => (none, s)
  | .val n => (some n, s)
  | .free => (some (Config.freeVec s.free).toNat, { s with free := s.free + 1 })

/-- Write the cells of one member of a gang's operator. -/
def State.writeCells (s : State) (e c : Nat) (v : OpEnv) : List (Nat × List Nat × OutVal) → State
  | [] => s
  | (d, xs, x) :: l =>
    let (n, s) := s.outNat x
    (match n with | some n => s.storeElem e c (v.d d) xs n | none => s).writeCells e c v l

/-- Write the bytes of a sparse output. -/
def State.writeBytes (s : State) (c : Nat) (h : Handle) : List (Nat × OutVal) → State
  | [] => s
  | (o, x) :: l =>
    let (n, s) := s.outNat x
    (match n with | some n => s.storeTensor c h o [.ofNat 8 n] | none => s).writeBytes c h l

/-! ### The end of a library task -/

/-- The operators of a library gang; the first instruction of a fused one is its FUSE. -/
def libMembers : List Instr → Bool × List Instr
  | .fuse elide _ :: l => (elide, l)
  | l => (false, l)

/-- The operands of a group with the right that each needs; with ELIDE the intermediates are left out (R322). -/
def libOperands (v : OpEnv) (elide : Bool) (l : List Instr) : List (Nat × Bool) :=
  let last := (l.getLast?.map v.allOuts).getD []
  let mids := if elide then ((l.dropLast).flatMap v.allOuts).filter fun d => !last.contains d else []
  let inner := (l.dropLast).flatMap v.allOuts
  let outs := (l.flatMap v.allOuts).filter fun d => !mids.contains d
  let ins := (l.flatMap v.allIns).filter fun d => !inner.contains d
  outs.map (fun d => (d, true)) ++ ins.map fun d => (d, false)

/-- The first mask of a sparse B, among the tiles that a MATMUL task reads, that breaks its count (R236). -/
def RdEnv.sparseFault (r : RdEnv) (byte : Nat → Nat) (i : Instr) (t : Nat) : Option Nat :=
  match i with
  | .matmul _ _ c a b =>
    let vb := r.v.d b.toNat
    if vb.layout ≠ 3 ∧ vb.layout ≠ 4 then none
    else
      let vc := r.v.d c.toNat
      let nt := ceilDiv (vc.ext 0) 256
      let mt := tileRows128 (vc.ext 1)
      let bt := if vb.ext 2 = 1 then 0 else t / mt / nt
      let c1 := ceilDiv (vb.ext 1) (tileDims vb.layout vb.fmt).2
      let n := sparseN vb.layout
      let _ := a
      (rangeFrom 0 c1).findSome? fun k =>
        let at_ := (t / mt % nt + ceilDiv (vb.ext 0) 256 * (k + c1 * (if vb.rank = 3 then bt else 0))) * tileSize vb.layout vb.fmt
        badMask n 0 ((rangeFrom 0 (256 * (256 / n))).map fun j =>
          (rangeFrom 0 16).foldl (fun z q => z + byte (at_ + 0x10000 + 16 * j + q) * 256 ^ q) 0)
  | _ => none

/-- The writes of tile t of a group: per member its cells with their values. -/
def libCells (v : OpEnv) (r : RdEnv) (elide : Bool) (l : List Instr) (seeds : List Nat) (t : Nat) : List (Nat × List Nat × OutVal) :=
  let cs := match l with | i :: _ => tileCoords v i t | [] => []
  let ms := memberEnvs r (l.zip seeds)
  let ms := if elide then ms.drop (ms.length - 1) else ms
  ms.flatMap fun (i, r) => (opCells v i cs (t = 0)).map fun (d, xs) => (d, xs, r.value i d xs)

/-- ATTN's decode path (R350): K and V of the operator, where it takes it. -/
def decodePath (v : OpEnv) : List Instr → Option (Nat × Nat)
  | .attn x :: _ =>
    let k := v.d x.k.toNat
    if (v.d x.q.toNat).ext 1 ≤ 128 ∧ k.footprint ≤ 1048575 ∧ (v.d x.v.toNat).footprint ≤ 1048575 then some (x.k.toNat, x.v.toNat) else none
  | _ => none

/-- Layout 0 with the strides of packed order. -/
def DescVal.packed0 (x : DescVal) : Bool := x.layout = 0 && x.strs = packStrides 0 x.fmt x.exts

/-- What ELTW's task of tile t stages of operand d, from CUR: its 65,536 elements (R323), or the whole operand where those of the output `o` are
none of it in packed order: DESIGN CHOICE, log 112. -/
def OpEnv.chunk (v : OpEnv) (o d t : Nat) : Nat × Nat :=
  let x := v.d d
  let b := 8192 * x.fmt.width
  if x.packed0 && x.exts = (v.d o).exts then (t * b, min b (x.footprint - t * b)) else (0, x.footprint)

/-- The operands that ELTW's routine stages, with their tokens (R449): the inputs in layout 0, w1 and w2, and the output, w3. One that no single job
can hold, as an operand too large or an output with gaps, is read and written in place: DESIGN CHOICE, log 112. -/
def OpEnv.staged (v : OpEnv) : List Instr → List (Nat × Nat)
  | [.eltw _ _ dst a b] =>
    let o := dst.toNat
    let x := v.d o
    let ins := (a.toNat, 1) :: match b with | .desc d => [(d.toNat, 2)] | _ => []
    (ins.filter fun (d, _) => (v.d d).layout = 0 && (v.chunk o d 0).2 ≤ 1048575) ++
      if x.packed0 && x.count * x.fmt.width % 8 = 0 then [(o, 3)] else []
  | _ => []

/-- Granules of a task's slot that stage the operands before token `tok`, of those listed. -/
def OpEnv.slotTo (v : OpEnv) (o tok : Nat) (l : List (Nat × Nat)) : Nat :=
  ((l.filter fun p => p.2 < tok).map fun p => ceilDiv (v.chunk o p.1 0).2 16384).sum

/-- Where tile t's slot holds the operand of token `tok`, in bytes of the region (R449). -/
def OpEnv.slotAt (v : OpEnv) (o tok t : Nat) (l : List (Nat × Nat)) : Nat := (t % 4 * v.slotTo o 4 l + v.slotTo o tok l) * 16384

/-- The list jobs of ELTW's task of tile t: one for each staged input, on its token (R449). -/
def OpEnv.stageJobs (v : OpEnv) (o t : Nat) (l : List (Nat × Nat)) : List (List Word × Nat) :=
  (l.filter fun p => p.2 < 3).map fun (d, tok) =>
    let (lo, n) := v.chunk o d t
    ([pack [(60, 4, tok - 1), (0, 48, lo)], pack [(60, 4, 2), (0, 48, v.slotAt o tok t l)], pack [(32, 20, n)], pack [(0, 3, tok)], 7], t % 4)

/-- The staging region of a gang's cluster (R325). -/
def State.stageOf (s : State) (g : Gang) : Option Region :=
  (g.oids.find? (fun o => 0xFFF00 ≤ o)).bind fun oid => (s.clu g.clu).regions.find? fun r => r.ctx == g.ctx && r.oid == oid

/-- What the task of tile t leaves in its slot (R350, R351): the weights of the last tile of values in A, those values in B, and the drained
accumulator. -/
def State.fillSlot (s : State) (g : Gang) (r : RdEnv) (x : AttnW) (t : Nat) : State :=
  let k := r.v.d x.k.toNat
  let ty := k.fmt
  let w := ty.width / 8
  let kt := tileK ty
  match (if k.ext 1 = 0 then none else s.stageOf g) with
  | none => s
  | some reg =>
    let sq := (r.v.d x.q.toNat).ext 1
    let j0 := (k.ext 1 - 1) / kt * kt
    let live (j : Nat) : Bool := j0 + j < k.ext 1
    let a := (rangeFrom 0 128).flatMap fun m =>
      let p := if m < sq then r.weights x m t else []
      (rangeFrom 0 kt).flatMap fun j => leBytes w (if live j then p.getD (j0 + j) 0 else 0)
    let b := (rangeFrom 0 kt).flatMap fun j => (rangeFrom 0 256).flatMap fun d =>
      leBytes w (if live j ∧ d < k.ext 0 then r.el x.v.toNat [d, j0 + j, r.kvHead x t] else 0)
    let z := (rangeFrom 0 128).flatMap fun m => (rangeFrom 0 256).flatMap fun d =>
      leBytes 4 (if m < sq ∧ d < k.ext 0 then r.attnAcc x d m t else 0)
    let at_ (n : Nat) : Nat := locSp g.clu ((reg.first + 14 * (t % 4) + n) * 16384)
    ((s.put (at_ 0) a).put (at_ 2) b).put (at_ 6) z

/-- The handle over a gang's staging region, with the rights to read and write it. -/
def State.stageHandle (s : State) (g : Gang) : Handle := s.overObj g.ctx ((g.oids.find? (fun o => 0xFFF00 ≤ o)).getD 0) 0xC0

/-- What a library task reads: the staged inputs of ELTW from its slot, all else from the operands (R449). -/
def State.libReads (s : State) (e : Nat) (g : Gang) (v : OpEnv) (l : List Instr) (t : Nat) : RdEnv :=
  let r := s.rdEnv e g.ctx v
  let st := v.staged l
  let o := outOf (l.headD .graphNop)
  { r with el := fun d xs => match st.find? fun p => p.1 = d && p.2 < 3 with
    | some (_, tok) => tensorElem (v.d d) (fun b => s.tensorByte e g.ctx (s.stageHandle g) (v.slotAt o tok t st + b - (v.chunk o d t).1)) xs
    | none => r.el d xs }

/-- The bytes of an ELTW tile's output in packed order. -/
def RdEnv.chunkBytes (r : RdEnv) (i : Instr) (t : Nat) : List Byte :=
  let o := outOf i
  let w := (r.v.d o).fmt.width
  let l := (tileCoords r.v i t).map fun xs => match r.value i o xs with | .val n => n | _ => 0
  if w = 4 then (chunks 2 l.length l).map fun p => .ofNat 8 (p.headD 0 % 16 + 16 * (p.getD 1 0 % 16)) else l.flatMap (leBytes (w / 8))

/-- ELTW's task stores its output chunk in its slot and issues the job that copies it to the output, on w3 (R449). It waits while no engine of
its gang has room. -/
def State.postOut (s : State) (e : Nat) (g : Gang) (r : RdEnv) (l : List Instr) (t : Nat) : State :=
  match s.pickEngine g 7 with
  | none => s
  | some p =>
    let i := l.headD .graphNop
    let o := outOf i
    let (lo, n) := r.v.chunk o o t
    let h := (s.stageHandle g).move (r.v.slotAt o 3 t (r.v.staged l))
    let m := (s.eng e).member
    let toH := (r.v.d o).handle
    match toH.check rW (toH.cur + lo) n with
    | some f => s.gangTrap g.gk m false (some e) 0 ⟨f, 0, some toH.oid, some o, none⟩
    | none =>
    let s := s.storeTensor g.ctx h 0 (r.chunkBytes i t)
    let s := s.modEng e fun x => x.modStr false fun y => y.setTok 3 (.ofNat 32 n)
    let (id, s) := s.fresh
    let j : CopyJob :=
      { id := id, gk := g.gk, member := m, sec := false, list := false, src := h, dst := toH.move lo, shp := pack [(32, 20, n)], flg := 3,
        tag := 0, ent := 7, phys := p, started := false, row := 0, skip := 0, resent := 0, buf := [], bufTags := [], retry := 0, retryAt := none, pc := 0,
        clk := s.clk.toNat, core := e % 4 }
    ({ s with copies := s.copies ++ [j] } : State).setMember g.gk m fun y => { y with phase := 1 }

/-- An operand that a library task reads or writes itself is not resident: the access is retried, and the sixteenth retry that still finds no page
abandons it (R396, R420). -/
def State.libPark (s : State) (e : Nat) (g : Gang) (d : Nat) (v : DescVal) (prio : Nat) (y : Option Nat) (gran : Nat) : State :=
  let m := (s.eng e).member
  let oid := v.handle.oid
  let trap (s : State) (x : TrapInfo) : State := s.gangTrap g.gk m false (some e) 0 x
  let (k, due) := match g.members[m]? with | some n => (n.retry, n.retryAt) | none => (0, 0)
  if k ≠ 0 && s.clk.toNat < due then s
  else if 16 ≤ k then trap (s.errRecord 1 0 5 0 (some (g.ctx, oid))) ⟨0x28, 1, some oid, some d, none⟩
  else
    let (t, f) := s.absentReq g.ctx oid prio y gran
    if f then trap t (match y with | some n => s.layerTrap g.ctx n (some oid) | none => ⟨0x2C, 0, some oid, some d, none⟩)
    else t.setMember g.gk m fun n => { n with retry := k + 1, retryAt := t.retryAt (k + 1) }

/-- The tiles of a group must not be mixed (R322): a later member's output meets an earlier member's input or output, or a later member's
input meets an earlier output without being that output. -/
def groupMixes (v : OpEnv) : List Instr → Bool
  | [] => false
  | i :: l =>
    let outs := v.allOuts i
    let meet (x y : List Nat) : Bool := x.any fun n => y.any fun m => operandsMeet (v.d n) (v.d m)
    (l.any fun j => meet (v.allOuts j) (v.allIns i ++ outs) || meet ((v.allIns j).filter fun n => !outs.contains n) outs) || groupMixes v l

/-- Run a group's members one by one over all their tiles (R322). -/
def State.libSerial (s : State) (e c : Nat) (v : OpEnv) : List (Instr × Nat) → State
  | [] => s
  | (i, sd) :: l =>
    let r := { s.rdEnv e c v with seed := sd }
    let cs := (rangeFrom 0 (tileCount v i)).flatMap (tileCoords v i)
    (s.writeCells e c v ((opCells v i cs true).map fun (d, xs) => (d, xs, r.value i d xs))).libSerial e c v l

/-- The same with ELIDE: only the last member's output is written. -/
def State.libLast (s : State) (e c : Nat) (v : OpEnv) (l : List (Instr × Nat)) : State :=
  match l.getLast? with
  | none => s
  | some (i, sd) =>
    let r := { (s.libSerial e c v l.dropLast).rdEnv e c v with seed := sd }
    let cs := (rangeFrom 0 (tileCount v i)).flatMap (tileCoords v i)
    s.writeCells e c v ((opCells v i cs true).map fun (d, xs) => (d, xs, r.value i d xs))

/-- Write what a task of a library gang computes: its tiles' cells. -/
def State.libWrite (s : State) (e : Nat) (g : Gang) (v : OpEnv) (r : RdEnv) (elide : Bool) (l : List Instr) (tiles : List Nat) : State :=
  let c := g.ctx
  let seeds := g.gargs.drop 2 |>.map BitVec.toNat
  let cells := tiles.flatMap fun t => libCells v r elide l seeds t
  let s := match l with
    | .attn x :: _ => if (decodePath v l).isSome then tiles.foldl (fun s t => s.fillSlot g r x t) s else s
    | _ => s
  match l with
  | [.copy dst src] =>
    let vd := v.d dst.toNat
    if vd.layout = 3 ∨ vd.layout = 4 then (if tiles.contains 0 then s.writeBytes c vd.handle (sparseBytes vd (r.el src.toNat)) else s)
    else s.writeCells e c v cells
  | _ =>
    if groupMixes v l then
      (if !tiles.contains 0 then s else if elide then s.libLast e c v (l.zip seeds) else s.libSerial e c v (l.zip seeds))
    else s.writeCells e c v cells

/-- The route of a comet to device d of the pod, with its operation entries: itself, or one hop over scale-up (R330, R344). The port is the
lowest that is up: DESIGN CHOICE, log 97. -/
def State.hopTo (s : State) (d op : Nat) : List Word :=
  let port := if d = s.dev.dev.toNat then 31 else ((rangeFrom 0 18).find? s.portUp).getD 0
  [pack [(27, 5, port), (16, 11, s.dev.pod.toNat), (6, 10, d)], 0, 0, 0, pack [(13, 3, op), (12, 1, 1)], 0]

/-- Post the comets of exchange k that tile t's task sends, of nt tiles (R323, R343, R344). -/
def State.postPhase (s : State) (g : Gang) (ranks : List Nat) (p : Phase) (k off nt t : Nat) : State :=
  let n := ranks.length
  let me := ranks.idxOf s.dev.dev.toNat
  ((p.sends n me).filter fun (_, _, o) => min o (nt - 1) = t).foldl (fun s (j, m, _) =>
    let bs := p.payload n j m
    let w0 := pack [(60, 4, 1), (56, 4, 1), (45, 3, p.efmt), (32, 6, bs.length / 256), (0, 32, off + p.slot n me + 8192 * m)]
    let w1 := pack [(32, 32, g.coll.getD k 0), (0, 16, me * p.comets n + m)]
    s.sendComet ⟨w0 :: w1 :: s.hopTo (ranks.getD j 0) p.op, bs⟩) s

/-- Exchange k of a gang's operator has ended on this rank: its entry is done, or expects nothing (R339, R347). -/
def State.phaseDone (s : State) (g : Gang) (n me k : Nat) (p : Phase) : Bool :=
  let cid := g.coll.getD k 0
  p.expects n me = 0 || ((s.entWord (cid % 4096) 0).getLsbD 62 && s.entCid (cid % 4096) == cid)

/-- The exchanges of a library task: it posts the comets of each in order, the next once it has acquired the record of the one before, and
goes on with `k` when the last has ended (R318, R343). -/
def State.exchange (s : State) (g : Gang) (m : Nat) (i : Instr) (r : RdEnv) (tiles : List Nat) (k : State) : State :=
  let ps := if g.coll.isEmpty then [] else r.phases i
  let ranks := r.v.ranks i
  let n := ranks.length
  let me := ranks.idxOf s.dev.dev.toNat
  let x := match g.members[m]? with | some y => y.phase | none => 0
  if x ≠ 0 && !(match ps[x - 1]? with | some p => s.phaseDone g n me (x - 1) p | none => true) then s
  else match ps[x]? with
    | none => k
    | some p =>
      (tiles.foldl (fun s t => s.postPhase g ranks p x (phaseAt ps n x) (tileCount r.v i) t) s).setMember g.gk m fun y => { y with phase := x + 1 }

/-- The operands that a library task reads and writes itself. -/
def OpEnv.ownOperands (v : OpEnv) (elide : Bool) (l : List Instr) : List (Nat × Bool) :=
  let st := v.staged l
  (libOperands v elide l).filter fun (d, w) => !st.any fun (k, tok) => k == d && w == (tok == 3)

/-- A library task's work: the accesses of its operands are checked and awaited, its exchanges run, then its tiles are written. ELTW's task writes
its chunk through a job of its own and ends once that has landed (R449). -/
def State.libTask (s : State) (e : Nat) (g : Gang) : State :=
  let x := s.eng e
  let c := g.ctx
  let v := s.gangEnv g
  let (elide, l) := libMembers g.lib
  let ops := v.ownOperands elide l
  let (tiles, phase) := match g.members[x.member]? with | some m => (m.tiles, m.phase) | none => ([], 0)
  let out := (v.staged l).any fun p => p.2 = 3
  let fault := ops.findSome? fun (d, w) => (s.operandFault c (some g.clu) (v.d d) (if w then rW else rR)).map fun f => (f, d)
  if out && phase ≠ 0 then s.endTask e
  else match fault with
  | some (f, d) => s.gangTrap g.gk x.member false (some e) 0 ⟨f, 0, some (v.d d).handle.oid, some d, none⟩
  | none => match ops.findSome? fun (d, _) => (s.operandAbsent c (v.d d)).map fun y => (y, d) with
    | some ((prio, y, gran), d) => s.libPark e g d (v.d d) prio y gran
    | none =>
      let r := s.libReads e g v l (tiles.headD 0)
      if out then s.postOut e g r l (tiles.headD 0) else
      let byteOf (i : Instr) : Nat → Nat := match i with | .matmul _ _ _ _ b => s.tensorByte e c (v.d b.toNat).handle | _ => fun _ => 0
      match (l.head?).bind fun i => tiles.findSome? (r.sparseFault (byteOf i) i) with
      | some n => s.gangTrap g.gk x.member false (some e) 0 (trapOf 0x25 n)
      | none =>
        if !(ops.all fun (d, w) => !w || s.operandQuiet c (v.d d)) then s
        else s.exchange g x.member (l.headD .graphNop) r tiles ((s.libWrite e g v r elide l tiles).endTask e)

/-- TASK_END (R15, R20): both streams have ended, the tokens read zero and every call has its reply; a task of the operator
library ends with its tiles written. -/
def execTaskEnd (e : Nat) (s : State) : Res :=
  .next (match (s.eng e).gang.bind s.gangOf with
    | none => s
    | some g => if !(s.eng e).taskOver then s else if g.lib.isEmpty then s.endTask e else s.libTask e g)

/-! ### The routine on a sequencer -/

/-- One instruction of a group with its words and PC. -/
structure OpMember where
  i : Instr
  words : List (BitVec 32)
  pc : Nat

/-- A trap of one member of a group, which names that member's opcode and PC (R322). -/
def State.memberTrap (s : State) (c : Nat) (m : OpMember) (x : TrapInfo) : State :=
  let q := s.fq
  let pc := (s.ctx c).bpc
  let s := s.modCtx c fun y => { y with bpc := m.pc }
  let s := if m.words = [] then s else s.modSeq q fun z => { z with words := m.words }
  (s.takeTrap x).modCtx c fun y => { y with bpc := pc }

/-- The record fields of a failed check. -/
def opInfo (v : OpEnv) (cause : Nat) (d : Option Nat) : TrapInfo :=
  ⟨cause, 0, d.bind fun k => if (v.d k).valid then some (v.d k).handle.oid else none, d, none⟩

/-- The seeds of a group's members. -/
def State.seedOf (s : State) (c : Nat) : Instr → Nat
  | .convert _ _ _ _ seed => ((s.val c seed) % 2 ^ 32).toNat
  | _ => 0

/-- The index object of an operator that an index-range check reads before any gang issues (R315, R316). -/
def indexOperand : Instr → Option Nat
  | .gather zero _ _ _ index => if zero then none else some index.toNat
  | .scatter _ skip _ _ index _ => if skip then none else some index.toNat
  | .routeDispatch _ _ e _ | .routeCombine _ _ e _ => some e.toNat
  | _ => none

/-- The lowest failing position of an index-range check. -/
def RdEnv.rangeFault (r : RdEnv) : Instr → Option Nat
  | .gather _ axis _ data index => r.badIndex index.toNat ((r.v.d data.toNat).ext axis.toNat)
  | .scatter _ _ axis dst index _ => r.badIndex index.toNat ((r.v.d dst.toNat).ext axis.toNat)
  | .routeDispatch y _ e _ | .routeCombine _ y e _ =>
    let v := r.v.d y.toNat
    r.badExpert e.toNat (v.ext 2 * (if v.skind = 2 then r.v.nrank v else 1))
  | _ => none

/-- What a dispatch on one device leaves in Y and CNT when pair p of its walk faults: both zeroed, then the pairs before p (R316). -/
def State.partWalk (s : State) (c : Nat) (v : OpEnv) (i : Instr) (p : Nat) : State :=
  match i with
  | .routeDispatch y x e cnt =>
    let e' := s.focus.eng
    let outs := [y.toNat, cnt.toNat]
    if v.ranks i ≠ [v.dev] || outs.any fun d => (s.operandFault c none (v.d d) rW).isSome || (s.operandAbsent c (v.d d)).isSome then s
    else
      let r := s.rdEnv e' c v
      let cells := outs.flatMap fun d => (packedCoords (v.d d).exts 0 (v.d d).count).map fun xs =>
        (d, xs, OutVal.val (r.dispatch y.toNat e.toNat cnt.toNat d 1 0 p (fun _ => r.el e.toNat) (fun _ => r.el x.toNat) xs))
      s.writeCells e' c v cells
  | _ => s

/-- The index check of an operator, made by its routine through the sequencer's own reads. -/
def State.indexCheck (s : State) (c : Nat) (v : OpEnv) (m : OpMember) (k : State) : State :=
  match indexOperand m.i with
  | none => k
  | some d =>
    let x := v.d d
    match s.operandFault c none x rR with
    | some f => s.memberTrap c m ⟨f, 0, some x.handle.oid, some d, none⟩
    | none => match s.operandAbsent c x with
      | some (prio, y, g) =>
        let (t, f) := s.absentReq c x.handle.oid prio y g
        if f then t.memberTrap c m (match y with | some n => s.layerTrap c n (some x.handle.oid) | none => ⟨0x2C, 0, some x.handle.oid, some d, none⟩)
        else t.gWait c (match y with | some n => .layer n | none => .page x.handle.oid g)
      | none => match (s.rdEnv s.focus.eng c v).rangeFault m.i with
        | some p => (s.partWalk c v m.i p).memberTrap c m ⟨0x4C, p % 65536, some x.handle.oid, some d, none⟩
        | none => k

/-- The operator issues its gangs as cohorts where it exchanges data between them (R324). -/
def cohortOp (v : OpEnv) : Instr → Bool
  | .fft _ _ _ _ | .allreduce _ | .reducescatter _ | .allgather _ | .alltoall _ | .broadcast _ => true
  | .reshard dst src => match lowerOf (v.d src.toNat) (v.d dst.toNat) with | some .copy | some .slice | none => false | _ => true
  | i => partialOut v i

/-- The largest task count among the gangs of nt tiles on the cluster at index ci of n (R350). -/
def maxTasks (nt n ci : Nat) : Nat :=
  let ng := ceilDiv nt 4
  if ci < ng - 1 then 4 else if (ng - 1) % n = ci then (if ng - 1 < n then nt - 4 * (ng - 1) else 4) else 0

/-- The granules of the staging region on the cluster at index ci of n: ATTN's decode path as R350 sizes it, ELTW four slots of what its tasks
stage (log 112), any other routine as the implementation does (R325). -/
def stageSize (v : OpEnv) (l : List Instr) (opc nt n ci : Nat) : Nat :=
  let tc := maxTasks nt n ci
  match decodePath v l with
  | some (dk, dv) => 14 * tc + ceilDiv (v.d dk).footprint 16384 + ceilDiv (v.d dv).footprint 16384
  | none => if v.staged l ≠ [] then tc * v.slotTo (outOf (l.headD .graphNop)) 4 (v.staged l) else Config.stageNeed opc tc (((l.flatMap fun i => v.allIns i ++ v.allOuts i).eraseDups).map fun d => (v.d d).footprint)

/-- Gangs that the routine under way has issued. -/
def State.ownGangs (s : State) (c : Nat) : Bool :=
  s.gangs.any fun g => g.ctx == c && !g.lib.isEmpty && g.sq == s.fq && g.bpc == (s.ctx c).bpc

/-- The staging region of cluster index ci holds `need` granules, or what happens instead (R325, R269, R86). -/
def State.staging (s : State) (c ci clu need : Nat) (k : State → State) : State :=
  let oid := 0xFFF00 + ci
  let r := (s.clu clu).regions.find? fun r => r.ctx == c && r.oid == oid
  if (match r with | some r => decide (need ≤ r.n) | none => false) then k s
  else if r.isSome && s.regionNamed c clu oid then s
  else
    let s := s.freeRegion c clu oid
    let x := s.clu clu
    if ralcBad s c clu need (.ofNat 64 oid) then s.takeTrap (trapOf 0x4E 0)
    else if s.quotaOf c < x.heldBy c + need then s.takeTrap (trapOf 0x4D 0)
    else match x.findRun need (s.granules clu) with
      | none =>
        if s.ownGangs c then s
        else s.takeTrap ⟨0x53, 1, some (s.fe.tdsc.toNat / 65536), some (s.fe.tdsc.toNat % 65536), none⟩
      | some g =>
        let dirty := (rangeFrom g need).filter (x.dirtyFor c)
        let s := s.grant c clu oid g need (.ofNat 64 oid)
        k (dirty.foldl (fun s d => (s.put (locSp clu (d * 16384)) (List.replicate 16384 0)).modClu clu fun y => { y with freed := tput 0 y.freed d 0 }) s)

/-- The opcode of the graph instruction that the sequencer in focus runs. -/
def State.opcNow (s : State) : Nat := match (s.seq s.fq).words with | w :: _ => w.toNat / 2 ^ 24 | [] => 0

/-- The gang of tiles 4g … of an operator on a cluster (R324). gargs holds the first tile, T_c of the decode path, then the
members' seeds. On ATTN's decode path two jobs copy K and V into the region (R350); ELTW's tasks have one for each staged input (R449). -/
def State.libGang (s : State) (c gk clu : Nat) (v : OpEnv) (lib : List Instr) (g nt tc : Nat) (cohort : Option (Nat × Nat)) (stage : List (Nat × Nat × Nat)) : Gang :=
  let (elide, l) := libMembers lib
  let ds := (l.flatMap fun i => v.allIns i ++ v.allOuts i).eraseDups
  let tiles := rangeFrom (4 * g) (min 4 (nt - 4 * g))
  let ci := (stage.find? fun r => r.2.1 = clu).map (·.1)
  let span (k d granule : Nat) : List (List Word × Nat) :=
    let n := (v.d d).footprint
    if n = 0 then [] else [([pack [(60, 4, k)], pack [(60, 4, 2), (0, 48, granule * 16384)], pack [(32, 20, n)], 0, 7], 0)]
  let (jobs, hargs) : List (List Word × Nat) × List Handle := match decodePath v l, ci with
    | some (dk, dv), some i =>
      (span 0 dk (14 * tc) ++ span 1 dv (14 * tc + ceilDiv (v.d dk).footprint 16384),
        [(v.d dk).handle, (v.d dv).handle, s.overObj c (0xFFF00 + i) 0x40])
    | none, some i => match l with
      | [.eltw _ _ o a b] => (tiles.flatMap fun t => v.stageJobs o.toNat t (v.staged l),
          [(v.d a.toNat).handle, match b with | .desc d => (v.d d.toNat).handle | _ => .null, s.overObj c (0xFFF00 + i) 0x40])
      | _ => ([], [])
    | _, none => ([], [])
  let local_ := ((libOperands v elide l).map fun p => (v.d p.1).handle.oid).filter fun o => match s.objEnt c o with
    | some x => x.space.val = 0 && x.clu = clu | none => false
  { gk := gk, ctx := c, clu := clu, st := if cohort.isSome then .pending else .listed, trapped := false, arrival := s.nextId, admitted := 0, code := .null, dem := 1,
    engs := [], wlp := false, cohort := cohort
    members := tiles.map fun t => { pep := 0, sep := none, tiles := [t], phase := 0, st := .waiting, sends := [], lent := 0, drain := none, barrier := none, held := [], claim := none, retry := 0, retryAt := 0 }
    jobs := jobs, gargs := [.ofNat 64 (4 * g), .ofNat 64 tc] ++ l.map fun i => .ofNat 64 (s.seedOf c i)
    hargs := hargs, oids := ((stage.filter fun r => r.2.1 = clu && r.2.2 ≠ 0).map fun r => 0xFFF00 + r.1) ++ local_.eraseDups, tix := 4 * g, bpc := (s.ctx c).bpc
    opc := s.opcNow, sq := s.fq, lib := lib, descs := ds.map fun d => (d, v.d d), coll := (s.seq s.fq).coll
    deadline := none, waiter := none, ackd := false }

/-- Issue gangs g … g + k − 1 with their scoreboard entries (R305, R324). -/
def State.issueLib (s : State) (c : Nat) (v : OpEnv) (lib : List Instr) (nt tc : Nat) (cohort : Option (Nat × Nat)) (stage : List (Nat × Nat × Nat))
    (clus : List Nat) (entries : List (Nat × Bool)) (g : Nat) : Nat → State
  | 0 => s
  | k + 1 =>
    let p := (s.ctx c).part.val
    let t := s.nextTag p (s.part p).tagCtr.toNat 65536
    let gk := p * 65536 + t
    let x := s.libGang c gk (clus.getD (g % clus.length) 0) v lib g nt tc cohort stage
    let s := ({ s with gangs := s.gangs ++ [x] } : State).modPart p fun y => { y with tagCtr := .ofNat 16 (t + 1) }
    let s := s.modCtx c fun y => { y with scb := y.scb ++ entries.map fun (o, w) => ScbEnt.mk o gk w }
    s.issueLib c v lib nt tc cohort stage clus entries (g + 1) k

/-- A task of another operator of the context has the staging region in use, which a stage of this one would overwrite: the routine waits
(DESIGN CHOICE, log 112). ATTN's tasks read nothing of theirs. -/
def State.stageBusy (s : State) (c : Nat) (v : OpEnv) (l : List Instr) : Bool :=
  s.gangs.any fun g => g.ctx == c && !g.lib.isEmpty && !g.jobs.isEmpty && (!(v.staged l).isEmpty ||
    ((decodePath v l).isSome && match g.lib with | [.eltw _ _ _ _ _] => true | _ => false))

/-- A listed job of a gang of these tiles fails the checks of R80, which GANG makes (R388). -/
def OpEnv.stageBad (v : OpEnv) (l : List Instr) (tiles : List Nat) : Bool :=
  let bad (d : Nat) (q : Nat × Nat) : Bool := q.2 ≠ 0 && ((v.d d).handle.check rR ((v.d d).handle.cur + q.1) q.2).isSome
  match decodePath v l with
  | some (dk, dv) => bad dk (0, (v.d dk).footprint) || bad dv (0, (v.d dv).footprint)
  | none => tiles.any fun t => (v.staged l).any fun (d, tok) => tok < 3 && bad d (v.chunk (outOf (l.headD .graphNop)) d t)

/-- Staging regions for a list of clusters, each with its index and need; a need of 0 asks for none. -/
def State.stageAll (s : State) (c : Nat) (k : State → State) : List (Nat × Nat × Nat) → State
  | [] => k s
  | (ci, clu, need) :: l => if need = 0 then s.stageAll c k l else s.staging c ci clu need fun s => s.stageAll c k l

/-- Arm entry k for an exchange (R334, R347): its duplicate map and record zeroed, its buffer at the value that adds nothing, then words 1 to 7,
then word 0. `pos` is the entry's place in the context's range. -/
def State.armPhase (s : State) (c k pos cid grp exp off : Nat) (fill : List Byte) : State :=
  let s := s.storeTensor c (s.overObj c mapOid 0) (8192 * pos) (List.replicate 8192 0)
  let s := s.storeTensor c (s.overObj c doneOid 0) (16 * pos) (List.replicate 16 0)
  let s := s.storeTensor c (s.overObj c rxOid 0) off fill
  let l := collLoc + 64 * k
  let s := s.put64 (l + 8) (pack [(0, 32, exp)])
  let s := s.putHandle (l + 16) (s.overObj c rxOid 0x10)
  let s := s.putHandle (l + 32) ((s.overObj c doneOid 0x40).move (16 * pos))
  let s := s.putHandle (l + 48) ((s.overObj c mapOid 0x40).move (8192 * pos))
  s.store l (leBytes 8 (pack [(63, 1, 1), (48, 12, grp), (0, 32, cid)]).toNat)

/-- The bytes with which a buffer adds nothing to an exchange's sum or comparison; an exact sum begins at zero (R54, R343). -/
def Phase.fill (p : Phase) (n : Nat) : List Byte :=
  let t : Option ElemType := match p.efmt with | 0 => some .f32 | 1 => some .i32 | 2 => some .f16 | 3 => some .bf16 | _ => none
  let op : RedOp := match p.op with | 0 => .add | 1 => .max | _ => .min
  if !p.reduces then []
  else match t with
    | some t => (List.replicate (p.pad n * 8 / t.width) (redIdentity op t)).flatMap (leBytes (t.width / 8))
    | none => List.replicate (p.pad n) 0

/-- Arm the entries of the exchanges, each with a CID of a new generation (free), and note them at the sequencer. -/
def State.armAll (s : State) (c grp n me : Nat) (ps : List Phase) : List (Nat × Nat) → State
  | [] => s
  | (k, q) :: l =>
    let (w, s) := s.draw
    let cid := (w.toNat % (2 ^ 20 - 1) + 1) * 4096 + k
    let s := match ps[q]? with
      | some p => s.armPhase c k ((s.entsOf c).idxOf k) cid grp (p.expects n me) (phaseAt ps n q) (p.fill n)
      | none => s
    (s.modSeq s.fq fun z => { z with coll := z.coll ++ [cid] }).armAll c grp n me ps l

/-- The routine arms the exchanges of its operator before its first gang (R334, R347) and goes on with `k`. It waits while another operator of
the context uses the receive buffer or too few entries are free; a range or an object that the context does not have fails its HMINT. -/
def State.armColl (s : State) (c : Nat) (i : Instr) (v : OpEnv) (k : State → State) : State :=
  let r := s.rdEnv s.focus.eng c v
  let ranks := v.ranks i
  let n := ranks.length
  let me := ranks.idxOf v.dev
  let ps := if ranks = [v.dev] ∨ n ≤ me then [] else r.phases i
  if ps.isEmpty || !(s.seq s.fq).coll.isEmpty then k s
  else match [collOid, rxOid, mapOid, doneOid].find? fun o => (s.objEnt c o).isNone with
    | some o => s.takeTrap ⟨0x4F, 0, some o, none, none⟩
    | none =>
      let free := (s.entsOf c).filter fun e => !s.entArmed e
      if free.length < ps.length || s.gangs.any (fun g => g.ctx == c && !g.coll.isEmpty) then s
      else
        let grp := (v.d ((((opnds i).ins ++ (opnds i).outs).find? fun d => (v.d d).skind ≠ 0).getD 0)).group
        k (s.armAll c grp n me ps ((free.take ps.length).zipIdx))

/-- The operator ends; exchanges that no gang of it has joined are disarmed. -/
def State.libEnd (s : State) (next : Nat) : State :=
  let ids := (s.seq s.fq).coll
  ((s.opEnd next).modSeq s.fq fun z => { z with coll := [] }).collDrop ids

/-- The routine of an operator or fused group (R303 to R305, R323, R324): `lib` is what its gangs run, `next` the PC after
it. A wait leaves the state as it is. -/
def State.runOp (s : State) (c : Nat) (ms : List OpMember) (lib : List Instr) (next : Nat) : State :=
  let v := s.opEnv c
  let (elide, l) := libMembers lib
  let bad := ms.findSome? fun m => (opBad v (s.ndesc c) (s.nattr c) m.i).map fun b => (m, b)
  let tile := (s.seq s.fq).tile
  match (if tile = 0 then bad else none) with
  | some (m, cause, d) => s.memberTrap c m (opInfo v cause d)
  | none =>
    let ops := libOperands v elide l
    let oid (d : Nat) : Nat := (v.d d).handle.oid
    let outs := ((ops.filter (·.2)).map fun p => oid p.1).eraseDups
    let ins := (((ops.filter fun p => !p.2).map fun p => oid p.1).eraseDups).filter fun o => !outs.contains o
    let ready := (ins.all fun o => s.scbClear c o true) && outs.all fun o => s.scbClear c o false
    let head := (l.head?).getD .graphNop
    let empty := (opnds ((l.getLast?).getD .graphNop)).outs.all fun d => (v.d d).footprint = 0
    let clus := cluList (s.ctx c).clset
    if tile = 0 && (!ready || s.stageBusy c v l) then s
    else
      let go : State :=
        if empty then s.opEnd next
        else match (ops.find? fun p => !(v.d p.1).tag) with
          | some (d, _) => s.takeTrap ⟨0x51, 7, some (oid d), some d, none⟩
          | none =>
            let nt := tileCount v head
            let ng := ceilDiv nt 4
            let g := tile / 4
            let n := clus.length
            if n = 0 then s.takeTrap (trapOf 0x55 0)
            else
              let k := if cohortOp v head then min n (ng - g) else 1
              let entries := ins.map (fun o => (o, false)) ++ outs.map fun o => (o, true)
              let on := (rangeFrom g k).map fun j => clus.getD (j % n) 0
              if on.any (fun u => 64 ≤ s.listedAt u) || 512 < (s.ctx c).scb.length + k * entries.length then s
              else
                let dk := match decodePath v l with | some (d, _) => d | none => (opnds head).ins.headD 0
                let s := s.modEng s.focus.eng fun e => { e with tix := .ofNat 32 (4 * g), tdsc := .ofNat 36 (oid dk * 65536 + dk) }
                let cis := ((rangeFrom g k).map (· % n)).eraseDups
                let sizes := cis.map fun ci => (ci, clus.getD ci 0, stageSize v l s.opcNow nt n ci)
                if v.stageBad l (rangeFrom (4 * g) (min 4 (nt - 4 * g))) then s.takeTrap (trapOf 0x51 8)
                else s.armColl c head v fun s => s.stageAll c (fun s =>
                  let (id, s) := s.fresh
                  let s := s.issueLib c v lib nt (maxTasks nt n (g % n)) (if k = 1 then none else some (id, k)) sizes clus entries g k
                  if ng ≤ g + k then s.libEnd next else s.modSeq s.fq fun z => { z with tile := 4 * (g + k) }) sizes
      if tile ≠ 0 then go
      else match ms with
        | m :: _ => s.indexCheck c v m go
        | [] => go

/-- A single operator with nw operand words. -/
def operator (i : Instr) (nw : Nat) (s : State) : Res :=
  graphRun (fun s c => s.runOp c [⟨i, [], (s.ctx c).bpc⟩] [i] ((s.ctx c).bpc + 1 + nw)) s

/-! ### The operators (R301) -/

/-- Decode n members of a group from the word at pc. -/
def State.fuseMembers (s : State) (c pc : Nat) : Nat → Option (List OpMember × Nat)
  | 0 => some ([], pc)
  | n + 1 =>
    let ws := s.codeWords c pc 16
    match decodeGraph ws with
    | .ok (i, rest) =>
      let k := ws.length - rest.length
      if !fuseHead i then none
      else match s.fuseMembers c (pc + k) n with
        | some (l, e) => some (⟨i, (ws.take k).map (BitVec.ofNat 32), pc⟩ :: l, e)
        | none => none
    | .error _ => none

/-- FUSE (R321, R322). -/
def execFuse (elide : Bool) (n : BitVec 16) (s : State) : Res :=
  graphRun (fun s c =>
    match s.fuseMembers c ((s.ctx c).bpc + 1) n.toNat with
    | none => s.gTrap 0x41
    | some (ms, next) =>
      let l := ms.map (·.i)
      if (s.seq s.fq).tile = 0 && !fuseOk (s.opEnv c) l then s.gTrap 0x41
      else s.runOp c ms (.fuse elide n :: l) next) s

def execCopy (dst src : Desc) (s : State) : Res := operator (.copy dst src) 2 s
def execConvert (rm : RMode) (sat : Bool) (dst src : Desc) (seed : GVal) (s : State) : Res := operator (.convert rm sat dst src seed) 3 s
def execPermute (dst src : Desc) (x : Attr) (s : State) : Res := operator (.permute dst src x) 3 s
def execMatmul (acc : Bool) (rm : RMode) (c a b : Desc) (s : State) : Res := operator (.matmul acc rm c a b) 3 s
def execAttn (x : AttnW) (s : State) : Res := operator (.attn x) (5 + x.mask.isSome.toNat) s
def execSoftmax (axis : BitVec 3) (dst src : Desc) (s : State) : Res := operator (.softmax axis dst src) 2 s
def execNorm (x : NormW) (s : State) : Res := operator (.norm x) (3 + x.gamma.isSome.toNat + x.beta.isSome.toNat) s
def execEltw (sat : Bool) (op : EltOp) (dst a : Desc) (b : EltB) (s : State) : Res :=
  operator (.eltw sat op dst a b) (match b with | .none => 2 | _ => 3) s
def execReduce (op : RedOp) (keep : Bool) (mask : BitVec 8) (dst src : Desc) (s : State) : Res := operator (.reduce op keep mask dst src) 2 s
def execGather (zero : Bool) (axis : BitVec 3) (dst data index : Desc) (s : State) : Res := operator (.gather zero axis dst data index) 3 s
def execScatter (mode : ScatMode) (skip : Bool) (axis : BitVec 3) (dst index update : Desc) (s : State) : Res :=
  operator (.scatter mode skip axis dst index update) 3 s
def execRouteDispatch (y x e cnt : Desc) (s : State) : Res := operator (.routeDispatch y x e cnt) 4 s
def execRouteCombine (x y e w : Desc) (s : State) : Res := operator (.routeCombine x y e w) 4 s
def execTopk (small : Bool) (k : BitVec 16) (values indices src : Desc) (s : State) : Res := operator (.topk small k values indices src) 3 s
def execFft (inv norm : Bool) (dst src : Desc) (s : State) : Res := operator (.fft inv norm dst src) 2 s
def execAllreduce (x : CollW) (s : State) : Res := operator (.allreduce x) 2 s
def execReducescatter (x : CollW) (s : State) : Res := operator (.reducescatter x) 2 s
def execAllgather (x : CollW) (s : State) : Res := operator (.allgather x) 2 s
def execAlltoall (x : CollW) (s : State) : Res := operator (.alltoall x) 2 s
def execBroadcast (x : CollW) (s : State) : Res := operator (.broadcast x) 2 s
def execReshard (dst src : Desc) (s : State) : Res := operator (.reshard dst src) 2 s

end Sys2Proof.Machine
end

