-- ==== Sys2Proof/Machine/Dispatch.lean ====
section
/-! DEFINITION. One arm per instruction: each calls its meaning. -/
namespace Sys2Proof.Machine

def exec (i : Instr) (s : State) : Host.Outcome State Fault Refusal :=
  match i with
  | .add x => Sys2Proof.Machine.execAdd x s
  | .sub x => Sys2Proof.Machine.execSub x s
  | .mul x => Sys2Proof.Machine.execMul x s
  | .mulh x => Sys2Proof.Machine.execMulh x s
  | .div x => Sys2Proof.Machine.execDiv x s
  | .rem x => Sys2Proof.Machine.execRem x s
  | .and x => Sys2Proof.Machine.execAnd x s
  | .or x => Sys2Proof.Machine.execOr x s
  | .xor x => Sys2Proof.Machine.execXor x s
  | .andn x => Sys2Proof.Machine.execAndn x s
  | .shl x => Sys2Proof.Machine.execShl x s
  | .shr x => Sys2Proof.Machine.execShr x s
  | .sar x => Sys2Proof.Machine.execSar x s
  | .clz x => Sys2Proof.Machine.execClz x s
  | .popc x => Sys2Proof.Machine.execPopc x s
  | .min x => Sys2Proof.Machine.execMin x s
  | .max x => Sys2Proof.Machine.execMax x s
  | .cmp x => Sys2Proof.Machine.execCmp x s
  | .sel x => Sys2Proof.Machine.execSel x s
  | .mov x => Sys2Proof.Machine.execMov x s
  | .bfx x => Sys2Proof.Machine.execBfx x s
  | .bfi x => Sys2Proof.Machine.execBfi x s
  | .br disp pr => Sys2Proof.Machine.execBr disp pr s
  | .brc x => Sys2Proof.Machine.execBrc x s
  | .jmp a pr => Sys2Proof.Machine.execJmp a pr s
  | .callRelative d disp pr => Sys2Proof.Machine.execCallRelative d disp pr s
  | .callAbsolute d a pr => Sys2Proof.Machine.execCallAbsolute d a pr s
  | .ret a pr => Sys2Proof.Machine.execRet a pr s
  | .loop a len => Sys2Proof.Machine.execLoop a len s
  | .loopp a depth len => Sys2Proof.Machine.execLoopp a depth len s
  | .lbrk pr => Sys2Proof.Machine.execLbrk pr s
  | .lend => Sys2Proof.Machine.execLend s
  | .pmaskFirst t d a => Sys2Proof.Machine.execPmaskFirst t d a s
  | .pmaskAnd x => Sys2Proof.Machine.execPmaskAnd x s
  | .pmaskOr x => Sys2Proof.Machine.execPmaskOr x s
  | .pmaskAndn x => Sys2Proof.Machine.execPmaskAndn x s
  | .pmaskXor x => Sys2Proof.Machine.execPmaskXor x s
  | .pmaskNot d a => Sys2Proof.Machine.execPmaskNot d a s
  | .pmaskIns d a k => Sys2Proof.Machine.execPmaskIns d a k s
  | .pmaskGet d a k => Sys2Proof.Machine.execPmaskGet d a k s
  | .slack n => Sys2Proof.Machine.execSlack n s
  | .send port a b c => Sys2Proof.Machine.execSend port a b c s
  | .recv d port => Sys2Proof.Machine.execRecv d port s
  | .trapi code pr => Sys2Proof.Machine.execTrapi code pr s
  | .csrr d csr pr => Sys2Proof.Machine.execCsrr d csr pr s
  | .csrw a csr pr => Sys2Proof.Machine.execCsrw a csr pr s
  | .hoff x => Sys2Proof.Machine.execHoff x s
  | .hnarRights x => Sys2Proof.Machine.execHnarRights x s
  | .hnarLow x => Sys2Proof.Machine.execHnarLow x s
  | .hnarHigh x => Sys2Proof.Machine.execHnarHigh x s
  | .hget f d a pr => Sys2Proof.Machine.execHget f d a pr s
  | .ld x => Sys2Proof.Machine.execLd x s
  | .st x => Sys2Proof.Machine.execSt x s
  | .ldh x => Sys2Proof.Machine.execLdh x s
  | .sth x => Sys2Proof.Machine.execSth x s
  | .vld x => Sys2Proof.Machine.execVld x s
  | .vst x => Sys2Proof.Machine.execVst x s
  | .vlds x => Sys2Proof.Machine.execVlds x s
  | .vsts x => Sys2Proof.Machine.execVsts x s
  | .vgth x => Sys2Proof.Machine.execVgth x s
  | .vsct x => Sys2Proof.Machine.execVsct x s
  | .atomAdd x => Sys2Proof.Machine.execAtomAdd x s
  | .atomMin x => Sys2Proof.Machine.execAtomMin x s
  | .atomMax x => Sys2Proof.Machine.execAtomMax x s
  | .atomAnd x => Sys2Proof.Machine.execAtomAnd x s
  | .atomOr x => Sys2Proof.Machine.execAtomOr x s
  | .atomXor x => Sys2Proof.Machine.execAtomXor x s
  | .atomXchg x => Sys2Proof.Machine.execAtomXchg x s
  | .atomCas x => Sys2Proof.Machine.execAtomCas x s
  | .fence mask scope pr => Sys2Proof.Machine.execFence mask scope pr s
  | .probe x => Sys2Proof.Machine.execProbe x s
  | .probeMissTarget x disp => Sys2Proof.Machine.execProbeMissTarget x disp s
  | .sbind x => Sys2Proof.Machine.execSbind x s
  | .sflush k unb tok => Sys2Proof.Machine.execSflush k unb tok s
  | .ldres x => Sys2Proof.Machine.execLdres x s
  | .ldresW x => Sys2Proof.Machine.execLdresW x s
  | .vadd x => Sys2Proof.Machine.execVadd x s
  | .vsub x => Sys2Proof.Machine.execVsub x s
  | .vmul x => Sys2Proof.Machine.execVmul x s
  | .vfma x => Sys2Proof.Machine.execVfma x s
  | .vfms x => Sys2Proof.Machine.execVfms x s
  | .vmin x => Sys2Proof.Machine.execVmin x s
  | .vmax x => Sys2Proof.Machine.execVmax x s
  | .vabs x => Sys2Proof.Machine.execVabs x s
  | .vneg x => Sys2Proof.Machine.execVneg x s
  | .vand x => Sys2Proof.Machine.execVand x s
  | .vor x => Sys2Proof.Machine.execVor x s
  | .vxor x => Sys2Proof.Machine.execVxor x s
  | .vshl x => Sys2Proof.Machine.execVshl x s
  | .vshr x => Sys2Proof.Machine.execVshr x s
  | .vsar x => Sys2Proof.Machine.execVsar x s
  | .vcmp x => Sys2Proof.Machine.execVcmp x s
  | .vsel x => Sys2Proof.Machine.execVsel x s
  | .vmov x => Sys2Proof.Machine.execVmov x s
  | .vbcast x => Sys2Proof.Machine.execVbcast x s
  | .vext x => Sys2Proof.Machine.execVext x s
  | .vins x => Sys2Proof.Machine.execVins x s
  | .vcvt x => Sys2Proof.Machine.execVcvt x s
  | .vrint x => Sys2Proof.Machine.execVrint x s
  | .vdot x => Sys2Proof.Machine.execVdot x s
  | .vclmul x => Sys2Proof.Machine.execVclmul x s
  | .vrcp x => Sys2Proof.Machine.execVrcp x s
  | .vrsq x => Sys2Proof.Machine.execVrsq x s
  | .vexp2 x => Sys2Proof.Machine.execVexp2 x s
  | .vlog2 x => Sys2Proof.Machine.execVlog2 x s
  | .vtanh x => Sys2Proof.Machine.execVtanh x s
  | .vsigm x => Sys2Proof.Machine.execVsigm x s
  | .vred x => Sys2Proof.Machine.execVred x s
  | .vscan x => Sys2Proof.Machine.execVscan x s
  | .vcmpr x => Sys2Proof.Machine.execVcmpr x s
  | .vexpd x => Sys2Proof.Machine.execVexpd x s
  | .vperm x => Sys2Proof.Machine.execVperm x s
  | .vshuf x => Sys2Proof.Machine.execVshuf x s
  | .vdxp x => Sys2Proof.Machine.execVdxp x s
  | .vdxpScale x => Sys2Proof.Machine.execVdxpScale x s
  | .vdxu x => Sys2Proof.Machine.execVdxu x s
  | .vpcnt x => Sys2Proof.Machine.execVpcnt x s
  | .mma x => Sys2Proof.Machine.execMma x s
  | .mmas x => Sys2Proof.Machine.execMmas x s
  | .sparseMask e => Sys2Proof.Machine.execSparseMask e s
  | .mmdx x => Sys2Proof.Machine.execMmdx x s
  | .planeSetLands e ps => Sys2Proof.Machine.execPlaneSetLands e ps s
  | .msca x => Sys2Proof.Machine.execMsca x s
  | .mzero d pr => Sys2Proof.Machine.execMzero d pr s
  | .mdrain x => Sys2Proof.Machine.execMdrain x s
  | .longDrainRowPerforms e => Sys2Proof.Machine.execLongDrainRowPerforms e s
  | .mldacc x => Sys2Proof.Machine.execMldacc x s
  | .mstacc x => Sys2Proof.Machine.execMstacc x s
  | .mstat d acc clr pr => Sys2Proof.Machine.execMstat d acc clr pr s
  | .xtrn x => Sys2Proof.Machine.execXtrn x s
  | .xprm x => Sys2Proof.Machine.execXprm x s
  | .permuteJobLands e => Sys2Proof.Machine.execPermuteJobLands e s
  | .rowz x => Sys2Proof.Machine.execRowz x s
  | .rowcp x => Sys2Proof.Machine.execRowcp x s
  | .rowxf x => Sys2Proof.Machine.execRowxf x s
  | .badd x => Sys2Proof.Machine.execBadd x s
  | .bmax x => Sys2Proof.Machine.execBmax x s
  | .bmin x => Sys2Proof.Machine.execBmin x s
  | .baxpy x => Sys2Proof.Machine.execBaxpy x s
  | .bcnt x => Sys2Proof.Machine.execBcnt x s
  | .bankCommandPerforms id => Sys2Proof.Machine.execBankCommandPerforms id s
  | .xbfen x => Sys2Proof.Machine.execXbfen x s
  | .xbfenComplete id => Sys2Proof.Machine.execXbfenComplete id s
  | .xbar n => Sys2Proof.Machine.execXbar n s
  | .barrierComplete g => Sys2Proof.Machine.execBarrierComplete g s
  | .xevt a b pr => Sys2Proof.Machine.execXevt a b pr s
  | .xevpPoll x => Sys2Proof.Machine.execXevpPoll x s
  | .xevpWait x => Sys2Proof.Machine.execXevpWait x s
  | .xtokSet tok a pr => Sys2Proof.Machine.execXtokSet tok a pr s
  | .xtokAdd tok a pr => Sys2Proof.Machine.execXtokAdd tok a pr s
  | .xcway n a tok pr => Sys2Proof.Machine.execXcway n a tok pr s
  | .xinv x => Sys2Proof.Machine.execXinv x s
  | .xwb x => Sys2Proof.Machine.execXwb x s
  | .xpref x => Sys2Proof.Machine.execXpref x s
  | .xcomet x => Sys2Proof.Machine.execXcomet x s
  | .qdld d a k tok pr => Sys2Proof.Machine.execQdld d a k tok pr s
  | .qdldHandle d a k tok pr => Sys2Proof.Machine.execQdldHandle d a k tok pr s
  | .qdst a b k pr => Sys2Proof.Machine.execQdst a b k pr s
  | .qdstHandle a h k pr => Sys2Proof.Machine.execQdstHandle a h k pr s
  | .qdimRd d z pr => Sys2Proof.Machine.execQdimRd d z pr s
  | .qdimTiles d z b pr => Sys2Proof.Machine.execQdimTiles d z b pr s
  | .qdimWr z a pr => Sys2Proof.Machine.execQdimWr z a pr s
  | .ralc d a b clu tok pr => Sys2Proof.Machine.execRalc d a b clu tok pr s
  | .rfre a clu tok pr => Sys2Proof.Machine.execRfre a clu tok pr s
  | .gang cls d h b tok pr => Sys2Proof.Machine.execGang cls d h b tok pr s
  | .gangListed id => Sys2Proof.Machine.execGangListed id s
  | .hscbReader a b pr => Sys2Proof.Machine.execHscbReader a b pr s
  | .hscbWriter a b pr => Sys2Proof.Machine.execHscbWriter a b pr s
  | .hwaitRd a tok pr => Sys2Proof.Machine.execHwaitRd a tok pr s
  | .hwaitWr a tok pr => Sys2Proof.Machine.execHwaitWr a tok pr s
  | .hwaitComplete id => Sys2Proof.Machine.execHwaitComplete id s
  | .bcnx d k tok pr => Sys2Proof.Machine.execBcnx d k tok pr s
  | .bcnxJmp a pr => Sys2Proof.Machine.execBcnxJmp a pr s
  | .utrap detail a b c pr => Sys2Proof.Machine.execUtrap detail a b c pr s
  | .qyldEnd pr => Sys2Proof.Machine.execQyldEnd pr s
  | .qyldYield pr => Sys2Proof.Machine.execQyldYield pr s
  | .qyldRepeat pr => Sys2Proof.Machine.execQyldRepeat pr s
  | .hmint d a tok pr => Sys2Proof.Machine.execHmint d a tok pr s
  | .otinv a tok pr => Sys2Proof.Machine.execOtinv a tok pr s
  | .qctxKeep => Sys2Proof.Machine.execQctxKeep s
  | .qctxDrop => Sys2Proof.Machine.execQctxDrop s
  | .graphNop => Sys2Proof.Machine.execGraphNop s
  | .halt e => Sys2Proof.Machine.execHalt e s
  | .graphJmp d => Sys2Proof.Machine.execGraphJmp d s
  | .jif c d a b => Sys2Proof.Machine.execJif c d a b s
  | .loopb skip n idx => Sys2Proof.Machine.execLoopb skip n idx s
  | .loope => Sys2Proof.Machine.execLoope s
  | .callg d => Sys2Proof.Machine.execCallg d s
  | .retg => Sys2Proof.Machine.execRetg s
  | .yield => Sys2Proof.Machine.execYield s
  | .signal w n => Sys2Proof.Machine.execSignal w n s
  | .waite w n => Sys2Proof.Machine.execWaite w n s
  | .shld z d k => Sys2Proof.Machine.execShld z d k s
  | .shop op z a b => Sys2Proof.Machine.execShop op z a b s
  | .shrd f z d j => Sys2Proof.Machine.execShrd f z d j s
  | .tdef d x => Sys2Proof.Machine.execTdef d x s
  | .tview dst src offs => Sys2Proof.Machine.execTview dst src offs s
  | .tsetd pack d es => Sys2Proof.Machine.execTsetd pack d es s
  | .talloc tier d => Sys2Proof.Machine.execTalloc tier d s
  | .tfree d => Sys2Proof.Machine.execTfree d s
  | .tpin pin d p u => Sys2Proof.Machine.execTpin pin d p u s
  | .tres wait z n => Sys2Proof.Machine.execTres wait z n s
  | .fuse elide n => Sys2Proof.Machine.execFuse elide n s
  | .copy dst src => Sys2Proof.Machine.execCopy dst src s
  | .convert rm sat dst src seed => Sys2Proof.Machine.execConvert rm sat dst src seed s
  | .permute dst src x => Sys2Proof.Machine.execPermute dst src x s
  | .matmul acc rm c a b => Sys2Proof.Machine.execMatmul acc rm c a b s
  | .attn x => Sys2Proof.Machine.execAttn x s
  | .softmax axis dst src => Sys2Proof.Machine.execSoftmax axis dst src s
  | .norm x => Sys2Proof.Machine.execNorm x s
  | .eltw sat op dst a b => Sys2Proof.Machine.execEltw sat op dst a b s
  | .reduce op keep mask dst src => Sys2Proof.Machine.execReduce op keep mask dst src s
  | .gather zero axis dst data index => Sys2Proof.Machine.execGather zero axis dst data index s
  | .scatter mode skip axis dst index update => Sys2Proof.Machine.execScatter mode skip axis dst index update s
  | .routeDispatch y x e cnt => Sys2Proof.Machine.execRouteDispatch y x e cnt s
  | .routeCombine x y e w => Sys2Proof.Machine.execRouteCombine x y e w s
  | .topk small k values indices src => Sys2Proof.Machine.execTopk small k values indices src s
  | .fft inv norm dst src => Sys2Proof.Machine.execFft inv norm dst src s
  | .allreduce x => Sys2Proof.Machine.execAllreduce x s
  | .reducescatter x => Sys2Proof.Machine.execReducescatter x s
  | .allgather x => Sys2Proof.Machine.execAllgather x s
  | .alltoall x => Sys2Proof.Machine.execAlltoall x s
  | .broadcast x => Sys2Proof.Machine.execBroadcast x s
  | .reshard dst src => Sys2Proof.Machine.execReshard dst src s
  | .resultCommit e sec => Sys2Proof.Machine.execResultCommit e sec s
  | .tokenResultLands id ph => Sys2Proof.Machine.execTokenResultLands id ph s
  | .writeVisible id dev => Sys2Proof.Machine.execWriteVisible id dev s
  | .streamFetch e k => Sys2Proof.Machine.execStreamFetch e k s
  | .sflushComplete e k => Sys2Proof.Machine.execSflushComplete e k s
  | .fillComplete clu k => Sys2Proof.Machine.execFillComplete clu k s
  | .cqgo cls x => Sys2Proof.Machine.execCqgo cls x s
  | .copyJobStart id => Sys2Proof.Machine.execCopyJobStart id s
  | .copyRowLands id n => Sys2Proof.Machine.execCopyRowLands id n s
  | .serviceRequestTaken ctx port => Sys2Proof.Machine.execServiceRequestTaken ctx port s
  | .serviceReply g member sec port v => Sys2Proof.Machine.execServiceReply g member sec port v s
  | .taskEnd e => Sys2Proof.Machine.execTaskEnd e s
  | .gangAdmission g => Sys2Proof.Machine.execGangAdmission g s
  | .cohortAdmission g => Sys2Proof.Machine.execCohortAdmission g s
  | .gangRetire g => Sys2Proof.Machine.execGangRetire g s
  | .preemptionRequest g => Sys2Proof.Machine.execPreemptionRequest g s
  | .taskSave e => Sys2Proof.Machine.execTaskSave e s
  | .preemptionOverdue g => Sys2Proof.Machine.execPreemptionOverdue g s
  | .gangRestore g => Sys2Proof.Machine.execGangRestore g s
  | .taskPark e => Sys2Proof.Machine.execTaskPark e s
  | .parkedAccessPerforms id => Sys2Proof.Machine.execParkedAccessPerforms id s
  | .parkedTaskRestore g member => Sys2Proof.Machine.execParkedTaskRestore g member s
  | .contextDispatch q => Sys2Proof.Machine.execContextDispatch q s
  | .contextSwitch q => Sys2Proof.Machine.execContextSwitch q s
  | .contextWake c => Sys2Proof.Machine.execContextWake c s
  | .contextStopped c => Sys2Proof.Machine.execContextStopped c s
  | .cometPost id => Sys2Proof.Machine.execCometPost id s
  | .cometArrival c => Sys2Proof.Machine.execCometArrival c s
  | .switchMulticast k => Sys2Proof.Machine.execSwitchMulticast k s
  | .collectiveComplete k => Sys2Proof.Machine.execCollectiveComplete k s
  | .collectiveTimeout k => Sys2Proof.Machine.execCollectiveTimeout k s
  | .slotRelease plane slot => Sys2Proof.Machine.execSlotRelease plane slot s
  | .scrub clu granule => Sys2Proof.Machine.execScrub clu granule s
  | .l2Prefetcher clu => Sys2Proof.Machine.execL2Prefetcher clu s
  | .remoteDecay p => Sys2Proof.Machine.execRemoteDecay p s
  | .otsync p ctx => Sys2Proof.Machine.execOtsync p ctx s
  | .fetch p => Sys2Proof.Machine.execFetch p s
  | .evict p => Sys2Proof.Machine.execEvict p s
  | .move p => Sys2Proof.Machine.execMove p s
  | .demandFetch p => Sys2Proof.Machine.execDemandFetch p s
  | .migrationLineCopy p => Sys2Proof.Machine.execMigrationLineCopy p s
  | .waitHintRetry id => Sys2Proof.Machine.execWaitHintRetry id s
  | .yoYoRetry id => Sys2Proof.Machine.execYoYoRetry id s
  | .trapRecordWrite p => Sys2Proof.Machine.execTrapRecordWrite p s
  | .errorDetected x => Sys2Proof.Machine.execErrorDetected x s
  | .patrol x => Sys2Proof.Machine.execPatrol x s
  | .pageRetirement p fg => Sys2Proof.Machine.execPageRetirement p fg s
  | .serviceThreadWake t => Sys2Proof.Machine.execServiceThreadWake t s
  | .submit q dmwr rec => Sys2Proof.Machine.execSubmit q dmwr rec s
  | .go q => Sys2Proof.Machine.execGo q s
  | .qresetSkip q => Sys2Proof.Machine.execQresetSkip q s
  | .qresetDiscard q => Sys2Proof.Machine.execQresetDiscard q s
  | .ncons q v => Sys2Proof.Machine.execNcons q v s
  | .launch q => Sys2Proof.Machine.execLaunch q s
  | .feed q => Sys2Proof.Machine.execFeed q s
  | .signalRecord q => Sys2Proof.Machine.execSignalRecord q s
  | .cancel q => Sys2Proof.Machine.execCancel q s
  | .ctximg c v => Sys2Proof.Machine.execCtximg c v s
  | .partcfg m v => Sys2Proof.Machine.execPartcfg m v s
  | .privilegedRegisterWrite m addr v => Sys2Proof.Machine.execPrivilegedRegisterWrite m addr v s
  | .microcodePatch p x => Sys2Proof.Machine.execMicrocodePatch p x s
  | .patchAdoption q => Sys2Proof.Machine.execPatchAdoption q s
  | .xopRegister p opc nwmask image => Sys2Proof.Machine.execXopRegister p opc nwmask image s
  | .inboundRequest p op => Sys2Proof.Machine.execInboundRequest p op s
  | .completionTimeout id => Sys2Proof.Machine.execCompletionTimeout id s
  | .replayLimit k => Sys2Proof.Machine.execReplayLimit k s
  | .trainEnd k r => Sys2Proof.Machine.execTrainEnd k r s
  | .connectionFailure e => Sys2Proof.Machine.execConnectionFailure e s
  | .mainSideReset => Sys2Proof.Machine.execMainSideReset s
  | .bootStage2 => Sys2Proof.Machine.execBootStage2 s
  | .bootStage3 => Sys2Proof.Machine.execBootStage3 s
  | .bootStage4 => Sys2Proof.Machine.execBootStage4 s
  | .powerLoss => Sys2Proof.Machine.execPowerLoss s
  | .requestUpdate => Sys2Proof.Machine.execRequestUpdate s
  | .firmwareData off bs => Sys2Proof.Machine.execFirmwareData off bs s
  | .transferComplete => Sys2Proof.Machine.execTransferComplete s
  | .verifyComplete => Sys2Proof.Machine.execVerifyComplete s
  | .applyComplete => Sys2Proof.Machine.execApplyComplete s
  | .activateFirmware raise => Sys2Proof.Machine.execActivateFirmware raise s
  | .wyrst m v => Sys2Proof.Machine.execWyrst m v s
  | .spdmRequest index => Sys2Proof.Machine.execSpdmRequest index s
  | .getSensorReading x => Sys2Proof.Machine.execGetSensorReading x s
  | .imageKeyInstall k key => Sys2Proof.Machine.execImageKeyInstall k key s
  | .controlCoreAccess hart addr op => Sys2Proof.Machine.execControlCoreAccess hart addr op s
  | .pcieLinkChange speed width flit => Sys2Proof.Machine.execPcieLinkChange speed width flit s
  | .ethernetLinkChange e up => Sys2Proof.Machine.execEthernetLinkChange e up s
  | .cacheWritebackComplete id => Sys2Proof.Machine.execCacheWritebackComplete id s
  | .wayLendComplete id => Sys2Proof.Machine.execWayLendComplete id s
  | .debugFrameWrite clu frame off bs => Sys2Proof.Machine.execDebugFrameWrite clu frame off bs s
  | .lifeEstimateUpdate months => Sys2Proof.Machine.execLifeEstimateUpdate months s

end Sys2Proof.Machine
end

