-- ==== Sys2Proof/Machine/Issue.lean ====
section
/-!
DEFINITION. Issuing: fetch of bundles and graph words, the checks before a bundle issues, its slots in position order,
and the move of the agenda.
-/
namespace Sys2Proof.Machine

/-! ### Checks before issue -/

/-- Stage k is active: k − 1 ≤ j ≤ n + k − 2 with j = li0 and n + d − 1 = j + lc (R146). -/
def Stream.stageOn (x : Stream) (k : Nat) : Bool :=
  k = 0 || match x.loops with
    | e :: _ => decide (k - 1 ≤ e.idx.toNat ∧ e.depth.toNat + 1 ≤ e.rem.toNat + k)
    | [] => false

/-- The bundle at the stream's PC takes the loop-structure trap (R162 to R164). -/
def State.loopFault (s : State) (b : Bundle) : Bool :=
  let x := s.fs
  let atEnd := match x.loops with | e :: _ => e.stop == x.pc | [] => false
  b.lend != atEnd || b.slots.any fun (p, i) => x.stageOn (b.tags.getD p 0) && match i with
    | .loop _ len => loopRefused x len.toNat
    | .loopp _ _ len => loopRefused x len.toNat
    | .lbrk pr => s.enabled pr && x.loops.isEmpty
    | _ => false

/-- The tokens named by WAITM read zero, and every buffer entry of the stream would stay within its slack (R142, R143). -/
def Stream.mayIssue (x : Stream) (waitm : Nat) : Bool :=
  ((rangeFrom 0 8).all fun k => waitm / 2 ^ k % 2 = 0 || x.tok k = 0) &&
    x.lags.all fun l => x.cycle - l.born ≤ x.slack.toNat

/-- The positions that the primary stream occupies in the bundle that it offers in this clk, the one it has issued in it or the one that
stalls at its PC (R144); none where that bundle has not SEC set. -/
def State.offered (s : State) (e : Nat) : Option (BitVec 7) :=
  let x := (s.eng e).prim
  if x.lastClk = some s.clk.toNat then x.offer
  else if x.ended then some 0
  else match s.fetchBundle e x.pc.toNat with
    | .ok ws => match decodeBundle .prim x.depth ws with
      | .ok b => if b.sec then some (.ofNat 7 ((b.used.map fun p => 2 ^ p).sum)) else none
      | .error _ => none
    | _ => none

/-! ### One bundle -/

/-- Run the slots of a bundle in ascending position, skipping those whose stage is inactive, up to the first that stalls. The first that
traps leaves its trap, which stands only where no later slot stalls: a bundle of which a slot cannot issue waits whole and is not at issue
(R127, R146, R176, R246, R417). -/
def runSlots (tags : List Nat) : List (Nat × Instr) → State → Host.Outcome State Fault Refusal
  | [], s => .next s
  | (p, i) :: l, s =>
    if s.fs.stageOn (tags.getD p 0) then
      match exec i { s with pos := p } with
      | .next t => match t.slot with
        | .ok => runSlots tags l t
        | .trap _ => match runSlots tags l s with
          | .next u => match u.slot with
            | .stall | .wait _ _ _ _ _ => .next u
            | _ => .next t
          | .fault r => .fault r
          | .refused r => .refused r
        | _ => .next t
      | .fault r => .fault r
      | .refused r => .refused r
    else runSlots tags l s

/-- The entries of the stream transfer units' buffer depart in order, up to the first that `ok` refuses (R143). -/
def departStrm (ok : LagEnt → Bool) : List LagEnt → List LagEnt
  | [] => []
  | l :: ls => match l.unit with
    | .engine => l :: departStrm ok ls
    | .strm _ => if ok l then departStrm ok ls else l :: ls

/-- The unit of a stream starts what it can: an SFLUSH at once, an SBIND when what its class must follow is settled (R97, R143). -/
def State.lagSettle (s : State) : State :=
  let ok (l : LagEnt) : Bool := match l.unit with
    | .strm (some cls) => s.unitMay s.focus.eng s.focus.sec l.id cls []
    | _ => true
  s.modFs fun x => { x with lags := departStrm ok x.lags }

/-- A bundle begins: due results commit, a matrix window that has passed closes, and the following PC and loop stack are latched. -/
def State.beginBundle (s : State) : State :=
  let c := s.commitDue s.focus.eng s.focus.sec
  let c := (if s.focus.sec then c else c.closeDue s.focus.eng).lagSettle
  ({ c with base := c.nextId, win := c.fe.chanFree } : State).modFs fun x =>
    { x with npc := x.pc + 64, nended := x.ended, nloops := x.loops, nslack := x.slack }

/-- A bundle has issued (R138, R139, R161 to R165): PC, loop stack and slack move on, the queues keep their depth, the
issue cycle advances; a stream that has ended commits everything. CSR writes stand from the next clk (R171). -/
def State.endBundle (s : State) (b : Bundle) : State :=
  let e := s.focus.eng
  let sec := s.focus.sec
  let s := s.bindNew
  let s := s.modFe fun y => { y with vq := y.vq.take 16, vresv := 0 }
  let s := s.modFs fun x =>
    { x with
      pc := x.npc, ended := x.nended, loops := x.nloops, slack := x.nslack, sq := x.sq.take (if sec then 8 else 16), resv := 0,
      cycle := x.cycle + 1, lastClk := some s.clk.toNat
      offer := if b.sec then some (.ofNat 7 ((b.used.map fun p => 2 ^ p).sum)) else none }
  if s.fs.ended then s.commitAll e sec else s

/-- The lowest hazard code of a bundle whose M slot takes hazard 7: code 6 where IB is set and the other plane set is full (R246). -/
def hazardDetail (s : State) (b : Bundle) (x : TrapInfo) : TrapInfo :=
  let other := b.slots.any fun (_, i) => match i with | .msca y => (s.fe.planeSet !y.ps).isSome | _ => false
  if x.cause = 0x15 ∧ x.detail = 7 ∧ b.ib ∧ other then { x with detail := 6 } else x

/-- Issue the bundle whose words were fetched (R127 to R147, R417). A bundle that stalls or traps leaves no effect. -/
def State.issueWords (s : State) (ws : List Nat) : Host.Outcome State Fault Refusal :=
  match decodeBundle s.kind s.fs.depth ws with
  | .error n => .next (s.takeTrap (trapOf 0x01 n))
  | .ok b =>
    let t := s.beginBundle
    if t.loopFault b then .next (s.takeTrap (trapOf 0x09 0))
    else if !t.fs.mayIssue b.waitm then .next s.stall
    else match runSlots b.tags b.slots t with
      | .fault r => .fault r
      | .refused r => .refused r
      | .next t => match (if b.lend && t.slot = .ok then exec .lend t else .next t) with
        | .fault r => .fault r
        | .refused r => .refused r
        | .next t => match t.slot with
          | .stall => .next s.stall
          | .wait c oid prio y g => .next (s.waitPage c oid prio y g)
          | .trap x => .next (s.takeTrap (hazardDetail s b x))
          | .ok =>
            if b.ib && !isSeq s.focus.eng && (t.fe.ps0.isSome || t.fe.ps1.isSome) then .next (s.takeTrap (trapOf 0x15 6))
            else
              let t := t.endBundle b
              .next (if b.ib && t.fe.saveReq && t.fe.stat = .running then t.modFe fun x => { x with stat := .saving } else t)

/-- A restored core runs from its first clk on (R362, R392). -/
def State.restored (s : State) : State :=
  if s.fe.stat = .restoring then s.modFe fun x => { x with stat := .running, frame := 0 } else s

/-- Issue the stream in focus of a compute core (R14, R21, R144): nothing where the stream has no bundle to issue now. The primary
stream comes first in a clk, and waits for the implicit SFLUSH of a rebinding (R85). -/
def State.issueCore (s0 : State) : Host.Outcome State Fault Refusal :=
  let s := s0.restored
  let x := s.fe
  let y := s.fs
  let idle := x.gang.isNone || x.stopped || x.stat != .running || x.parkReq || y.ended || y.lastClk == some s.clk.toNat ||
    (if s.focus.sec then !x.hasSec
     else s.atBarrier || x.drain.isSome || (x.hasSec && x.sec.lastClk == some s.clk.toNat) || x.flushes.any fun f => f.rebind.isSome) ||
    (match x.sparse with | some f => f.by_ ≤ s.clk.toNat | none => false)
  if idle then .next s
  else match s.fetchBundle s.focus.eng y.pc.toNat with
    | .fault => .next (s.takeTrap (trapOf 0x03 0))
    | .wait c oid prio l g => .next (s.waitPage c oid prio l g)
    | .ok ws =>
      if !s.focus.sec then s.issueWords ws
      else match s.offered s.focus.eng with
        | none => .next s.stall
        | some m => match decodeBundle .sec y.depth ws with
          | .ok b => if b.used.all fun p => !m.getLsbD p then s.issueWords ws else .next s.stall
          | .error _ => s.issueWords ws

/-! ### Graph code (R277, R280, R281, R326, R328) -/

/-- Begin a routine of the microcode store for the current instruction (R277, R326, R328). -/
def State.enterMicro (s : State) (q entry : Nat) : State :=
  let s := s.modSeq q fun z => { z with routine := .micro }
  s.modFe fun x => { x with prim := { x.prim with pc := .ofNat 64 (entry * 64), ended := false } }

/-- Fetch and run the next graph instruction on sequencer q for context c (R281). An opcode with an entry in the operator
table runs that routine; the others have the effect of the routines that the device ships with. -/
def State.issueGraph (s : State) (q c : Nat) : Host.Outcome State Fault Refusal :=
  let ws := s.codeWords c (s.ctx c).bpc 16
  match ws with
  | [] => .next (s.takeTrap (trapOf 0x45 0))
  | w :: _ =>
    let g := GWord.ofNat w
    let ent := tget 0 (s.seq q).opTable g.opc
    let xop := 0xC0 ≤ g.opc && g.opc < 0xF0
    let cur := (ws.take (1 + g.nw)).map (BitVec.ofNat 32)
    let s := s.modSeq q fun z => { z with words := cur, fresh := false }
    let trap (n : Nat) : Host.Outcome State Fault Refusal := .next (s.takeTrap (trapOf n 0))
    if xop then
      if !ent.getLsbD 32 then trap 0x40
      else if ws.length < 1 + g.nw then trap 0x45
      else if !(fld ent 48 16).testBit g.nw then trap 0x41
      else .next (s.enterMicro q (fld ent 0 15))
    else match decodeGraph ws with
      | .error .unknown => trap 0x40
      | .error .structure => trap 0x45
      | .error .malformed => trap 0x41
      | .error .range => trap 0x42
      | .ok (i, _) =>
        if !ent.getLsbD 32 then exec i s
        else if s.operandsIn c ((ws.drop 1).take g.nw) then .next (s.enterMicro q (fld ent 0 15))
        else trap 0x42

/-- Issue on sequencer q (R26 to R28, R273): nothing where no context runs or a switch is due. -/
def State.issueSeq (s : State) (q : Nat) : Host.Outcome State Fault Refusal :=
  match (s.seq q).ctx with
  | none => .next s
  | some c =>
    if (s.ctx c).st != .running || s.fs.ended || s.fs.lastClk == some s.clk.toNat || s.switchDue q then .next s
    else match (s.seq q).routine with
      | .micro => match s.fetchBundle s.focus.eng s.fs.pc.toNat with
        | .ok ws => s.issueWords ws
        | _ => .next (s.takeTrap (trapOf 0x03 0))
      | _ => (if s.atBoundary q then s.adoptAll q else s).issueGraph q c

/-! ### Moves -/

/-- Engine e exists and is enabled (R1). -/
def State.engineOn (s : State) (e : Nat) : Bool := isSeq e || (e < 48 && s.cluOn (cluOf e))

/-- Issue stream `sec` of engine e. -/
def State.issueAt (s : State) (e : Nat) (sec : Bool) : Host.Outcome State Fault Refusal :=
  if !s.engineOn e then .fault (.noSuchEngine e)
  else
    let s := { s with focus := ⟨e, sec⟩, slot := .ok }
    if isSeq e then s.issueSeq (e - 48) else s.issueCore

/-- The step of the device: the agenda's next move, or with an empty agenda the next clk of the engine in focus. What its time limit ends, ends
as the clk moves (R434, R444). -/
def State.move (s : State) : Host.Outcome State Fault Refusal :=
  match s.agenda with
  | [] => ({ s with clk := s.clk + 1 } : State).expire.issueAt s.focus.eng s.focus.sec
  | m :: rest =>
    let s := ({ s with agenda := rest, clk := s.clk + .ofNat 64 m.dt } : State).expire
    match m.act with
    | .issue e sec => s.issueAt e sec
    | .event i => match encode i with
      | .none => if i = .lend then .next s else exec i s
      | _ => .next s

/-! ### Placing an instruction (withFetchWord) -/

/-- Context 0 runs on sequencer 0 an image whose CODE holds the given words at the next PC. -/
def State.placeGraph (s : State) (ws : List Nat) : State :=
  let pc := (s.ctx 0).bpc
  let base := s.img 0 0
  let code := 0x1000
  let s := s.put base (leBytes 4 0x3149474B ++ leBytes 2 1)
  let s := s.put (base + 0x10) (leBytes 4 code ++ leBytes 4 (4 * (pc + ws.length)))
  let s := s.put (base + code + 4 * pc) (ws.flatMap (leBytes 4))
  let s := s.modCtx 0 fun x => { x with st := .running, seq := some 0 }
  let s := s.modSeq 0 fun z => { z with ctx := some 0, routine := .none, words := [], tile := 0 }
  { s with focus := ⟨48, false⟩, agenda := [] }

end Sys2Proof.Machine
end

