-- ==== Sys2Proof/Machine/Step.lean ====
section
/-!
DEFINITION. The machine's step, and the placing of an instruction where it fetches.
-/
namespace Sys2Proof.Machine

/-- One step. -/
def step (s : State) : Host.Outcome State Fault Refusal := s.move

/-- `s` with an instruction of the opcode table's bits where `step` fetches its next one: graph code of context 0, with
operand words of zeros. This stands for the submission and launch of an image that holds it. -/
def State.withFetchWord (s : State) (_nbits w : Nat) : State :=
  s.placeGraph [w % 2 ^ 32, 0, 0, 0, 0, 0, 0, 0, 0, 0, 0, 0, 0, 0, 0, 0]

end Sys2Proof.Machine
end

