-- ==== Sys2Proof/Laws/Table.lean ====
section
/-!
SUPPORT. Laws of the sparse tables and of byte memory: what a read gives after a write, and that every write keeps the
canonical form.
-/
namespace Sys2Proof.Machine

/-! ### Sorted lists split at a key -/

theorem find_filter_of_imp {α : Type} (p q : α → Bool) (h : ∀ a, q a = true → p a = true) (l : List α) :
    (l.filter p).find? q = l.find? q := by
  induction l with
  | nil => rfl
  | cons x xs ih =>
    cases hp : p x <;> cases hq : q x <;> simp_all

theorem find_filter_none {α : Type} (p q : α → Bool) (h : ∀ a, q a = true → p a = false) (l : List α) :
    (l.filter p).find? q = none := by
  simp only [List.find?_eq_none, List.mem_filter]
  rintro a ⟨-, ha⟩ hq
  exact absurd (h a hq) (by simp [ha])

/-! ### Tables -/

@[simp] theorem tget_nil {α : Type} (d : α) (k : Nat) : tget d [] k = d := rfl

/-- A read after a write: the written value at its key, the old one elsewhere. -/
theorem tget_tput {α : Type} [DecidableEq α] (d : α) (t : Tbl α) (k j : Nat) (v : α) :
    tget d (tput d t k v) j = if j = k then v else tget d t j := by
  unfold tget tput
  rcases Nat.lt_trichotomy j k with h | rfl | h
  · rw [List.append_assoc, List.find?_append, find_filter_of_imp _ _ (by simp; omega)]
    have h1 : (t.filter fun e => decide (k < e.1)).find? (fun e => e.1 == j) = none :=
      find_filter_none _ _ (by simp; omega) t
    have h2 : (if v = d then ([] : Tbl α) else [(k, v)]).find? (fun e => e.1 == j) = none := by
      split <;> simp; omega
    rw [List.find?_append, h1, h2, if_neg (by omega)]
    simp
  · have h1 : (t.filter fun e => decide (e.1 < j)).find? (fun e => e.1 == j) = none :=
      find_filter_none _ _ (by simp) t
    have h2 : (t.filter fun e => decide (j < e.1)).find? (fun e => e.1 == j) = none :=
      find_filter_none _ _ (by simp) t
    rw [List.append_assoc, List.find?_append, h1, List.find?_append, h2, if_pos rfl]
    by_cases hv : v = d <;> simp [hv]
  · rw [List.append_assoc, List.find?_append]
    have h1 : (t.filter fun e => decide (e.1 < k)).find? (fun e => e.1 == j) = none :=
      find_filter_none _ _ (by simp; omega) t
    have h2 : (if v = d then ([] : Tbl α) else [(k, v)]).find? (fun e => e.1 == j) = none := by
      split <;> simp; omega
    rw [h1, List.find?_append, h2, find_filter_of_imp _ _ (by simp; omega), if_neg (by omega)]
    simp

@[simp] theorem tget_tput_self {α : Type} [DecidableEq α] (d : α) (t : Tbl α) (k : Nat) (v : α) :
    tget d (tput d t k v) k = v := by simp [tget_tput]

theorem tget_tput_ne {α : Type} [DecidableEq α] (d : α) (t : Tbl α) {k j : Nat} (v : α) (h : j ≠ k) :
    tget d (tput d t k v) j = tget d t j := by simp [tget_tput, h]

/-- Of two writes to one key the second stands. -/
@[simp] theorem tput_tput {α : Type} [DecidableEq α] (d : α) (t : Tbl α) (k : Nat) (v w : α) :
    tput d (tput d t k v) k w = tput d t k w := by
  have a : ∀ (l : Tbl α), (l.filter fun e => decide (k < e.1)).filter (fun e => decide (e.1 < k)) = [] := by
    intro l; simp only [List.filter_filter, List.filter_eq_nil_iff]; intro e _; simp; omega
  have b : ∀ (l : Tbl α), (l.filter fun e => decide (e.1 < k)).filter (fun e => decide (k < e.1)) = [] := by
    intro l; simp only [List.filter_filter, List.filter_eq_nil_iff]; intro e _; simp; omega
  unfold tput
  by_cases hv : v = d <;> simp [hv, List.filter_append, a, b, List.filter_filter]

theorem twf_iff {α : Type} [DecidableEq α] (d : α) (t : Tbl α) :
    twf d t = true ↔ (t.Pairwise fun a b => a.1 < b.1) ∧ ∀ e ∈ t, e.2 ≠ d := by
  simp [twf]

/-- A write keeps a table's canonical form. -/
theorem twf_tput {α : Type} [DecidableEq α] (d : α) (t : Tbl α) (k : Nat) (v : α) (h : twf d t = true) :
    twf d (tput d t k v) = true := by
  rw [twf_iff] at h ⊢
  obtain ⟨hs, hd⟩ := h
  unfold tput
  refine ⟨?_, ?_⟩
  · rw [List.append_assoc, List.pairwise_append, List.pairwise_append]
    refine ⟨hs.filter _, ⟨?_, hs.filter _, ?_⟩, ?_⟩
    · split <;> simp
    · intro a ha b hb
      split at ha <;> simp_all
    · intro a ha b hb
      have ha' : a.1 < k := by simpa using (List.mem_filter.1 ha).2
      rcases List.mem_append.1 hb with hb | hb
      · split at hb <;> simp_all
      · have : k < b.1 := by simpa using (List.mem_filter.1 hb).2
        omega
  · intro e he
    rcases List.mem_append.1 he with he | he
    · rcases List.mem_append.1 he with he | he
      · exact hd e (List.mem_filter.1 he).1
      · split at he <;> simp_all
    · exact hd e (List.mem_filter.1 he).1

/-! ### Memory -/

/-- The cells of a run of bytes rise strictly, lie in the run and hold no default. -/
theorem cells_mem (bs : List Byte) : ∀ (a : Nat) (e : Host.Cell), e ∈ cells a bs →
    a ≤ e.1 ∧ e.1 < a + bs.length ∧ e.2 ≠ memDefault e.1 := by
  induction bs with
  | nil => simp [cells]
  | cons b bs ih =>
    intro a e he
    unfold cells at he
    split at he
    · have := ih _ _ he
      simp only [List.length_cons]
      exact ⟨by omega, by omega, this.2.2⟩
    · rcases List.mem_cons.1 he with rfl | he
      · simp_all
      · have := ih _ _ he
        simp only [List.length_cons]
        exact ⟨by omega, by omega, this.2.2⟩

theorem cells_sorted (bs : List Byte) : ∀ a, (cells a bs).Pairwise fun x y => x.1 < y.1 := by
  induction bs with
  | nil => simp [cells]
  | cons b bs ih =>
    intro a
    unfold cells
    split
    · exact ih _
    · exact List.pairwise_cons.2 ⟨fun y hy => by have := cells_mem _ _ _ hy; simp only; omega, ih _⟩

theorem wf_iff (m : List Host.Cell) :
    Memory.wf m = true ↔ (m.Pairwise fun a b => a.1 < b.1) ∧ ∀ e ∈ m, e.2 ≠ memDefault e.1 := by
  simp [Memory.wf]

/-- A write of a run of bytes keeps memory's canonical form. -/
theorem mputs_wf (m : List Host.Cell) (a : Nat) (bs : List Byte) (h : Memory.wf m = true) :
    Memory.wf (mputs m a bs) = true := by
  rw [wf_iff] at h ⊢
  obtain ⟨hs, hd⟩ := h
  unfold mputs
  refine ⟨?_, ?_⟩
  · rw [List.append_assoc, List.pairwise_append, List.pairwise_append]
    refine ⟨hs.filter _, ⟨cells_sorted _ _, hs.filter _, ?_⟩, ?_⟩
    · intro x hx y hy
      have h1 := cells_mem _ _ _ hx
      have : a + bs.length ≤ y.1 := by simpa using (List.mem_filter.1 hy).2
      omega
    · intro x hx y hy
      have hx' : x.1 < a := by simpa using (List.mem_filter.1 hx).2
      rcases List.mem_append.1 hy with hy | hy
      · have := cells_mem _ _ _ hy; omega
      · have : a + bs.length ≤ y.1 := by simpa using (List.mem_filter.1 hy).2
        omega
  · intro e he
    rcases List.mem_append.1 he with he | he
    · rcases List.mem_append.1 he with he | he
      · exact hd e (List.mem_filter.1 he).1
      · exact (cells_mem _ _ _ he).2.2
    · exact hd e (List.mem_filter.1 he).1

/-- Dropping cells keeps memory's canonical form. -/
theorem filter_wf (m : List Host.Cell) (p : Host.Cell → Bool) (h : Memory.wf m = true) : Memory.wf (m.filter p) = true := by
  rw [wf_iff] at h ⊢
  exact ⟨h.1.filter _, fun e he => h.2 e (List.mem_filter.1 he).1⟩

/-- The byte that a run of written bytes gives. -/
theorem mget_cells (bs : List Byte) : ∀ (a x : Nat), mget (cells a bs) x =
    if a ≤ x ∧ x < a + bs.length then bs.getD (x - a) 0 else memDefault x := by
  induction bs with
  | nil => intro a x; simp [cells, mget] <;> omega
  | cons b bs ih =>
    intro a x
    by_cases hx : x = a
    · subst hx
      have hn : mget (cells (x + 1) bs) x = memDefault x := by rw [ih, if_neg (by omega)]
      unfold cells
      split
      · next hb => rw [hn]; simp [hb]
      · simp [mget]
    · have hs : mget (cells a (b :: bs)) x = mget (cells (a + 1) bs) x := by
        conv => lhs; unfold cells
        split
        · rfl
        · have : (a == x) = false := by simp; omega
          simp [mget, this]
      rw [hs, ih]
      by_cases hr : a ≤ x ∧ x < a + (b :: bs).length
      · have h1 : a + 1 ≤ x ∧ x < a + 1 + bs.length := by simp at hr; omega
        rw [if_pos hr, if_pos h1]
        have : x - a = (x - (a + 1)) + 1 := by omega
        rw [this, List.getD_cons_succ]
      · have h1 : ¬ (a + 1 ≤ x ∧ x < a + 1 + bs.length) := by simp at hr ⊢; omega
        rw [if_neg hr, if_neg h1]

theorem mget_append_left (m n : List Host.Cell) (x : Nat) (h : ∀ e ∈ n, e.1 ≠ x) : mget (m ++ n) x = mget m x := by
  have : n.find? (fun e => e.1 == x) = none := by simpa [List.find?_eq_none] using h
  simp [mget, List.find?_append, this]

theorem mget_append_right (m n : List Host.Cell) (x : Nat) (h : ∀ e ∈ m, e.1 ≠ x) : mget (m ++ n) x = mget n x := by
  have : m.find? (fun e => e.1 == x) = none := by simpa [List.find?_eq_none] using h
  simp [mget, List.find?_append, this]

/-- A byte after a write of a run: the written byte inside the run, the old one outside it. -/
theorem mget_mputs (m : List Host.Cell) (a : Nat) (bs : List Byte) (x : Nat) :
    mget (mputs m a bs) x = if a ≤ x ∧ x < a + bs.length then bs.getD (x - a) 0 else mget m x := by
  have lo : ∀ e ∈ m.filter (fun e => decide (e.1 < a)), e.1 < a := fun e he => by simpa using (List.mem_filter.1 he).2
  have hi : ∀ e ∈ m.filter (fun e => decide (a + bs.length ≤ e.1)), a + bs.length ≤ e.1 :=
    fun e he => by simpa using (List.mem_filter.1 he).2
  unfold mputs
  by_cases h1 : x < a
  · rw [List.append_assoc, mget_append_left _ _ _ (by
      intro e he
      rcases List.mem_append.1 he with he | he
      · have := cells_mem _ _ _ he; omega
      · have := hi e he; omega), if_neg (by omega)]
    simp only [mget]
    rw [find_filter_of_imp _ _ (by simp; omega)]
  · rw [List.append_assoc, mget_append_right _ _ _ (fun e he => by have := lo e he; omega)]
    by_cases h2 : x < a + bs.length
    · rw [mget_append_left _ _ _ (fun e he => by have := hi e he; omega), mget_cells, if_pos ⟨by omega, h2⟩, if_pos ⟨by omega, h2⟩]
    · rw [mget_append_right _ _ _ (fun e he => by have := cells_mem _ _ _ he; omega), if_neg (by omega)]
      simp only [mget]
      rw [find_filter_of_imp _ _ (by simp; omega)]

/-! ### Tags -/

theorem tagGet_tagPut (l : List Nat) (q r : Nat) (v : Bool) :
    tagGet (tagPut l q v) r = if r = q then v else tagGet l r := by
  rw [Bool.eq_iff_iff]
  rcases Nat.lt_trichotomy r q with h | rfl | h
  · have : r ≠ q := by omega
    have : ¬ q < r := by omega
    cases v <;> simp_all [tagGet, tagPut]
  · cases v <;> simp [tagGet, tagPut]
  · have : r ≠ q := by omega
    have : ¬ r < q := by omega
    cases v <;> simp_all [tagGet, tagPut]

end Sys2Proof.Machine
end

