-- ==== Sys2Proof/Laws/State.lean ====
section
/-!
SUPPORT. What each update of the state leaves alone: one lemma per field per update, and what the accessors of a component
give after an update of it.
-/
namespace Sys2Proof.Machine

/-! ### `State.setEng` -/

@[simp] theorem State.setEng_clk (s : State) (e : Nat) (x : Engine) : (s.setEng e x).clk = s.clk := rfl
@[simp] theorem State.setEng_agenda (s : State) (e : Nat) (x : Engine) : (s.setEng e x).agenda = s.agenda := rfl
@[simp] theorem State.setEng_free (s : State) (e : Nat) (x : Engine) : (s.setEng e x).free = s.free := rfl
@[simp] theorem State.setEng_focus (s : State) (e : Nat) (x : Engine) : (s.setEng e x).focus = s.focus := rfl
@[simp] theorem State.setEng_slot (s : State) (e : Nat) (x : Engine) : (s.setEng e x).slot = s.slot := rfl
@[simp] theorem State.setEng_pos (s : State) (e : Nat) (x : Engine) : (s.setEng e x).pos = s.pos := rfl
@[simp] theorem State.setEng_nextId (s : State) (e : Nat) (x : Engine) : (s.setEng e x).nextId = s.nextId := rfl
@[simp] theorem State.setEng_base (s : State) (e : Nat) (x : Engine) : (s.setEng e x).base = s.base := rfl
@[simp] theorem State.setEng_win (s : State) (e : Nat) (x : Engine) : (s.setEng e x).win = s.win := rfl
@[simp] theorem State.setEng_clusters (s : State) (e : Nat) (x : Engine) : (s.setEng e x).clusters = s.clusters := rfl
@[simp] theorem State.setEng_seqs (s : State) (e : Nat) (x : Engine) : (s.setEng e x).seqs = s.seqs := rfl
@[simp] theorem State.setEng_ctxs (s : State) (e : Nat) (x : Engine) : (s.setEng e x).ctxs = s.ctxs := rfl
@[simp] theorem State.setEng_queues (s : State) (e : Nat) (x : Engine) : (s.setEng e x).queues = s.queues := rfl
@[simp] theorem State.setEng_parts (s : State) (e : Nat) (x : Engine) : (s.setEng e x).parts = s.parts := rfl
@[simp] theorem State.setEng_gangs (s : State) (e : Nat) (x : Engine) : (s.setEng e x).gangs = s.gangs := rfl
@[simp] theorem State.setEng_accs (s : State) (e : Nat) (x : Engine) : (s.setEng e x).accs = s.accs := rfl
@[simp] theorem State.setEng_pends (s : State) (e : Nat) (x : Engine) : (s.setEng e x).pends = s.pends := rfl
@[simp] theorem State.setEng_banks (s : State) (e : Nat) (x : Engine) : (s.setEng e x).banks = s.banks := rfl
@[simp] theorem State.setEng_copies (s : State) (e : Nat) (x : Engine) : (s.setEng e x).copies = s.copies := rfl
@[simp] theorem State.setEng_comets (s : State) (e : Nat) (x : Engine) : (s.setEng e x).comets = s.comets := rfl
@[simp] theorem State.setEng_loopComets (s : State) (e : Nat) (x : Engine) : (s.setEng e x).loopComets = s.loopComets := rfl
@[simp] theorem State.setEng_parkedComets (s : State) (e : Nat) (x : Engine) : (s.setEng e x).parkedComets = s.parkedComets := rfl
@[simp] theorem State.setEng_ext (s : State) (e : Nat) (x : Engine) : (s.setEng e x).ext = s.ext := rfl
@[simp] theorem State.setEng_dev (s : State) (e : Nat) (x : Engine) : (s.setEng e x).dev = s.dev := rfl
@[simp] theorem State.setEng_mem (s : State) (e : Nat) (x : Engine) : (s.setEng e x).mem = s.mem := rfl
@[simp] theorem State.setEng_tags (s : State) (e : Nat) (x : Engine) : (s.setEng e x).tags = s.tags := rfl

/-! ### `State.modEng` -/

@[simp] theorem State.modEng_clk (s : State) (e : Nat) (f : Engine → Engine) : (s.modEng e f).clk = s.clk := rfl
@[simp] theorem State.modEng_agenda (s : State) (e : Nat) (f : Engine → Engine) : (s.modEng e f).agenda = s.agenda := rfl
@[simp] theorem State.modEng_free (s : State) (e : Nat) (f : Engine → Engine) : (s.modEng e f).free = s.free := rfl
@[simp] theorem State.modEng_focus (s : State) (e : Nat) (f : Engine → Engine) : (s.modEng e f).focus = s.focus := rfl
@[simp] theorem State.modEng_slot (s : State) (e : Nat) (f : Engine → Engine) : (s.modEng e f).slot = s.slot := rfl
@[simp] theorem State.modEng_pos (s : State) (e : Nat) (f : Engine → Engine) : (s.modEng e f).pos = s.pos := rfl
@[simp] theorem State.modEng_nextId (s : State) (e : Nat) (f : Engine → Engine) : (s.modEng e f).nextId = s.nextId := rfl
@[simp] theorem State.modEng_base (s : State) (e : Nat) (f : Engine → Engine) : (s.modEng e f).base = s.base := rfl
@[simp] theorem State.modEng_win (s : State) (e : Nat) (f : Engine → Engine) : (s.modEng e f).win = s.win := rfl
@[simp] theorem State.modEng_clusters (s : State) (e : Nat) (f : Engine → Engine) : (s.modEng e f).clusters = s.clusters := rfl
@[simp] theorem State.modEng_seqs (s : State) (e : Nat) (f : Engine → Engine) : (s.modEng e f).seqs = s.seqs := rfl
@[simp] theorem State.modEng_ctxs (s : State) (e : Nat) (f : Engine → Engine) : (s.modEng e f).ctxs = s.ctxs := rfl
@[simp] theorem State.modEng_queues (s : State) (e : Nat) (f : Engine → Engine) : (s.modEng e f).queues = s.queues := rfl
@[simp] theorem State.modEng_parts (s : State) (e : Nat) (f : Engine → Engine) : (s.modEng e f).parts = s.parts := rfl
@[simp] theorem State.modEng_gangs (s : State) (e : Nat) (f : Engine → Engine) : (s.modEng e f).gangs = s.gangs := rfl
@[simp] theorem State.modEng_accs (s : State) (e : Nat) (f : Engine → Engine) : (s.modEng e f).accs = s.accs := rfl
@[simp] theorem State.modEng_pends (s : State) (e : Nat) (f : Engine → Engine) : (s.modEng e f).pends = s.pends := rfl
@[simp] theorem State.modEng_banks (s : State) (e : Nat) (f : Engine → Engine) : (s.modEng e f).banks = s.banks := rfl
@[simp] theorem State.modEng_copies (s : State) (e : Nat) (f : Engine → Engine) : (s.modEng e f).copies = s.copies := rfl
@[simp] theorem State.modEng_comets (s : State) (e : Nat) (f : Engine → Engine) : (s.modEng e f).comets = s.comets := rfl
@[simp] theorem State.modEng_loopComets (s : State) (e : Nat) (f : Engine → Engine) : (s.modEng e f).loopComets = s.loopComets := rfl
@[simp] theorem State.modEng_parkedComets (s : State) (e : Nat) (f : Engine → Engine) : (s.modEng e f).parkedComets = s.parkedComets := rfl
@[simp] theorem State.modEng_ext (s : State) (e : Nat) (f : Engine → Engine) : (s.modEng e f).ext = s.ext := rfl
@[simp] theorem State.modEng_dev (s : State) (e : Nat) (f : Engine → Engine) : (s.modEng e f).dev = s.dev := rfl
@[simp] theorem State.modEng_mem (s : State) (e : Nat) (f : Engine → Engine) : (s.modEng e f).mem = s.mem := rfl
@[simp] theorem State.modEng_tags (s : State) (e : Nat) (f : Engine → Engine) : (s.modEng e f).tags = s.tags := rfl

/-! ### `State.modClu` -/

@[simp] theorem State.modClu_clk (s : State) (c : Nat) (f : Cluster → Cluster) : (s.modClu c f).clk = s.clk := rfl
@[simp] theorem State.modClu_agenda (s : State) (c : Nat) (f : Cluster → Cluster) : (s.modClu c f).agenda = s.agenda := rfl
@[simp] theorem State.modClu_free (s : State) (c : Nat) (f : Cluster → Cluster) : (s.modClu c f).free = s.free := rfl
@[simp] theorem State.modClu_focus (s : State) (c : Nat) (f : Cluster → Cluster) : (s.modClu c f).focus = s.focus := rfl
@[simp] theorem State.modClu_slot (s : State) (c : Nat) (f : Cluster → Cluster) : (s.modClu c f).slot = s.slot := rfl
@[simp] theorem State.modClu_pos (s : State) (c : Nat) (f : Cluster → Cluster) : (s.modClu c f).pos = s.pos := rfl
@[simp] theorem State.modClu_nextId (s : State) (c : Nat) (f : Cluster → Cluster) : (s.modClu c f).nextId = s.nextId := rfl
@[simp] theorem State.modClu_base (s : State) (c : Nat) (f : Cluster → Cluster) : (s.modClu c f).base = s.base := rfl
@[simp] theorem State.modClu_win (s : State) (c : Nat) (f : Cluster → Cluster) : (s.modClu c f).win = s.win := rfl
@[simp] theorem State.modClu_engines (s : State) (c : Nat) (f : Cluster → Cluster) : (s.modClu c f).engines = s.engines := rfl
@[simp] theorem State.modClu_seqs (s : State) (c : Nat) (f : Cluster → Cluster) : (s.modClu c f).seqs = s.seqs := rfl
@[simp] theorem State.modClu_ctxs (s : State) (c : Nat) (f : Cluster → Cluster) : (s.modClu c f).ctxs = s.ctxs := rfl
@[simp] theorem State.modClu_queues (s : State) (c : Nat) (f : Cluster → Cluster) : (s.modClu c f).queues = s.queues := rfl
@[simp] theorem State.modClu_parts (s : State) (c : Nat) (f : Cluster → Cluster) : (s.modClu c f).parts = s.parts := rfl
@[simp] theorem State.modClu_gangs (s : State) (c : Nat) (f : Cluster → Cluster) : (s.modClu c f).gangs = s.gangs := rfl
@[simp] theorem State.modClu_accs (s : State) (c : Nat) (f : Cluster → Cluster) : (s.modClu c f).accs = s.accs := rfl
@[simp] theorem State.modClu_pends (s : State) (c : Nat) (f : Cluster → Cluster) : (s.modClu c f).pends = s.pends := rfl
@[simp] theorem State.modClu_banks (s : State) (c : Nat) (f : Cluster → Cluster) : (s.modClu c f).banks = s.banks := rfl
@[simp] theorem State.modClu_copies (s : State) (c : Nat) (f : Cluster → Cluster) : (s.modClu c f).copies = s.copies := rfl
@[simp] theorem State.modClu_comets (s : State) (c : Nat) (f : Cluster → Cluster) : (s.modClu c f).comets = s.comets := rfl
@[simp] theorem State.modClu_loopComets (s : State) (c : Nat) (f : Cluster → Cluster) : (s.modClu c f).loopComets = s.loopComets := rfl
@[simp] theorem State.modClu_parkedComets (s : State) (c : Nat) (f : Cluster → Cluster) : (s.modClu c f).parkedComets = s.parkedComets := rfl
@[simp] theorem State.modClu_ext (s : State) (c : Nat) (f : Cluster → Cluster) : (s.modClu c f).ext = s.ext := rfl
@[simp] theorem State.modClu_dev (s : State) (c : Nat) (f : Cluster → Cluster) : (s.modClu c f).dev = s.dev := rfl
@[simp] theorem State.modClu_mem (s : State) (c : Nat) (f : Cluster → Cluster) : (s.modClu c f).mem = s.mem := rfl
@[simp] theorem State.modClu_tags (s : State) (c : Nat) (f : Cluster → Cluster) : (s.modClu c f).tags = s.tags := rfl

/-! ### `State.modSeq` -/

@[simp] theorem State.modSeq_clk (s : State) (q : Nat) (f : Seq → Seq) : (s.modSeq q f).clk = s.clk := rfl
@[simp] theorem State.modSeq_agenda (s : State) (q : Nat) (f : Seq → Seq) : (s.modSeq q f).agenda = s.agenda := rfl
@[simp] theorem State.modSeq_free (s : State) (q : Nat) (f : Seq → Seq) : (s.modSeq q f).free = s.free := rfl
@[simp] theorem State.modSeq_focus (s : State) (q : Nat) (f : Seq → Seq) : (s.modSeq q f).focus = s.focus := rfl
@[simp] theorem State.modSeq_slot (s : State) (q : Nat) (f : Seq → Seq) : (s.modSeq q f).slot = s.slot := rfl
@[simp] theorem State.modSeq_pos (s : State) (q : Nat) (f : Seq → Seq) : (s.modSeq q f).pos = s.pos := rfl
@[simp] theorem State.modSeq_nextId (s : State) (q : Nat) (f : Seq → Seq) : (s.modSeq q f).nextId = s.nextId := rfl
@[simp] theorem State.modSeq_base (s : State) (q : Nat) (f : Seq → Seq) : (s.modSeq q f).base = s.base := rfl
@[simp] theorem State.modSeq_win (s : State) (q : Nat) (f : Seq → Seq) : (s.modSeq q f).win = s.win := rfl
@[simp] theorem State.modSeq_engines (s : State) (q : Nat) (f : Seq → Seq) : (s.modSeq q f).engines = s.engines := rfl
@[simp] theorem State.modSeq_clusters (s : State) (q : Nat) (f : Seq → Seq) : (s.modSeq q f).clusters = s.clusters := rfl
@[simp] theorem State.modSeq_ctxs (s : State) (q : Nat) (f : Seq → Seq) : (s.modSeq q f).ctxs = s.ctxs := rfl
@[simp] theorem State.modSeq_queues (s : State) (q : Nat) (f : Seq → Seq) : (s.modSeq q f).queues = s.queues := rfl
@[simp] theorem State.modSeq_parts (s : State) (q : Nat) (f : Seq → Seq) : (s.modSeq q f).parts = s.parts := rfl
@[simp] theorem State.modSeq_gangs (s : State) (q : Nat) (f : Seq → Seq) : (s.modSeq q f).gangs = s.gangs := rfl
@[simp] theorem State.modSeq_accs (s : State) (q : Nat) (f : Seq → Seq) : (s.modSeq q f).accs = s.accs := rfl
@[simp] theorem State.modSeq_pends (s : State) (q : Nat) (f : Seq → Seq) : (s.modSeq q f).pends = s.pends := rfl
@[simp] theorem State.modSeq_banks (s : State) (q : Nat) (f : Seq → Seq) : (s.modSeq q f).banks = s.banks := rfl
@[simp] theorem State.modSeq_copies (s : State) (q : Nat) (f : Seq → Seq) : (s.modSeq q f).copies = s.copies := rfl
@[simp] theorem State.modSeq_comets (s : State) (q : Nat) (f : Seq → Seq) : (s.modSeq q f).comets = s.comets := rfl
@[simp] theorem State.modSeq_loopComets (s : State) (q : Nat) (f : Seq → Seq) : (s.modSeq q f).loopComets = s.loopComets := rfl
@[simp] theorem State.modSeq_parkedComets (s : State) (q : Nat) (f : Seq → Seq) : (s.modSeq q f).parkedComets = s.parkedComets := rfl
@[simp] theorem State.modSeq_ext (s : State) (q : Nat) (f : Seq → Seq) : (s.modSeq q f).ext = s.ext := rfl
@[simp] theorem State.modSeq_dev (s : State) (q : Nat) (f : Seq → Seq) : (s.modSeq q f).dev = s.dev := rfl
@[simp] theorem State.modSeq_mem (s : State) (q : Nat) (f : Seq → Seq) : (s.modSeq q f).mem = s.mem := rfl
@[simp] theorem State.modSeq_tags (s : State) (q : Nat) (f : Seq → Seq) : (s.modSeq q f).tags = s.tags := rfl

/-! ### `State.modCtx` -/

@[simp] theorem State.modCtx_clk (s : State) (c : Nat) (f : Context → Context) : (s.modCtx c f).clk = s.clk := rfl
@[simp] theorem State.modCtx_agenda (s : State) (c : Nat) (f : Context → Context) : (s.modCtx c f).agenda = s.agenda := rfl
@[simp] theorem State.modCtx_free (s : State) (c : Nat) (f : Context → Context) : (s.modCtx c f).free = s.free := rfl
@[simp] theorem State.modCtx_focus (s : State) (c : Nat) (f : Context → Context) : (s.modCtx c f).focus = s.focus := rfl
@[simp] theorem State.modCtx_slot (s : State) (c : Nat) (f : Context → Context) : (s.modCtx c f).slot = s.slot := rfl
@[simp] theorem State.modCtx_pos (s : State) (c : Nat) (f : Context → Context) : (s.modCtx c f).pos = s.pos := rfl
@[simp] theorem State.modCtx_nextId (s : State) (c : Nat) (f : Context → Context) : (s.modCtx c f).nextId = s.nextId := rfl
@[simp] theorem State.modCtx_base (s : State) (c : Nat) (f : Context → Context) : (s.modCtx c f).base = s.base := rfl
@[simp] theorem State.modCtx_win (s : State) (c : Nat) (f : Context → Context) : (s.modCtx c f).win = s.win := rfl
@[simp] theorem State.modCtx_engines (s : State) (c : Nat) (f : Context → Context) : (s.modCtx c f).engines = s.engines := rfl
@[simp] theorem State.modCtx_clusters (s : State) (c : Nat) (f : Context → Context) : (s.modCtx c f).clusters = s.clusters := rfl
@[simp] theorem State.modCtx_seqs (s : State) (c : Nat) (f : Context → Context) : (s.modCtx c f).seqs = s.seqs := rfl
@[simp] theorem State.modCtx_queues (s : State) (c : Nat) (f : Context → Context) : (s.modCtx c f).queues = s.queues := rfl
@[simp] theorem State.modCtx_parts (s : State) (c : Nat) (f : Context → Context) : (s.modCtx c f).parts = s.parts := rfl
@[simp] theorem State.modCtx_gangs (s : State) (c : Nat) (f : Context → Context) : (s.modCtx c f).gangs = s.gangs := rfl
@[simp] theorem State.modCtx_accs (s : State) (c : Nat) (f : Context → Context) : (s.modCtx c f).accs = s.accs := rfl
@[simp] theorem State.modCtx_pends (s : State) (c : Nat) (f : Context → Context) : (s.modCtx c f).pends = s.pends := rfl
@[simp] theorem State.modCtx_banks (s : State) (c : Nat) (f : Context → Context) : (s.modCtx c f).banks = s.banks := rfl
@[simp] theorem State.modCtx_copies (s : State) (c : Nat) (f : Context → Context) : (s.modCtx c f).copies = s.copies := rfl
@[simp] theorem State.modCtx_comets (s : State) (c : Nat) (f : Context → Context) : (s.modCtx c f).comets = s.comets := rfl
@[simp] theorem State.modCtx_loopComets (s : State) (c : Nat) (f : Context → Context) : (s.modCtx c f).loopComets = s.loopComets := rfl
@[simp] theorem State.modCtx_parkedComets (s : State) (c : Nat) (f : Context → Context) : (s.modCtx c f).parkedComets = s.parkedComets := rfl
@[simp] theorem State.modCtx_ext (s : State) (c : Nat) (f : Context → Context) : (s.modCtx c f).ext = s.ext := rfl
@[simp] theorem State.modCtx_dev (s : State) (c : Nat) (f : Context → Context) : (s.modCtx c f).dev = s.dev := rfl
@[simp] theorem State.modCtx_mem (s : State) (c : Nat) (f : Context → Context) : (s.modCtx c f).mem = s.mem := rfl
@[simp] theorem State.modCtx_tags (s : State) (c : Nat) (f : Context → Context) : (s.modCtx c f).tags = s.tags := rfl

/-! ### `State.modQueue` -/

@[simp] theorem State.modQueue_clk (s : State) (q : Nat) (f : SubQ → SubQ) : (s.modQueue q f).clk = s.clk := rfl
@[simp] theorem State.modQueue_agenda (s : State) (q : Nat) (f : SubQ → SubQ) : (s.modQueue q f).agenda = s.agenda := rfl
@[simp] theorem State.modQueue_free (s : State) (q : Nat) (f : SubQ → SubQ) : (s.modQueue q f).free = s.free := rfl
@[simp] theorem State.modQueue_focus (s : State) (q : Nat) (f : SubQ → SubQ) : (s.modQueue q f).focus = s.focus := rfl
@[simp] theorem State.modQueue_slot (s : State) (q : Nat) (f : SubQ → SubQ) : (s.modQueue q f).slot = s.slot := rfl
@[simp] theorem State.modQueue_pos (s : State) (q : Nat) (f : SubQ → SubQ) : (s.modQueue q f).pos = s.pos := rfl
@[simp] theorem State.modQueue_nextId (s : State) (q : Nat) (f : SubQ → SubQ) : (s.modQueue q f).nextId = s.nextId := rfl
@[simp] theorem State.modQueue_base (s : State) (q : Nat) (f : SubQ → SubQ) : (s.modQueue q f).base = s.base := rfl
@[simp] theorem State.modQueue_win (s : State) (q : Nat) (f : SubQ → SubQ) : (s.modQueue q f).win = s.win := rfl
@[simp] theorem State.modQueue_engines (s : State) (q : Nat) (f : SubQ → SubQ) : (s.modQueue q f).engines = s.engines := rfl
@[simp] theorem State.modQueue_clusters (s : State) (q : Nat) (f : SubQ → SubQ) : (s.modQueue q f).clusters = s.clusters := rfl
@[simp] theorem State.modQueue_seqs (s : State) (q : Nat) (f : SubQ → SubQ) : (s.modQueue q f).seqs = s.seqs := rfl
@[simp] theorem State.modQueue_ctxs (s : State) (q : Nat) (f : SubQ → SubQ) : (s.modQueue q f).ctxs = s.ctxs := rfl
@[simp] theorem State.modQueue_parts (s : State) (q : Nat) (f : SubQ → SubQ) : (s.modQueue q f).parts = s.parts := rfl
@[simp] theorem State.modQueue_gangs (s : State) (q : Nat) (f : SubQ → SubQ) : (s.modQueue q f).gangs = s.gangs := rfl
@[simp] theorem State.modQueue_accs (s : State) (q : Nat) (f : SubQ → SubQ) : (s.modQueue q f).accs = s.accs := rfl
@[simp] theorem State.modQueue_pends (s : State) (q : Nat) (f : SubQ → SubQ) : (s.modQueue q f).pends = s.pends := rfl
@[simp] theorem State.modQueue_banks (s : State) (q : Nat) (f : SubQ → SubQ) : (s.modQueue q f).banks = s.banks := rfl
@[simp] theorem State.modQueue_copies (s : State) (q : Nat) (f : SubQ → SubQ) : (s.modQueue q f).copies = s.copies := rfl
@[simp] theorem State.modQueue_comets (s : State) (q : Nat) (f : SubQ → SubQ) : (s.modQueue q f).comets = s.comets := rfl
@[simp] theorem State.modQueue_loopComets (s : State) (q : Nat) (f : SubQ → SubQ) : (s.modQueue q f).loopComets = s.loopComets := rfl
@[simp] theorem State.modQueue_parkedComets (s : State) (q : Nat) (f : SubQ → SubQ) : (s.modQueue q f).parkedComets = s.parkedComets := rfl
@[simp] theorem State.modQueue_ext (s : State) (q : Nat) (f : SubQ → SubQ) : (s.modQueue q f).ext = s.ext := rfl
@[simp] theorem State.modQueue_dev (s : State) (q : Nat) (f : SubQ → SubQ) : (s.modQueue q f).dev = s.dev := rfl
@[simp] theorem State.modQueue_mem (s : State) (q : Nat) (f : SubQ → SubQ) : (s.modQueue q f).mem = s.mem := rfl
@[simp] theorem State.modQueue_tags (s : State) (q : Nat) (f : SubQ → SubQ) : (s.modQueue q f).tags = s.tags := rfl

/-! ### `State.modPart` -/

@[simp] theorem State.modPart_clk (s : State) (p : Nat) (f : Partition → Partition) : (s.modPart p f).clk = s.clk := rfl
@[simp] theorem State.modPart_agenda (s : State) (p : Nat) (f : Partition → Partition) : (s.modPart p f).agenda = s.agenda := rfl
@[simp] theorem State.modPart_free (s : State) (p : Nat) (f : Partition → Partition) : (s.modPart p f).free = s.free := rfl
@[simp] theorem State.modPart_focus (s : State) (p : Nat) (f : Partition → Partition) : (s.modPart p f).focus = s.focus := rfl
@[simp] theorem State.modPart_slot (s : State) (p : Nat) (f : Partition → Partition) : (s.modPart p f).slot = s.slot := rfl
@[simp] theorem State.modPart_pos (s : State) (p : Nat) (f : Partition → Partition) : (s.modPart p f).pos = s.pos := rfl
@[simp] theorem State.modPart_nextId (s : State) (p : Nat) (f : Partition → Partition) : (s.modPart p f).nextId = s.nextId := rfl
@[simp] theorem State.modPart_base (s : State) (p : Nat) (f : Partition → Partition) : (s.modPart p f).base = s.base := rfl
@[simp] theorem State.modPart_win (s : State) (p : Nat) (f : Partition → Partition) : (s.modPart p f).win = s.win := rfl
@[simp] theorem State.modPart_engines (s : State) (p : Nat) (f : Partition → Partition) : (s.modPart p f).engines = s.engines := rfl
@[simp] theorem State.modPart_clusters (s : State) (p : Nat) (f : Partition → Partition) : (s.modPart p f).clusters = s.clusters := rfl
@[simp] theorem State.modPart_seqs (s : State) (p : Nat) (f : Partition → Partition) : (s.modPart p f).seqs = s.seqs := rfl
@[simp] theorem State.modPart_ctxs (s : State) (p : Nat) (f : Partition → Partition) : (s.modPart p f).ctxs = s.ctxs := rfl
@[simp] theorem State.modPart_queues (s : State) (p : Nat) (f : Partition → Partition) : (s.modPart p f).queues = s.queues := rfl
@[simp] theorem State.modPart_gangs (s : State) (p : Nat) (f : Partition → Partition) : (s.modPart p f).gangs = s.gangs := rfl
@[simp] theorem State.modPart_accs (s : State) (p : Nat) (f : Partition → Partition) : (s.modPart p f).accs = s.accs := rfl
@[simp] theorem State.modPart_pends (s : State) (p : Nat) (f : Partition → Partition) : (s.modPart p f).pends = s.pends := rfl
@[simp] theorem State.modPart_banks (s : State) (p : Nat) (f : Partition → Partition) : (s.modPart p f).banks = s.banks := rfl
@[simp] theorem State.modPart_copies (s : State) (p : Nat) (f : Partition → Partition) : (s.modPart p f).copies = s.copies := rfl
@[simp] theorem State.modPart_comets (s : State) (p : Nat) (f : Partition → Partition) : (s.modPart p f).comets = s.comets := rfl
@[simp] theorem State.modPart_loopComets (s : State) (p : Nat) (f : Partition → Partition) : (s.modPart p f).loopComets = s.loopComets := rfl
@[simp] theorem State.modPart_parkedComets (s : State) (p : Nat) (f : Partition → Partition) : (s.modPart p f).parkedComets = s.parkedComets := rfl
@[simp] theorem State.modPart_ext (s : State) (p : Nat) (f : Partition → Partition) : (s.modPart p f).ext = s.ext := rfl
@[simp] theorem State.modPart_dev (s : State) (p : Nat) (f : Partition → Partition) : (s.modPart p f).dev = s.dev := rfl
@[simp] theorem State.modPart_mem (s : State) (p : Nat) (f : Partition → Partition) : (s.modPart p f).mem = s.mem := rfl
@[simp] theorem State.modPart_tags (s : State) (p : Nat) (f : Partition → Partition) : (s.modPart p f).tags = s.tags := rfl

/-! ### `State.modDev` -/

@[simp] theorem State.modDev_clk (s : State) (f : Device → Device) : (s.modDev f).clk = s.clk := rfl
@[simp] theorem State.modDev_agenda (s : State) (f : Device → Device) : (s.modDev f).agenda = s.agenda := rfl
@[simp] theorem State.modDev_free (s : State) (f : Device → Device) : (s.modDev f).free = s.free := rfl
@[simp] theorem State.modDev_focus (s : State) (f : Device → Device) : (s.modDev f).focus = s.focus := rfl
@[simp] theorem State.modDev_slot (s : State) (f : Device → Device) : (s.modDev f).slot = s.slot := rfl
@[simp] theorem State.modDev_pos (s : State) (f : Device → Device) : (s.modDev f).pos = s.pos := rfl
@[simp] theorem State.modDev_nextId (s : State) (f : Device → Device) : (s.modDev f).nextId = s.nextId := rfl
@[simp] theorem State.modDev_base (s : State) (f : Device → Device) : (s.modDev f).base = s.base := rfl
@[simp] theorem State.modDev_win (s : State) (f : Device → Device) : (s.modDev f).win = s.win := rfl
@[simp] theorem State.modDev_engines (s : State) (f : Device → Device) : (s.modDev f).engines = s.engines := rfl
@[simp] theorem State.modDev_clusters (s : State) (f : Device → Device) : (s.modDev f).clusters = s.clusters := rfl
@[simp] theorem State.modDev_seqs (s : State) (f : Device → Device) : (s.modDev f).seqs = s.seqs := rfl
@[simp] theorem State.modDev_ctxs (s : State) (f : Device → Device) : (s.modDev f).ctxs = s.ctxs := rfl
@[simp] theorem State.modDev_queues (s : State) (f : Device → Device) : (s.modDev f).queues = s.queues := rfl
@[simp] theorem State.modDev_parts (s : State) (f : Device → Device) : (s.modDev f).parts = s.parts := rfl
@[simp] theorem State.modDev_gangs (s : State) (f : Device → Device) : (s.modDev f).gangs = s.gangs := rfl
@[simp] theorem State.modDev_accs (s : State) (f : Device → Device) : (s.modDev f).accs = s.accs := rfl
@[simp] theorem State.modDev_pends (s : State) (f : Device → Device) : (s.modDev f).pends = s.pends := rfl
@[simp] theorem State.modDev_banks (s : State) (f : Device → Device) : (s.modDev f).banks = s.banks := rfl
@[simp] theorem State.modDev_copies (s : State) (f : Device → Device) : (s.modDev f).copies = s.copies := rfl
@[simp] theorem State.modDev_comets (s : State) (f : Device → Device) : (s.modDev f).comets = s.comets := rfl
@[simp] theorem State.modDev_loopComets (s : State) (f : Device → Device) : (s.modDev f).loopComets = s.loopComets := rfl
@[simp] theorem State.modDev_parkedComets (s : State) (f : Device → Device) : (s.modDev f).parkedComets = s.parkedComets := rfl
@[simp] theorem State.modDev_ext (s : State) (f : Device → Device) : (s.modDev f).ext = s.ext := rfl
@[simp] theorem State.modDev_mem (s : State) (f : Device → Device) : (s.modDev f).mem = s.mem := rfl
@[simp] theorem State.modDev_tags (s : State) (f : Device → Device) : (s.modDev f).tags = s.tags := rfl

/-! ### `State.modGang` -/

@[simp] theorem State.modGang_clk (s : State) (g : Nat) (f : Gang → Gang) : (s.modGang g f).clk = s.clk := rfl
@[simp] theorem State.modGang_agenda (s : State) (g : Nat) (f : Gang → Gang) : (s.modGang g f).agenda = s.agenda := rfl
@[simp] theorem State.modGang_free (s : State) (g : Nat) (f : Gang → Gang) : (s.modGang g f).free = s.free := rfl
@[simp] theorem State.modGang_focus (s : State) (g : Nat) (f : Gang → Gang) : (s.modGang g f).focus = s.focus := rfl
@[simp] theorem State.modGang_slot (s : State) (g : Nat) (f : Gang → Gang) : (s.modGang g f).slot = s.slot := rfl
@[simp] theorem State.modGang_pos (s : State) (g : Nat) (f : Gang → Gang) : (s.modGang g f).pos = s.pos := rfl
@[simp] theorem State.modGang_nextId (s : State) (g : Nat) (f : Gang → Gang) : (s.modGang g f).nextId = s.nextId := rfl
@[simp] theorem State.modGang_base (s : State) (g : Nat) (f : Gang → Gang) : (s.modGang g f).base = s.base := rfl
@[simp] theorem State.modGang_win (s : State) (g : Nat) (f : Gang → Gang) : (s.modGang g f).win = s.win := rfl
@[simp] theorem State.modGang_engines (s : State) (g : Nat) (f : Gang → Gang) : (s.modGang g f).engines = s.engines := rfl
@[simp] theorem State.modGang_clusters (s : State) (g : Nat) (f : Gang → Gang) : (s.modGang g f).clusters = s.clusters := rfl
@[simp] theorem State.modGang_seqs (s : State) (g : Nat) (f : Gang → Gang) : (s.modGang g f).seqs = s.seqs := rfl
@[simp] theorem State.modGang_ctxs (s : State) (g : Nat) (f : Gang → Gang) : (s.modGang g f).ctxs = s.ctxs := rfl
@[simp] theorem State.modGang_queues (s : State) (g : Nat) (f : Gang → Gang) : (s.modGang g f).queues = s.queues := rfl
@[simp] theorem State.modGang_parts (s : State) (g : Nat) (f : Gang → Gang) : (s.modGang g f).parts = s.parts := rfl
@[simp] theorem State.modGang_accs (s : State) (g : Nat) (f : Gang → Gang) : (s.modGang g f).accs = s.accs := rfl
@[simp] theorem State.modGang_pends (s : State) (g : Nat) (f : Gang → Gang) : (s.modGang g f).pends = s.pends := rfl
@[simp] theorem State.modGang_banks (s : State) (g : Nat) (f : Gang → Gang) : (s.modGang g f).banks = s.banks := rfl
@[simp] theorem State.modGang_copies (s : State) (g : Nat) (f : Gang → Gang) : (s.modGang g f).copies = s.copies := rfl
@[simp] theorem State.modGang_comets (s : State) (g : Nat) (f : Gang → Gang) : (s.modGang g f).comets = s.comets := rfl
@[simp] theorem State.modGang_loopComets (s : State) (g : Nat) (f : Gang → Gang) : (s.modGang g f).loopComets = s.loopComets := rfl
@[simp] theorem State.modGang_parkedComets (s : State) (g : Nat) (f : Gang → Gang) : (s.modGang g f).parkedComets = s.parkedComets := rfl
@[simp] theorem State.modGang_ext (s : State) (g : Nat) (f : Gang → Gang) : (s.modGang g f).ext = s.ext := rfl
@[simp] theorem State.modGang_dev (s : State) (g : Nat) (f : Gang → Gang) : (s.modGang g f).dev = s.dev := rfl
@[simp] theorem State.modGang_mem (s : State) (g : Nat) (f : Gang → Gang) : (s.modGang g f).mem = s.mem := rfl
@[simp] theorem State.modGang_tags (s : State) (g : Nat) (f : Gang → Gang) : (s.modGang g f).tags = s.tags := rfl

/-! ### `State.modFe` -/

@[simp] theorem State.modFe_clk (s : State) (f : Engine → Engine) : (s.modFe f).clk = s.clk := rfl
@[simp] theorem State.modFe_agenda (s : State) (f : Engine → Engine) : (s.modFe f).agenda = s.agenda := rfl
@[simp] theorem State.modFe_free (s : State) (f : Engine → Engine) : (s.modFe f).free = s.free := rfl
@[simp] theorem State.modFe_focus (s : State) (f : Engine → Engine) : (s.modFe f).focus = s.focus := rfl
@[simp] theorem State.modFe_slot (s : State) (f : Engine → Engine) : (s.modFe f).slot = s.slot := rfl
@[simp] theorem State.modFe_pos (s : State) (f : Engine → Engine) : (s.modFe f).pos = s.pos := rfl
@[simp] theorem State.modFe_nextId (s : State) (f : Engine → Engine) : (s.modFe f).nextId = s.nextId := rfl
@[simp] theorem State.modFe_base (s : State) (f : Engine → Engine) : (s.modFe f).base = s.base := rfl
@[simp] theorem State.modFe_win (s : State) (f : Engine → Engine) : (s.modFe f).win = s.win := rfl
@[simp] theorem State.modFe_clusters (s : State) (f : Engine → Engine) : (s.modFe f).clusters = s.clusters := rfl
@[simp] theorem State.modFe_seqs (s : State) (f : Engine → Engine) : (s.modFe f).seqs = s.seqs := rfl
@[simp] theorem State.modFe_ctxs (s : State) (f : Engine → Engine) : (s.modFe f).ctxs = s.ctxs := rfl
@[simp] theorem State.modFe_queues (s : State) (f : Engine → Engine) : (s.modFe f).queues = s.queues := rfl
@[simp] theorem State.modFe_parts (s : State) (f : Engine → Engine) : (s.modFe f).parts = s.parts := rfl
@[simp] theorem State.modFe_gangs (s : State) (f : Engine → Engine) : (s.modFe f).gangs = s.gangs := rfl
@[simp] theorem State.modFe_accs (s : State) (f : Engine → Engine) : (s.modFe f).accs = s.accs := rfl
@[simp] theorem State.modFe_pends (s : State) (f : Engine → Engine) : (s.modFe f).pends = s.pends := rfl
@[simp] theorem State.modFe_banks (s : State) (f : Engine → Engine) : (s.modFe f).banks = s.banks := rfl
@[simp] theorem State.modFe_copies (s : State) (f : Engine → Engine) : (s.modFe f).copies = s.copies := rfl
@[simp] theorem State.modFe_comets (s : State) (f : Engine → Engine) : (s.modFe f).comets = s.comets := rfl
@[simp] theorem State.modFe_loopComets (s : State) (f : Engine → Engine) : (s.modFe f).loopComets = s.loopComets := rfl
@[simp] theorem State.modFe_parkedComets (s : State) (f : Engine → Engine) : (s.modFe f).parkedComets = s.parkedComets := rfl
@[simp] theorem State.modFe_ext (s : State) (f : Engine → Engine) : (s.modFe f).ext = s.ext := rfl
@[simp] theorem State.modFe_dev (s : State) (f : Engine → Engine) : (s.modFe f).dev = s.dev := rfl
@[simp] theorem State.modFe_mem (s : State) (f : Engine → Engine) : (s.modFe f).mem = s.mem := rfl
@[simp] theorem State.modFe_tags (s : State) (f : Engine → Engine) : (s.modFe f).tags = s.tags := rfl

/-! ### `State.modFs` -/

@[simp] theorem State.modFs_clk (s : State) (f : Stream → Stream) : (s.modFs f).clk = s.clk := rfl
@[simp] theorem State.modFs_agenda (s : State) (f : Stream → Stream) : (s.modFs f).agenda = s.agenda := rfl
@[simp] theorem State.modFs_free (s : State) (f : Stream → Stream) : (s.modFs f).free = s.free := rfl
@[simp] theorem State.modFs_focus (s : State) (f : Stream → Stream) : (s.modFs f).focus = s.focus := rfl
@[simp] theorem State.modFs_slot (s : State) (f : Stream → Stream) : (s.modFs f).slot = s.slot := rfl
@[simp] theorem State.modFs_pos (s : State) (f : Stream → Stream) : (s.modFs f).pos = s.pos := rfl
@[simp] theorem State.modFs_nextId (s : State) (f : Stream → Stream) : (s.modFs f).nextId = s.nextId := rfl
@[simp] theorem State.modFs_base (s : State) (f : Stream → Stream) : (s.modFs f).base = s.base := rfl
@[simp] theorem State.modFs_win (s : State) (f : Stream → Stream) : (s.modFs f).win = s.win := rfl
@[simp] theorem State.modFs_clusters (s : State) (f : Stream → Stream) : (s.modFs f).clusters = s.clusters := rfl
@[simp] theorem State.modFs_seqs (s : State) (f : Stream → Stream) : (s.modFs f).seqs = s.seqs := rfl
@[simp] theorem State.modFs_ctxs (s : State) (f : Stream → Stream) : (s.modFs f).ctxs = s.ctxs := rfl
@[simp] theorem State.modFs_queues (s : State) (f : Stream → Stream) : (s.modFs f).queues = s.queues := rfl
@[simp] theorem State.modFs_parts (s : State) (f : Stream → Stream) : (s.modFs f).parts = s.parts := rfl
@[simp] theorem State.modFs_gangs (s : State) (f : Stream → Stream) : (s.modFs f).gangs = s.gangs := rfl
@[simp] theorem State.modFs_accs (s : State) (f : Stream → Stream) : (s.modFs f).accs = s.accs := rfl
@[simp] theorem State.modFs_pends (s : State) (f : Stream → Stream) : (s.modFs f).pends = s.pends := rfl
@[simp] theorem State.modFs_banks (s : State) (f : Stream → Stream) : (s.modFs f).banks = s.banks := rfl
@[simp] theorem State.modFs_copies (s : State) (f : Stream → Stream) : (s.modFs f).copies = s.copies := rfl
@[simp] theorem State.modFs_comets (s : State) (f : Stream → Stream) : (s.modFs f).comets = s.comets := rfl
@[simp] theorem State.modFs_loopComets (s : State) (f : Stream → Stream) : (s.modFs f).loopComets = s.loopComets := rfl
@[simp] theorem State.modFs_parkedComets (s : State) (f : Stream → Stream) : (s.modFs f).parkedComets = s.parkedComets := rfl
@[simp] theorem State.modFs_ext (s : State) (f : Stream → Stream) : (s.modFs f).ext = s.ext := rfl
@[simp] theorem State.modFs_dev (s : State) (f : Stream → Stream) : (s.modFs f).dev = s.dev := rfl
@[simp] theorem State.modFs_mem (s : State) (f : Stream → Stream) : (s.modFs f).mem = s.mem := rfl
@[simp] theorem State.modFs_tags (s : State) (f : Stream → Stream) : (s.modFs f).tags = s.tags := rfl

/-! ### Components after an update -/

@[simp] theorem State.eng_setEng (s : State) (e j : Nat) (x : Engine) : (s.setEng e x).eng j = if j = e then x else s.eng j :=
  tget_tput ..

@[simp] theorem State.eng_modEng (s : State) (e j : Nat) (f : Engine → Engine) :
    (s.modEng e f).eng j = if j = e then f (s.eng e) else s.eng j := tget_tput ..

@[simp] theorem State.clu_modClu (s : State) (c j : Nat) (f : Cluster → Cluster) :
    (s.modClu c f).clu j = if j = c then f (s.clu c) else s.clu j := tget_tput ..

@[simp] theorem State.seq_modSeq (s : State) (q j : Nat) (f : Seq → Seq) :
    (s.modSeq q f).seq j = if j = q then f (s.seq q) else s.seq j := tget_tput ..

@[simp] theorem State.ctx_modCtx (s : State) (c j : Nat) (f : Context → Context) :
    (s.modCtx c f).ctx j = if j = c then f (s.ctx c) else s.ctx j := tget_tput ..

@[simp] theorem State.queue_modQueue (s : State) (q j : Nat) (f : SubQ → SubQ) :
    (s.modQueue q f).queue j = if j = q then f (s.queue q) else s.queue j := tget_tput ..

@[simp] theorem State.part_modPart (s : State) (p j : Nat) (f : Partition → Partition) :
    (s.modPart p f).part j = if j = p then f (s.part p) else s.part j := tget_tput ..

@[simp] theorem State.clu_setEng (s : State) (e : Nat) (x : Engine) (j : Nat) : (s.setEng e x).clu j = s.clu j := rfl
@[simp] theorem State.seq_setEng (s : State) (e : Nat) (x : Engine) (j : Nat) : (s.setEng e x).seq j = s.seq j := rfl
@[simp] theorem State.ctx_setEng (s : State) (e : Nat) (x : Engine) (j : Nat) : (s.setEng e x).ctx j = s.ctx j := rfl
@[simp] theorem State.queue_setEng (s : State) (e : Nat) (x : Engine) (j : Nat) : (s.setEng e x).queue j = s.queue j := rfl
@[simp] theorem State.part_setEng (s : State) (e : Nat) (x : Engine) (j : Nat) : (s.setEng e x).part j = s.part j := rfl
@[simp] theorem State.clu_modEng (s : State) (e : Nat) (f : Engine → Engine) (j : Nat) : (s.modEng e f).clu j = s.clu j := rfl
@[simp] theorem State.seq_modEng (s : State) (e : Nat) (f : Engine → Engine) (j : Nat) : (s.modEng e f).seq j = s.seq j := rfl
@[simp] theorem State.ctx_modEng (s : State) (e : Nat) (f : Engine → Engine) (j : Nat) : (s.modEng e f).ctx j = s.ctx j := rfl
@[simp] theorem State.queue_modEng (s : State) (e : Nat) (f : Engine → Engine) (j : Nat) : (s.modEng e f).queue j = s.queue j := rfl
@[simp] theorem State.part_modEng (s : State) (e : Nat) (f : Engine → Engine) (j : Nat) : (s.modEng e f).part j = s.part j := rfl
@[simp] theorem State.eng_modClu (s : State) (c : Nat) (f : Cluster → Cluster) (j : Nat) : (s.modClu c f).eng j = s.eng j := rfl
@[simp] theorem State.seq_modClu (s : State) (c : Nat) (f : Cluster → Cluster) (j : Nat) : (s.modClu c f).seq j = s.seq j := rfl
@[simp] theorem State.ctx_modClu (s : State) (c : Nat) (f : Cluster → Cluster) (j : Nat) : (s.modClu c f).ctx j = s.ctx j := rfl
@[simp] theorem State.queue_modClu (s : State) (c : Nat) (f : Cluster → Cluster) (j : Nat) : (s.modClu c f).queue j = s.queue j := rfl
@[simp] theorem State.part_modClu (s : State) (c : Nat) (f : Cluster → Cluster) (j : Nat) : (s.modClu c f).part j = s.part j := rfl
@[simp] theorem State.eng_modSeq (s : State) (q : Nat) (f : Seq → Seq) (j : Nat) : (s.modSeq q f).eng j = s.eng j := rfl
@[simp] theorem State.clu_modSeq (s : State) (q : Nat) (f : Seq → Seq) (j : Nat) : (s.modSeq q f).clu j = s.clu j := rfl
@[simp] theorem State.ctx_modSeq (s : State) (q : Nat) (f : Seq → Seq) (j : Nat) : (s.modSeq q f).ctx j = s.ctx j := rfl
@[simp] theorem State.queue_modSeq (s : State) (q : Nat) (f : Seq → Seq) (j : Nat) : (s.modSeq q f).queue j = s.queue j := rfl
@[simp] theorem State.part_modSeq (s : State) (q : Nat) (f : Seq → Seq) (j : Nat) : (s.modSeq q f).part j = s.part j := rfl
@[simp] theorem State.eng_modCtx (s : State) (c : Nat) (f : Context → Context) (j : Nat) : (s.modCtx c f).eng j = s.eng j := rfl
@[simp] theorem State.clu_modCtx (s : State) (c : Nat) (f : Context → Context) (j : Nat) : (s.modCtx c f).clu j = s.clu j := rfl
@[simp] theorem State.seq_modCtx (s : State) (c : Nat) (f : Context → Context) (j : Nat) : (s.modCtx c f).seq j = s.seq j := rfl
@[simp] theorem State.queue_modCtx (s : State) (c : Nat) (f : Context → Context) (j : Nat) : (s.modCtx c f).queue j = s.queue j := rfl
@[simp] theorem State.part_modCtx (s : State) (c : Nat) (f : Context → Context) (j : Nat) : (s.modCtx c f).part j = s.part j := rfl
@[simp] theorem State.eng_modQueue (s : State) (q : Nat) (f : SubQ → SubQ) (j : Nat) : (s.modQueue q f).eng j = s.eng j := rfl
@[simp] theorem State.clu_modQueue (s : State) (q : Nat) (f : SubQ → SubQ) (j : Nat) : (s.modQueue q f).clu j = s.clu j := rfl
@[simp] theorem State.seq_modQueue (s : State) (q : Nat) (f : SubQ → SubQ) (j : Nat) : (s.modQueue q f).seq j = s.seq j := rfl
@[simp] theorem State.ctx_modQueue (s : State) (q : Nat) (f : SubQ → SubQ) (j : Nat) : (s.modQueue q f).ctx j = s.ctx j := rfl
@[simp] theorem State.part_modQueue (s : State) (q : Nat) (f : SubQ → SubQ) (j : Nat) : (s.modQueue q f).part j = s.part j := rfl
@[simp] theorem State.eng_modPart (s : State) (p : Nat) (f : Partition → Partition) (j : Nat) : (s.modPart p f).eng j = s.eng j := rfl
@[simp] theorem State.clu_modPart (s : State) (p : Nat) (f : Partition → Partition) (j : Nat) : (s.modPart p f).clu j = s.clu j := rfl
@[simp] theorem State.seq_modPart (s : State) (p : Nat) (f : Partition → Partition) (j : Nat) : (s.modPart p f).seq j = s.seq j := rfl
@[simp] theorem State.ctx_modPart (s : State) (p : Nat) (f : Partition → Partition) (j : Nat) : (s.modPart p f).ctx j = s.ctx j := rfl
@[simp] theorem State.queue_modPart (s : State) (p : Nat) (f : Partition → Partition) (j : Nat) : (s.modPart p f).queue j = s.queue j := rfl
@[simp] theorem State.eng_modDev (s : State) (f : Device → Device) (j : Nat) : (s.modDev f).eng j = s.eng j := rfl
@[simp] theorem State.clu_modDev (s : State) (f : Device → Device) (j : Nat) : (s.modDev f).clu j = s.clu j := rfl
@[simp] theorem State.seq_modDev (s : State) (f : Device → Device) (j : Nat) : (s.modDev f).seq j = s.seq j := rfl
@[simp] theorem State.ctx_modDev (s : State) (f : Device → Device) (j : Nat) : (s.modDev f).ctx j = s.ctx j := rfl
@[simp] theorem State.queue_modDev (s : State) (f : Device → Device) (j : Nat) : (s.modDev f).queue j = s.queue j := rfl
@[simp] theorem State.part_modDev (s : State) (f : Device → Device) (j : Nat) : (s.modDev f).part j = s.part j := rfl
@[simp] theorem State.eng_modGang (s : State) (g : Nat) (f : Gang → Gang) (j : Nat) : (s.modGang g f).eng j = s.eng j := rfl
@[simp] theorem State.clu_modGang (s : State) (g : Nat) (f : Gang → Gang) (j : Nat) : (s.modGang g f).clu j = s.clu j := rfl
@[simp] theorem State.seq_modGang (s : State) (g : Nat) (f : Gang → Gang) (j : Nat) : (s.modGang g f).seq j = s.seq j := rfl
@[simp] theorem State.ctx_modGang (s : State) (g : Nat) (f : Gang → Gang) (j : Nat) : (s.modGang g f).ctx j = s.ctx j := rfl
@[simp] theorem State.queue_modGang (s : State) (g : Nat) (f : Gang → Gang) (j : Nat) : (s.modGang g f).queue j = s.queue j := rfl
@[simp] theorem State.part_modGang (s : State) (g : Nat) (f : Gang → Gang) (j : Nat) : (s.modGang g f).part j = s.part j := rfl
@[simp] theorem State.clu_modFe (s : State) (f : Engine → Engine) (j : Nat) : (s.modFe f).clu j = s.clu j := rfl
@[simp] theorem State.seq_modFe (s : State) (f : Engine → Engine) (j : Nat) : (s.modFe f).seq j = s.seq j := rfl
@[simp] theorem State.ctx_modFe (s : State) (f : Engine → Engine) (j : Nat) : (s.modFe f).ctx j = s.ctx j := rfl
@[simp] theorem State.queue_modFe (s : State) (f : Engine → Engine) (j : Nat) : (s.modFe f).queue j = s.queue j := rfl
@[simp] theorem State.part_modFe (s : State) (f : Engine → Engine) (j : Nat) : (s.modFe f).part j = s.part j := rfl
@[simp] theorem State.clu_modFs (s : State) (f : Stream → Stream) (j : Nat) : (s.modFs f).clu j = s.clu j := rfl
@[simp] theorem State.seq_modFs (s : State) (f : Stream → Stream) (j : Nat) : (s.modFs f).seq j = s.seq j := rfl
@[simp] theorem State.ctx_modFs (s : State) (f : Stream → Stream) (j : Nat) : (s.modFs f).ctx j = s.ctx j := rfl
@[simp] theorem State.queue_modFs (s : State) (f : Stream → Stream) (j : Nat) : (s.modFs f).queue j = s.queue j := rfl
@[simp] theorem State.part_modFs (s : State) (f : Stream → Stream) (j : Nat) : (s.modFs f).part j = s.part j := rfl

/-! ### The stream in focus -/

@[simp] theorem Engine.str_modStr (x : Engine) (sec b : Bool) (f : Stream → Stream) :
    (x.modStr sec f).str b = if b = sec then f (x.str sec) else x.str b := by
  cases sec <;> cases b <;> rfl

@[simp] theorem Engine.modStr_modStr (x : Engine) (sec : Bool) (f g : Stream → Stream) :
    (x.modStr sec f).modStr sec g = x.modStr sec (g ∘ f) := by cases sec <;> rfl

@[simp] theorem State.modEng_modEng (s : State) (e : Nat) (f g : Engine → Engine) :
    (s.modEng e f).modEng e g = s.modEng e (g ∘ f) := by
  simp [State.modEng, State.setEng, State.eng]

@[simp] theorem State.modFe_modFe (s : State) (f g : Engine → Engine) : (s.modFe f).modFe g = s.modFe (g ∘ f) :=
  State.modEng_modEng ..

@[simp] theorem State.modFs_modFs (s : State) (f g : Stream → Stream) : (s.modFs f).modFs g = s.modFs (g ∘ f) := by
  simp only [State.modFs, State.modFe_focus, State.modFe_modFe]
  congr 1
  funext x
  simp

@[simp] theorem State.fe_modFe (s : State) (f : Engine → Engine) : (s.modFe f).fe = f s.fe := by simp [State.fe, State.modFe]
@[simp] theorem State.fs_modFs (s : State) (f : Stream → Stream) : (s.modFs f).fs = f s.fs := by
  simp [State.fs, State.modFs]

end Sys2Proof.Machine
end

