-- ==== Sys2Proof/Safety.lean ====
section
/-!
DEFINITION. The terms that claims about the machine are written in: a run that never faults, the invariant of the state's
canonical forms, and what the result of a slot instruction is, written out field by field so that everything not named is
unchanged.
-/
namespace Sys2Proof.Safety

open Sys2Proof.Machine

/-! ### Safe runs and the invariant -/

/-- The state is one whose memory and tags are in canonical form: bytes strictly rising and none equal to what an
unlisted location reads as, tagged quanta strictly rising. -/
def MemInv (s : State) : Prop := Memory.wf s.mem = true ∧ s.tags.Pairwise (· < ·)

/-- A step from s is safe: it answers a next state. -/
def Safe (s : State) : Prop := ∃ t, step s = .next t

/-! ### Changes of the engine and the stream in focus; nothing else changes but the slot status -/

/-- The engine in focus becomes f of itself; every other component of the state stays. -/
def onEngine (s : State) (f : Engine → Engine) : State :=
  { s with slot := .ok, engines := tput .reset s.engines s.focus.eng (f s.fe) }

/-- The stream in focus becomes f of itself; every other component of the state stays. -/
def onStream (s : State) (f : Stream → Stream) : State := onEngine s fun x => x.modStr s.focus.sec f

/-- Nothing changes. -/
def same (s : State) : State := { s with slot := .ok }

/-! ### Results of a fixed latency (R136, R138, R139) -/

/-- The register that a g destination names; g0 discards writes. -/
def gTarget (d : GDst) (v : Word) : CDst :=
  match d with
  | .reg n => if n.val = 0 then .none else .g n.val v
  | .que => .none

/-- A g result v of latency L with flags fl: a new scalar-queue entry filled after L clks, and a register write and flags
that commit L issue cycles later. -/
def gResult (s : State) (d : GDst) (L : Nat) (v : Word) (fl : Flags) : State :=
  onStream s fun y =>
    { y with
      sq := ⟨v, .at (s.clk.toNat + L)⟩ :: y.sq
      resv := y.resv + 1
      pend := y.pend ++ [⟨y.cycle + L, gTarget d v, fl⟩] }

/-- An h result of latency L: it is not pushed. -/
def hResult (s : State) (d : Fin 16) (L : Nat) (h : Handle) : State :=
  onStream s fun y => { y with pend := y.pend ++ [⟨y.cycle + L, .h d.val h, 0⟩] }

/-- A p result of latency L: it is not pushed. -/
def pResult (s : State) (d : Fin 8) (L : Nat) (v : PredBits) (fl : Flags) : State :=
  onStream s fun y => { y with pend := y.pend ++ [⟨y.cycle + L, .p d.val v, fl⟩] }

/-- The next bundle of the stream comes from `a`. -/
def goes (s : State) (a : Word) : State := onStream s fun y => { y with npc := a }

/-! ### Vector sources and destinations (R85, R135, R136, R138, R201) -/

/-- Reading v source `src` as t in state s gives v and leaves s': a register under the rotation base, a filled queue entry,
a long immediate or constant in every element, or the next element of a bound read stream, which moves on. -/
inductive ReadsV (t : ElemType) : VSrc → State → State → Vec → Prop where
  | reg (n : Fin 32) (s : State) : ReadsV t (.reg n) s s (tget 0 s.fe.v (physV s.fe.rb n.val))
  | queFilled (q : Fin 16) (s : State) (e : VEnt) (l : List VEnt) :
      s.fe.vq.drop (q.val + s.fe.vresv) = e :: l → e.fill.filled s.clk = true → ReadsV t (.que q) s s e.val
  | queEmpty (q : Fin 16) (s : State) : s.fe.vq.drop (q.val + s.fe.vresv) = [] → ReadsV t (.que q) s s 0
  | long (w : Word) (s : State) : ReadsV t (.long w) s s (splat t w.toNat)
  | const (c : Fin 64) (s : State) : ReadsV t (.const c) s s (splat t (constBits t c))
  | strm (j : Fin 8) (s : State) (b : Binding) (v : Vec) (w : List Vec) :
      s.bind j.val = some b → b.write = false → b.next < b.total → b.window = v :: w →
      ReadsV t (.strm j) s (s.setBind j.val (some { b with next := b.next + 1, window := w })) v

/-- A v result v of latency L under byte mask m takes s to s': a register, merged, under the rotation base; the queue
alone; or the next element of a bound write stream that has room. Registers and the queue get a queue entry. -/
inductive WritesV (L : Nat) (m : PredBits) (v : Vec) (fl : Flags) : VDst → State → State → Prop where
  | reg (n : Fin 32) (s : State) :
      WritesV L m v fl (.reg n) s
        (onEngine s fun x =>
          { x.modStr s.focus.sec fun y =>
              { y with pend := y.pend ++ [⟨y.cycle + L, .v (physV x.rb n.val) m v, fl⟩] } with
            vq := ⟨mergeBytes m v (tget 0 x.v (physV x.rb n.val)), .at (s.clk.toNat + L)⟩ :: x.vq
            vresv := x.vresv + 1 })
  | que (s : State) :
      WritesV L m v fl .que s
        (onEngine s fun x =>
          { x.modStr s.focus.sec fun y => { y with pend := y.pend ++ [⟨y.cycle + L, .none, fl⟩] } with
            vq := ⟨mergeBytes m v 0, .at (s.clk.toNat + L)⟩ :: x.vq
            vresv := x.vresv + 1 })
  | strm (k : Fin 8) (s : State) (b : Binding) :
      s.bind k.val = some b → b.write = true → b.next + strmPending s.fs k.val < b.total →
      WritesV L m v fl (.strm k) s
        (onStream s fun y => { y with pend := y.pend ++ [⟨y.cycle + L, .strm k.val (mergeBytes m v 0), fl⟩] })

/-- A v result of latency L takes s to u: element i of type t is (f i).1 in its w(t) bits, the bytes of the elements that `act` makes
active are written, and the flags are those of the active elements (R201). -/
def VGives (s : State) (d : VDst) (L : Nat) (t : ElemType) (act : PredBits) (f : Nat → Nat × Flags) (u : State) : Prop :=
  ∃ (m : PredBits) (v : Vec) (fl : Flags),
    (∀ i, i < t.lanes → lane t v i = (f i).1 % 2 ^ t.width) ∧
    (∀ j, j < 256 → m.getLsbD j = act.getLsbD (j * 8 / t.width * t.width / 8)) ∧
    (∀ k, k < 4 → (fl.getLsbD k = true ↔ ∃ i, i < t.lanes ∧ act.getLsbD (i * t.width / 8) = true ∧ (f i).2.getLsbD k = true)) ∧
    WritesV L m v fl d s u

/-- The draws of an operation that rounds n elements: under SR the seed moves on by n draws and element i takes the i-th; otherwise there
are none (R45). -/
def Draws (m : RMode) (n : Nat) (s t : State) (r : Nat → Nat) : Prop :=
  if m = .sr then
    t = { s with engines := tput .reset s.engines s.focus.eng { s.fe with rseed := (drawsFrom n s.fe.rseed).2 } } ∧
      ∀ i, i < n → some (r i) = (drawsFrom n s.fe.rseed).1[i]?
  else t = s ∧ ∀ i, r i = 0

/-- Every byte. -/
def everyByte : PredBits := .allOnes 256

/-! ### Accesses at a port (R74, R175, R177, R183, R396) -/

/-- Handle h permits an access with right k to the n bytes from address a (R74). -/
def Permits (h : Handle) (k : Nat) (a : Int) (n : Nat) : Prop :=
  h.tag = true ∧ h.has k = true ∧ (h.lowB : Int) ≤ a ∧ a + n ≤ h.highB

/-- The port of the stream in focus admits an access to the parts of handle h's object, which has entry x: every piece has a
location, ps being the pieces at their locations; a core's cluster samples nothing, and the object is no copy-queue window. -/
def Admits (s : State) (h : Handle) (parts : List Part) (x : ObjEnt) (ps : List Part) : Prop :=
  parts ≠ [] ∧ s.objEnt s.fctx h.oid = some x ∧
  (isSeq s.focus.eng = true ∨ (h.oid ≠ cqOid ∧ (s.clu (cluOf s.focus.eng)).hscfg.getLsbD 0 = false ∧ (x.space.val = 0 → x.clu = cluOf s.focus.eng))) ∧
  (isSeq s.focus.eng = true → x.space.val ≠ 0) ∧
  ∃ locs : List (Part × Nat), s.placeParts s.fctx h.oid x parts = locs.map (fun q => (q.1, .at_ q.2)) ∧
    ps = locs.map fun q => { q.1 with loc := q.2 }

/-- The access in flight that the stream in focus has sent to its port. -/
def sent (s : State) (kind : AccKind) (cls : BitVec 4) (ann : Ann) (scope : Scope) (t : ElemType) (h : Handle) (x : ObjEnt)
    (ps : List Part) (tagQ : Option (Nat × Bool)) (dst : ADst) (tok : Option Nat) (far : Bool := false) : Access :=
  { id := s.nextId, task := s.taskOf s.focus.eng, eng := s.focus.eng, sec := s.focus.sec, kind := kind, cls := cls, ann := ann, scope := scope,
    sobj := h.has rS, window := x.space.val = 4, far := far, t := t, parts := ps, tagQ := tagQ, dst := dst, tok := tok, vis := 0,
    taken := none, takenTag := false, obj := (s.fctx, h.oid), parked := false, pc := s.fs.pc }

/-- The stream in focus charges token w by n. -/
def charge (w n : Nat) (y : Stream) : Stream := { y with toks := tput 0 y.toks w (.ofNat 32 ((y.tok w).toNat + n)) }

/-- A scalar-queue entry that access `id` will fill. -/
def awaitG (id : Nat) (y : Stream) : Stream := { y with sq := ⟨0, .token id⟩ :: y.sq, resv := y.resv + 1 }

/-- A vector-queue entry that access `id` will fill: the loaded bytes over the old register, or over zero. -/
def awaitV (id : Nat) (d : VDst) (x : Engine) : Engine :=
  { x with
    vq := ⟨match d with | .reg n => tget 0 x.v (physV x.rb n.val) | _ => 0, .token id⟩ :: x.vq
    vresv := x.vresv + 1 }

/-- The active elements of type t under predicate pr, in ascending order (R134, R186). -/
def activeLanes (s : State) (t : ElemType) (pr : Pred) : List Nat :=
  (rangeFrom 0 t.lanes).filter fun i => (s.active pr).getLsbD (i * t.width / 8)

/-- A token-delivered operation has been sent: f has changed the engine in focus, and access a is in flight. -/
def sends (s : State) (f : Engine → Engine) (a : Access) : State :=
  { onEngine s f with accs := s.accs ++ [a], nextId := s.nextId + 1 }

/-- A write has been sent: access a is in flight and nothing else changes. -/
def writes (s : State) (a : Access) : State := { s with slot := .ok, accs := s.accs ++ [a], nextId := s.nextId + 1 }

/-! ### Matrix tiles (R229, R231) -/

/-- The tile of `rows` rows of `bytes` bytes at address a of handle h's object, `stride` apart, lies at location l of the core's scratchpad
and the handle permits every row with right k. -/
def Tile (s : State) (h : Handle) (k : Nat) (a : Int) (rows bytes stride l : Nat) : Prop :=
  Permits h k a bytes ∧ Permits h k (a + (rows - 1) * stride) bytes ∧ a % 64 = 0 ∧ stride % 64 = 0 ∧ (k = rW → h.has rS = false) ∧
  ∃ o, s.objEnt s.fctx h.oid = some o ∧ o.space.val = 0 ∧ o.clu = cluOf s.focus.eng ∧
    a.toNat + (rows - 1) * stride + bytes ≤ o.size ∧ l = locSp o.clu (o.base * 16384 + a.toNat)

/-- The matrix channel is occupied for ii clks. -/
def channel (s : State) (ii : Nat) (e : Engine) : Engine := { e with chanFree := s.clk.toNat + ii }

/-- The window of operation op opens for ii clks (R110, R243): its operand bytes stand as the primary stream sees them. -/
def opens (s : State) (ii : Nat) (op : ChanOp) (e : Engine) : Engine :=
  { channel s ii e with chan := some ⟨op, s.clk.toNat + ii, s.operands s.focus.eng op, 0, []⟩ }

/-- Accumulator d, or its pair, is being updated for n clks, and no less long than before. -/
def updating (s : State) (d : Nat) (pair : Bool) (n : Nat) (e : Engine) : Engine :=
  let t := s.clk.toNat + n
  let f := tput 0 e.accFree d (max (tget 0 e.accFree d) t)
  { e with accFree := if pair then tput 0 f (d + 1) (max (tget 0 f (d + 1)) t) else f }

/-- Every byte of memory reads as before but for those of row i at l + i·stride, where the last row that covers a byte stands. -/
def RowsWritten (s t : State) (l stride : Nat) (rows : List (List Byte)) : Prop :=
  ∀ a, (∀ i, i < rows.length → ¬ (l + i * stride ≤ a ∧ a < l + i * stride + (rows.getD i []).length)) ∧ mget t.mem a = mget s.mem a ∨
    ∃ i, i < rows.length ∧ l + i * stride ≤ a ∧ a < l + i * stride + (rows.getD i []).length ∧
      (∀ j, i < j → j < rows.length → ¬ (l + j * stride ≤ a ∧ a < l + j * stride + (rows.getD j []).length)) ∧
      mget t.mem a = (rows.getD i []).getD (a - (l + i * stride)) 0

/-- The open window of engine x leaves accumulator d alone, and so does what waits for it (R245). -/
def Untouched (x : Engine) (d : Fin 8) : Prop := ∀ j, x.chan = some j → j.op.touches d = false ∧ ∀ o ∈ j.after, o.acc ≠ d

/-- n bytes at address a of handle h's object lie at location l of the scratchpad of the core's own cluster. -/
def InScratchpad (s : State) (h : Handle) (a n l : Nat) : Prop :=
  ∃ o, s.objEnt s.fctx h.oid = some o ∧ o.space.val = 0 ∧ o.clu = cluOf s.focus.eng ∧ a + n ≤ o.size ∧
    l = locSp o.clu (o.base * 16384 + a)

/-- From s to t the bytes bs have been written at l, and every other byte of memory reads as before. -/
def Stored (s t : State) (l : Nat) (bs : List Byte) : Prop :=
  ∀ a, mget t.mem a = if l ≤ a ∧ a < l + bs.length then bs.getD (a - l) 0 else mget s.mem a

/-- The operation p ends: it is outstanding no more and the token that it names falls by one. -/
def ends (s : State) (p : PendOp) : State :=
  let f (w : Nat) (y : Stream) : Stream := { y with toks := tput 0 y.toks w (.ofNat 32 ((y.tok w).toNat - 1)) }
  { s with
    pends := s.pends.filter (·.id ≠ p.id)
    engines := match p.tok with | none => s.engines | some w => tput .reset s.engines p.eng ((s.eng p.eng).modStr p.sec (f w)) }

/-- An operation of the stream in focus is outstanding under token w. -/
def pends (s : State) (w : Nat) (k : PendKind) : State :=
  { onStream s (charge w 1) with
    pends := s.pends ++ [⟨s.nextId, s.focus.eng, s.focus.sec, some w, k⟩]
    nextId := s.nextId + 1 }

/-- The cluster that a form names by g source a: the core's own, or on a sequencer the one at that index of the context's set (R465). -/
def NamesCluster (s : State) (a : GSrc) (c : Nat) : Prop :=
  (isSeq s.focus.eng = false ∧ c = cluOf s.focus.eng) ∨
    (isSeq s.focus.eng = true ∧ ∃ i, s.g? .n64 a = some i ∧ (cluList (s.ctx s.fctx).clset)[i.toNat]? = some c)

/-- A value of n bytes that lands in dst under token w, as the stream in focus sends it. -/
def landing (s : State) (ann : Ann) (n v : Nat) (dst : ADst) (w : Nat) (tag : Bool) : Access :=
  { id := s.nextId, task := s.taskOf s.focus.eng, eng := s.focus.eng, sec := s.focus.sec, kind := .value, cls := 0, ann := ann, scope := .dev,
    sobj := false, window := false, far := false, t := .n64, parts := [⟨0, 0, n, v⟩], tagQ := none, dst := dst, tok := some w, vis := 0, taken := none, takenTag := tag,
    obj := (noCtx, 0), parked := false, pc := s.fs.pc }

/-- The g result v is on its way to d under token w. -/
def deliversG (s : State) (d : GDst) (w : Nat) (v : Word) : State :=
  { onStream s (fun y => awaitG s.nextId (charge w 1 y)) with
    accs := s.accs ++ [landing s .plain 8 v.toNat (.g d) w false], nextId := s.nextId + 1 }

/-- The handle h is on its way to register d under token w. -/
def deliversH (s : State) (d : Fin 16) (w : Nat) (h : Handle) : State :=
  { onStream s (charge w 1) with accs := s.accs ++ [landing s .plain 16 h.bits.toNat (.h d.val) w h.tag], nextId := s.nextId + 1 }

/-- The operation p, outstanding under its token, waits for a queue entry too. -/
def pendsG (s : State) (w : Nat) (k : PendKind) : State :=
  { onStream s (fun y => awaitG s.nextId (charge w 1 y)) with
    pends := s.pends ++ [⟨s.nextId, s.focus.eng, s.focus.sec, some w, k⟩]
    nextId := s.nextId + 1 }

/-- The n bytes at address a of handle h's object, in shared bank memory or the fast tier, lie at l and may be read as a record (R271). -/
def RecordAt (s : State) (h : Handle) (a : Int) (n l : Nat) : Prop :=
  Permits h rR a n ∧ a % 64 = 0 ∧ ∃ o, s.objEnt s.fctx h.oid = some o ∧ (o.space.val = 1 ∨ o.space.val = 2) ∧ a.toNat + n ≤ o.size ∧
    s.place s.fctx h.oid o a.toNat = .at_ l

/-! ### Graph instructions (R26, R27, R277, R281) -/

/-- Sequencer q, in focus, runs context c. -/
def OnSequencer (s : State) (q c : Nat) : Prop := q < 4 ∧ s.focus = ⟨48 + q, false⟩ ∧ (s.seq q).ctx = some c ∧ c < 1024

/-- What a sequencer's engine holds past an operator boundary: its issue count, and under QCTX's keep its g registers, scalar queue, loop stack,
slack, tokens, rotation base and arithmetic CSRs (R26, R276). -/
def boundaryEngine (keep : Bool) (x : Engine) : Engine :=
  let y := x.prim
  let z : Stream := { Stream.reset with cycle := y.cycle, lastClk := y.lastClk }
  if keep then
    { Engine.reset with
      prim := { z with g := y.g, sq := y.sq, loops := y.loops, nloops := y.loops, slack := y.slack, nslack := y.slack, toks := y.toks }
      rb := x.rb, astat := x.astat, rmode := x.rmode, rseed := x.rseed }
  else { Engine.reset with prim := z }

/-- The operator boundary after a graph instruction of context c on sequencer q that changed the context by f: the next word is n, and everything not
named stays. -/
def boundary (s : State) (q c : Nat) (f : Context → Context) (n : Nat) : State :=
  { s with
    slot := .ok
    ctxs := tput .reset s.ctxs c { f (s.ctx c) with bpc := n, opstep := (s.ctx c).opstep + 1 }
    seqs := tput .reset s.seqs q { s.seq q with routine := .none, words := [], nextBpc := none, tile := 0 }
    engines := tput .reset s.engines (48 + q) (boundaryEngine (s.ctx c).keep (s.eng (48 + q))) }

/-- Shape register k becomes v. -/
def setShape (k : Nat) (v : Word) (x : Context) : Context := { x with z := tput 0 x.z k v }

/-- From s to t a graph instruction has ended and bytecode goes on at word n. -/
def EndsAt (s t : State) (q c n : Nat) : Prop :=
  t.slot = .ok ∧ (t.ctx c).bpc = n ∧ (t.ctx c).opstep = (s.ctx c).opstep + 1 ∧ (t.ctx c).st = (s.ctx c).st ∧
    (t.seq q).words = [] ∧ (t.seq q).routine = .none ∧ (t.seq q).ctx = some c ∧ t.gangs = s.gangs ∧ t.accs = s.accs

/-- The context has given its sequencer up and waits for a; its instruction runs again from word n. -/
def WaitsAt (t : State) (q c n : Nat) (a : Await) : Prop :=
  (t.ctx c).st = .waiting ∧ (t.ctx c).awaits = a ∧ (t.ctx c).bpc = n ∧ (t.seq q).ctx = none ∧ (t.ctx c).seq = none

/-- From s to t memory keeps every byte but those of context c's save area and, where the routine on sequencer q had armed exchanges, of the
collective table (R347, R376). -/
def LeavesMemory (s t : State) (q c : Nat) : Prop :=
  let l := locFast (s.ctx c).part.val (fld (s.ctx c).gsa 12 36 * 4096)
  ∀ a, ((s.ctx c).gsa = 0 ∨ a < l ∨ l + 4096 ≤ a) → ((s.seq q).coll = [] ∨ a < collLoc ∨ collLoc + 2 ^ 18 ≤ a) → mget t.mem a = mget s.mem a

/-- Descriptor d of context c's image can be read and is v (R281, R283). -/
def Descriptor (s : State) (c : Nat) (d : Desc) (v : DescVal) : Prop := d.toNat < s.ndesc c ∧ s.desc c d.toNat = v ∧ v.bad = false

/-- The 16 words of v, with the tag of its handle, have been written at l. -/
def DescWritten (s t : State) (l : Nat) (v : DescVal) : Prop :=
  Stored s t l (v.w.flatMap fun w => leBytes 8 w.toNat) ∧ (l < 2 ^ 52 → tagGet t.tags (l / 16 + 1) = v.tag)

/-- Descriptor d names a 64-bit word of shared bank memory that SIGNAL and WAITE may use, at location l (R292). -/
def WordAt (s : State) (c : Nat) (d : Desc) (l : Nat) : Prop :=
  ∃ v x, Descriptor s c d v ∧ v.valid = true ∧ v.fmt = .n64 ∧ v.rank = 0 ∧ v.layout = 0 ∧ Permits v.handle rA v.handle.cur 8 ∧
    v.handle.cur % 8 = 0 ∧ s.objEnt c v.handle.oid = some x ∧ x.space.val = 1 ∧ v.handle.cur + 8 ≤ x.size ∧
    l = locSbm (x.base + v.handle.cur)

/-! ### Operators (R301, R321) -/

/-- The operand words of each graph operator (R282). -/
def operatorWords : Instr → Option Nat
  | .copy .. | .softmax .. | .reduce .. | .fft .. | .allreduce .. | .reducescatter .. | .allgather .. | .alltoall .. | .broadcast ..
  | .reshard .. => some 2
  | .convert .. | .permute .. | .matmul .. | .gather .. | .scatter .. | .topk .. => some 3
  | .routeDispatch .. | .routeCombine .. => some 4
  | .attn x => some (5 + x.mask.isSome.toNat)
  | .norm x => some (3 + x.gamma.isSome.toNat + x.beta.isSome.toNat)
  | .eltw _ _ _ _ b => some (match b with | .none => 2 | _ => 3)
  | _ => none

/-- The members `ms` of the operator i, what its gangs run, and the word after it: one operator alone, or a FUSE with the members that follow it (R321). -/
def OperatorOf (s : State) (c : Nat) (i : Instr) (ms : List OpMember) (lib : List Instr) (next : Nat) : Prop :=
  (∃ nw, operatorWords i = some nw ∧ ms = [⟨i, [], (s.ctx c).bpc⟩] ∧ lib = [i] ∧ next = (s.ctx c).bpc + 1 + nw) ∨
    (∃ elide n, i = .fuse elide n ∧ s.fuseMembers c ((s.ctx c).bpc + 1) n.toNat = some (ms, next) ∧ fuseOk (s.opEnv c) (ms.map (·.i)) = true ∧
      lib = i :: ms.map (·.i))

/-- In stream z, g result v of operation id has landed in d: its queue entry is filled and its register written; nothing else of the queue and
the g registers differs from y. -/
def LandedG (y z : Stream) (id : Nat) (d : GDst) (v : Word) : Prop :=
  z.sq = y.sq.map (fun q => if q.fill = .token id then ⟨v, .ready⟩ else q) ∧
    ∀ k, tget 0 z.g k = if d = .que ∨ k = 0 ∨ (∀ n : Fin 32, d = .reg n → n.val ≠ k) then tget 0 y.g k else v

/-- Token w of the stream is one lower in z than in y. -/
def TokenFalls (y z : Stream) (w : Nat) : Prop := z.tok w = .ofNat 32 ((y.tok w).toNat - 1)

/-! ### Comets (R331, R336, R337) -/

/-- The element and the bytes of one element of a comet's data (R331). -/
def cometElem (efmt : Nat) : ElemType :=
  match efmt with
  | 0 => .f32 | 1 => .i32 | 2 => .f16 | 3 => .bf16 | 4 => .n32 | _ => .n8

/-- The sum, the maximum or the minimum of a buffer element and a comet's element: `red` 0, 1 or 2. -/
def cometReduce (red efmt old new : Nat) : Nat :=
  if efmt = 5 then (if red = 1 then max old new else min old new)
  else if red = 1 then (minMaxElem (cometElem efmt) true old new).1
  else if red = 2 then (minMaxElem (cometElem efmt) false old new).1
  else if efmt = 4 then (dxwStore (dxwRead old + dxwRead new)).1
  else (addElem (cometElem efmt) false .rne old new).1

/-- From s to t the bytes bs have been written over the placed runs ls (location, object offset, length), one run after another; every other byte of
memory stays. -/
def StoredRuns : List (Nat × Nat × Nat) → List Byte → State → State → Prop
  | [], _, s, t => ∀ a, mget t.mem a = mget s.mem a
  | (l, _, n) :: ls, bs, s, t => ∃ u, Stored s u l (bs.take n) ∧ StoredRuns ls (bs.drop n) u t

/-- From s to t the buffer that lies in the runs ls has taken a comet's data x: WR (op 3) writes it and the reductions (0, 1, 2, or 4 with its FOP)
replace each element; every other byte of memory stays. -/
def Takes (op fop efmt : Nat) (ls : List (Nat × Nat × Nat)) (x : List Byte) (s t : State) : Prop :=
  ∃ bs : List Byte, bs.length = x.length ∧ StoredRuns ls bs s t ∧ (op = 3 → bs = x) ∧
    (op ≠ 3 →
      let b := (cometElem efmt).width / 8
      let old := ls.flatMap fun q => s.bytes q.1 q.2.2
      ∀ i, (i + 1) * b ≤ x.length → leNat ((bs.drop (i * b)).take b) =
        cometReduce (if op = 4 then fop else op) efmt (leNat ((old.drop (i * b)).take b)) (leNat ((x.drop (i * b)).take b)) % 2 ^ (cometElem efmt).width)

/-- Operation `id` leaves its stream's elastic buffer. -/
def unlag (s : State) (e : Nat) (sec : Bool) (id : Nat) : State :=
  { s with engines := tput .reset s.engines e ((s.eng e).modStr sec fun y => { y with lags := y.lags.filter (·.id ≠ id) }) }

/-! ### Orrery (R401, R402) -/

/-- The command at the head of partition p's ring, x being its registers. -/
def ringCmd (x : Partition) (p : Nat) (s : State) : List Word :=
  (rangeFrom 0 4).map fun k => s.rd64 (locFast p (fld x.orcbase 6 42 * 64 + 32 * (x.orcRidx.toNat % 2 ^ (fld x.orcbase 0 4 + 4))) + 8 * k)

/-- From s to t command w of partition p, whose registers were x with no event held, has ended: RIDX moves on, and its event of KIND `kind` with `detail`
goes onto the event ring, or is held while that is full. -/
def CommandEnds (x : Partition) (s t : State) (p : Nat) (w : List Word) (kind detail : Nat) : Prop :=
  let w0 := w.getD 0 0
  let w1 := w.getD 1 0
  let n := 2 ^ (fld x.orebase 0 4 + 4)
  let e := [pack [(32, 32, fld w0 32 32), (16, 10, fld w0 8 10), (8, 8, detail), (0, 8, kind)], pack [(63, 1, w1.toNat / 2 ^ 63), (0, 20, fld w1 0 20)], 0, 0]
  (t.part p).orcRidx = x.orcRidx + 1 ∧ (t.part p).job = .idle ∧
    if ringRoom x.oreWidx x.oreCons n then
      Stored s t (locFast p (fld x.orebase 6 42 * 64 + 32 * (x.oreWidx.toNat % n))) (e.flatMap fun v => leBytes 8 v.toNat) ∧
        (t.part p).oreWidx = x.oreWidx + 1
    else (∀ a, mget t.mem a = mget s.mem a) ∧ (t.part p).orEvents = [e]

/-- Nothing of partition p waits: no eviction under way, no event held, no command outside the ring. -/
def OrreryCalm (s : State) (p : Nat) : Prop := (s.part p).evicts = [] ∧ (s.part p).orEvents = [] ∧ (s.part p).cmds = []

/-! ### Records of errors and notifications (R384, R385, R424) -/

/-- From s to t an error record of a fault with unit, place, severity, location and object has been written onto the error ring, or dropped where it is full, and counted. -/
def ErrorRecord (s t : State) (unit place sev : Nat) (loc : Word) (obj : Option (Nat × Nat)) : Prop :=
  let d := s.dev
  let n := 2 ^ (fld d.errbase 0 4 + 6)
  let w3 := match obj with | some (c, o) => pack [(30, 1, 1), (20, 10, c), (0, 20, o)] | none => 0
  let r := [pack [(48, 16, d.errWidx.toNat), (16, 8, unit), (8, 8, place), (0, 8, sev)], loc, s.clk, w3]
  t.dev.cecnt = (if sev = 1 then d.cecnt + 1 else d.cecnt) ∧ t.dev.uecnt = (if sev = 2 ∨ sev = 3 then d.uecnt + 1 else d.uecnt) ∧
    if ringRoom d.errWidx d.errCons n then
      Stored s t (locFast 0 (fld d.errbase 5 43 * 32 + 32 * (d.errWidx.toNat % n))) (r.flatMap fun v => leBytes 8 v.toNat) ∧
        t.dev.errWidx = d.errWidx + 1
    else (∀ a, mget t.mem a = mget s.mem a) ∧ t.dev.errWidx = d.errWidx

/-- From s to t a notification with words w0 and w1 has gone out at queue q, whose registers were x: into its ring in the fast tier with its phase, or
to the host. -/
def Notifies (x : SubQ) (s t : State) (q : Nat) (w0 w1 : Word) : Prop :=
  let n := 2 ^ (x.lnent + 4)
  let k := x.nwidx.toNat
  (t.queue q).nwidx = x.nwidx + 1 ∧
    if x.nbase.getLsbD 63 then ∀ a, mget t.mem a = mget s.mem a
    else Stored s t (locFast x.part.val (fld x.nbase 4 59 * 16 + 16 * (k % n)))
      (leBytes 8 w0.toNat ++ leBytes 8 (w1 ||| pack [(15, 1, k / n + 1)]).toNat)

/-- The second word of the notification of a record w (R384). -/
def noteWord (w : List Word) (status detail : Nat) : Word :=
  pack [(48, 16, detail), (40, 8, status), (32, 8, fld (w.getD 0 0) 0 8), (16, 16, fld (w.getD 0 0) 16 16), (0, 10, fld (w.getD 0 0) 32 10)]

/-- From u to t queue q, whose registers were x, has left its record w behind, with a notification where the record asks for one. -/
def RecordEnds (x : SubQ) (u t : State) (q : Nat) (w : List Word) (status : Nat) : Prop :=
  (t.queue q).ridx = x.ridx + 1 ∧
    if (w.getD 0 0).getLsbD 8 then Notifies x u t q (w.getD 1 0) (noteWord w status 0) else ∀ a, mget t.mem a = mget u.mem a

/-! ### Predicates (R134) -/

/-- The predicate whose bit 0 decides whether the slot executes at all: that of every slot form but V-slot operations and vector memory accesses. -/
def scalarPred : Instr → Option Pred
  | .add x | .sub x | .mul x | .mulh x | .div x | .rem x | .and x | .or x | .xor x | .andn x | .shl x | .shr x | .sar x | .min x | .max x => some x.pr
  | .clz x | .popc x | .mov x => some x.pr
  | .cmp x => some x.pr
  | .sel x => some x.pr
  | .bfx x => some x.pr
  | .bfi x => some x.pr
  | .brc x => some x.pr
  | .br _ pr | .jmp _ pr | .callRelative _ _ pr | .callAbsolute _ _ pr | .ret _ pr | .lbrk pr | .trapi _ pr | .csrr _ _ pr | .csrw _ _ pr => some pr
  | .hoff x | .hnarRights x | .hnarLow x | .hnarHigh x => some x.pr
  | .hget _ _ _ pr | .fence _ _ pr => some pr
  | .ld x => some x.pr
  | .st x => some x.pr
  | .ldh x => some x.pr
  | .sth x => some x.pr
  | .atomAdd x | .atomMin x | .atomMax x | .atomAnd x | .atomOr x | .atomXor x | .atomXchg x | .atomCas x => some x.pr
  | .probe x | .probeMissTarget x _ => some x.pr
  | .ldres x | .ldresW x => some x.pr
  | .mma x => some x.pr
  | .mmas x => some x.pr
  | .mmdx x => some x.pr
  | .msca x => some x.pr
  | .mdrain x => some x.pr
  | .mldacc x | .mstacc x => some x.pr
  | .mzero _ pr | .mstat _ _ _ pr => some pr
  | .xtrn x | .xprm x => some x.pr
  | .rowz x | .rowcp x | .rowxf x | .badd x | .bmax x | .bmin x | .baxpy x | .bcnt x => some x.pr
  | .xbfen x => some x.pr
  | .xevpPoll x | .xevpWait x => some x.pr
  | .xinv x | .xwb x | .xpref x => some x.pr
  | .xcomet x => some x.pr
  | .xevt _ _ pr | .xtokSet _ _ pr | .xtokAdd _ _ pr | .xcway _ _ _ pr => some pr
  | .qdld _ _ _ _ pr | .qdldHandle _ _ _ _ pr | .qdst _ _ _ pr | .qdstHandle _ _ _ pr | .qdimRd _ _ pr | .qdimTiles _ _ _ pr | .qdimWr _ _ pr => some pr
  | .ralc _ _ _ _ _ pr | .rfre _ _ _ pr | .gang _ _ _ _ _ pr | .hscbReader _ _ pr | .hscbWriter _ _ pr | .hwaitRd _ _ pr | .hwaitWr _ _ pr => some pr
  | .bcnx _ _ _ pr | .bcnxJmp _ pr | .utrap _ _ _ _ pr | .qyldEnd pr | .qyldYield pr | .qyldRepeat pr | .hmint _ _ _ pr | .otinv _ _ pr => some pr
  | _ => none

/-! ### Steps (R126, R127, R281) -/

/-- s offers a turn to stream `sec` of engine e, and s' is s at that turn: with an empty agenda the clk moves on and the stream in focus has its turn, and
otherwise the agenda's next move names the stream. What its time limit ends has ended (R434, R444). A core that was being restored runs (R392). -/
def Turn (s s' : State) (e : Nat) (sec : Bool) : Prop :=
  s.engineOn e = true ∧ ∃ u : State,
    ((s.agenda = [] ∧ s.focus = ⟨e, sec⟩ ∧ u = ({ s with clk := s.clk + 1 } : State).expire) ∨
      ∃ dt rest, s.agenda = ⟨dt, .issue e sec⟩ :: rest ∧ u = ({ s with agenda := rest, clk := s.clk + .ofNat 64 dt } : State).expire) ∧
    let v : State := { u with focus := ⟨e, sec⟩, slot := .ok }
    s' = if isSeq e then v else v.restored

/-- The slots `l`, at their positions with the stage tags of the bundle, run one after another from s to t: each whose stage is active executes, and none
stalls or traps (R126, R146). -/
inductive SlotsRun (tags : List Nat) : List (Nat × Instr) → State → State → Prop where
  | done (s : State) : SlotsRun tags [] s s
  | skip (p : Nat) (i : Instr) (l : List (Nat × Instr)) (s t : State) :
      s.fs.stageOn (tags.getD p 0) = false → SlotsRun tags l s t → SlotsRun tags ((p, i) :: l) s t
  | run (p : Nat) (i : Instr) (l : List (Nat × Instr)) (s u t : State) :
      s.fs.stageOn (tags.getD p 0) = true → exec i { s with pos := p } = .next u → u.slot = .ok → SlotsRun tags l u t →
      SlotsRun tags ((p, i) :: l) s t

/-- The stream at its turn has a bundle to issue now. Of a core: it runs, no bundle of it has issued in this clk, a secondary stream finds its positions
free (R144), and a primary stream neither stands at a barrier nor drains nor waits for a rebinding's SFLUSH, and goes before the secondary in its clk. Of a sequencer: it runs a routine for a running context. -/
def Issues (s : State) (b : Bundle) : Prop :=
  let x := s.fe
  s.fs.ended = false ∧ s.fs.lastClk ≠ some s.clk.toNat ∧
    if isSeq s.focus.eng then
      let q := s.focus.eng - 48
      (s.seq q).routine = .micro ∧ s.switchDue q = false ∧ ∃ c, (s.seq q).ctx = some c ∧ (s.ctx c).st = .running
    else
      x.gang.isSome = true ∧ x.stopped = false ∧ x.stat = .running ∧ x.parkReq = false ∧
        (∀ f, x.sparse = some f → s.clk.toNat < f.by_) ∧
        (s.focus.sec = true → x.hasSec = true ∧ ∃ m, s.offered s.focus.eng = some m ∧ ∀ p ∈ b.used, m.getLsbD p = false) ∧
        (s.focus.sec = false → s.atBarrier = false ∧ x.drain = none ∧ (x.hasSec = true → x.sec.lastClk ≠ some s.clk.toNat) ∧
          ∀ f ∈ x.flushes, f.rebind = none)

/-! ### Trap records (R418) -/

/-- w is the record, but for its RSEQ, of a trap x that stream `sec` of member `m` of gang g, on core e, has taken at its PC. -/
def TrapRecordOf (s : State) (g : Gang) (m : Nat) (sec : Bool) (e : Nat) (x : TrapInfo) (w : List Word) : Prop :=
  let y := (s.eng e).str sec
  let f (k lo n : Nat) : Nat := fld (w.getD k 0) lo n
  w.length = 7 ∧
    f 0 48 16 = x.cause % 2 ^ 16 ∧ f 0 32 16 = x.detail % 2 ^ 16 ∧ f 0 24 8 = g.opc % 2 ^ 8 ∧ f 0 22 2 = g.sq % 4 ∧ f 0 21 1 = 1 ∧ f 0 20 1 = 1 ∧
    f 0 19 1 = (x.oid.isSome || x.desc.isSome).toNat ∧ f 0 16 3 = 1 ∧ f 0 0 10 = g.ctx % 2 ^ 10 ∧
    f 1 48 16 = g.gk % 2 ^ 16 ∧ f 1 46 2 = m % 4 ∧ f 1 45 1 = sec.toNat ∧ f 1 41 4 = g.clu % 16 ∧ f 1 39 2 = e % 4 ∧ f 1 0 24 = g.bpc % 2 ^ 24 ∧
    f 2 32 20 = x.oid.getD 0 % 2 ^ 20 ∧ f 2 0 32 = x.tix.getD g.tix % 2 ^ 32 ∧
    f 3 0 48 = y.pc.toNat % 2 ^ 48 ∧
    (∀ k, k < 6 → f (4 + k / 4) (16 * (k % 4)) 16 = (y.li k).toNat % 2 ^ 16) ∧ f 5 32 3 = y.loops.length % 8 ∧
    w.getD 6 0 = s.clk

end Sys2Proof.Safety
end

