-- ==== Sys2Proof/Certificates/Slice0/Obligations.lean ====
section
/-!
DEFINITION. The statements for the provers. Each names the rule of spec/ that it formalises or the sections it rests on.
An equation `exec i s = .next t` with t written out is at once the completion, the result and the frame of i: every
component of the state that t does not name is that of s.
-/

open Sys2Proof Sys2Proof.Machine Sys2Proof.Safety

/-! ### The S slot -/

/-- R153: ADD, SUB, MUL, MIN and MAX compute the exact value v of their sources read as t; without SAT the result is the
value in t's range that is congruent to v modulo 2^W and no flag is set; with SAT (ADD, SUB, MUL) it is v clamped to the range, and SAT is set
exactly where that differs from v. R153, R154: MULH gives the upper W bits of the exact product; DIV truncates toward zero and REM keeps the dividend's
sign; a zero divisor gives the indefinite value (DIV) or the dividend (REM) and sets NV; the latencies are 3 and 20. -/
def Obligations.ScalarArithmetic : Prop :=
  (∀ (x : SBin) (s : State) (a b : Word), x.t.isInt = true → s.enabled x.pr = true → s.g? x.t x.a = some a → s.g? x.t x.b = some b →
    let p := rdInt x.t a.toNat
    let q := rdInt x.t b.toNat
    (∀ op ∈ [(Instr.add x, p + q, 1), (Instr.sub x, p - q, 1), (Instr.mul x, p * q, 3), (Instr.min x, min p q, 1), (Instr.max x, max p q, 1)],
      ∃ r : Int, minInt x.t ≤ r ∧ r ≤ maxInt x.t ∧
        (x.sat = false → (op.2.1 - r) % 2 ^ x.t.width = 0) ∧
        (x.sat = true → r = max (minInt x.t) (min (maxInt x.t) op.2.1)) ∧
        exec op.1 s = .next (gResult s x.d op.2.2 (BitVec.ofInt 64 r) (if x.sat = true ∧ r ≠ op.2.1 then fSAT else 0)))) ∧
  (∀ (x : SBin) (s : State) (a b : Word), x.t.isInt = true → s.enabled x.pr = true → s.g? x.t x.a = some a → s.g? x.t x.b = some b →
    let p := rdInt x.t a.toNat
    let q := rdInt x.t b.toNat
    (∃ r : Int, minInt x.t ≤ r ∧ r ≤ maxInt x.t ∧ (p * q / 2 ^ x.t.width - r) % 2 ^ x.t.width = 0 ∧
      exec (.mulh x) s = .next (gResult s x.d 3 (BitVec.ofInt 64 r) 0)) ∧
    (q = 0 →
      exec (.div x) s = .next (gResult s x.d 20
        (BitVec.ofInt 64 (if x.t.isSigned then -(2 ^ (x.t.width - 1)) else 2 ^ x.t.width - 1)) fNV) ∧
      exec (.rem x) s = .next (gResult s x.d 20 (BitVec.ofInt 64 p) fNV)) ∧
    (q ≠ 0 →
      exec (.rem x) s = .next (gResult s x.d 20 (BitVec.ofInt 64 (p - q * p.tdiv q)) 0) ∧
      ∃ r : Int, minInt x.t ≤ r ∧ r ≤ maxInt x.t ∧
        (x.sat = false → (p.tdiv q - r) % 2 ^ x.t.width = 0) ∧
        (x.sat = true → r = max (minInt x.t) (min (maxInt x.t) (p.tdiv q))) ∧
        exec (.div x) s = .next (gResult s x.d 20 (BitVec.ofInt 64 r) (if x.sat = true ∧ r ≠ p.tdiv q then fSAT else 0))))

/-- R153: AND, OR, XOR and ANDN work bit by bit on W bits. R155: SHL multiplies by 2^y modulo 2^W, or clamps with SAT; SHR shifts zeros in and SAR copies of bit W − 1; a count of
W or more gives 0, or the sign fill for SAR. The count is read as n64. -/
def Obligations.ScalarBits : Prop :=
  (∀ (x : SBin) (s : State) (a b : Word), x.t.isInt = true → s.enabled x.pr = true → s.g? x.t x.a = some a → s.g? x.t x.b = some b →
    ∀ op ∈ [(Instr.and x, fun p q => p && q), (Instr.or x, fun p q => p || q), (Instr.xor x, fun p q => p ^^ q),
        (Instr.andn x, fun (p q : Bool) => p && !q)],
      ∃ r : Nat, r < 2 ^ x.t.width ∧ (∀ i, i < x.t.width → r.testBit i = op.2 (a.getLsbD i) (b.getLsbD i)) ∧
        exec op.1 s = .next (gResult s x.d 1 (BitVec.ofInt 64 (rdInt x.t r)) 0)) ∧
  (∀ (x : SBin) (s : State) (a b : Word), x.t.isInt = true → s.enabled x.pr = true → s.g? x.t x.a = some a → s.g? .n64 x.b = some b →
    let p := rdInt x.t a.toNat
    let u := a.toNat % 2 ^ x.t.width
    let n := b.toNat
    (∃ r : Int, minInt x.t ≤ r ∧ r ≤ maxInt x.t ∧
      (x.sat = false → (p * 2 ^ n - r) % 2 ^ x.t.width = 0) ∧
      (x.sat = true → r = max (minInt x.t) (min (maxInt x.t) (p * 2 ^ n))) ∧
      exec (.shl x) s = .next (gResult s x.d 1 (BitVec.ofInt 64 r) (if x.sat = true ∧ r ≠ p * 2 ^ n then fSAT else 0))) ∧
    exec (.shr x) s = .next (gResult s x.d 1 (BitVec.ofInt 64 (rdInt x.t (u / 2 ^ n))) 0) ∧
    (∃ r : Nat, r < 2 ^ x.t.width ∧
      (∀ i, i < x.t.width → r.testBit i = if i + n < x.t.width then u.testBit (i + n) else u.testBit (x.t.width - 1)) ∧
      exec (.sar x) s = .next (gResult s x.d 1 (BitVec.ofInt 64 (rdInt x.t r)) 0)))

/-- R153, R156, R157: CLZ, POPC, MOV, CMP, SEL, BFX and BFI. -/
def Obligations.ScalarUnaryAndSelect : Prop :=
  (∀ (x : SUn) (s : State) (a : Word), x.t.isInt = true → s.enabled x.pr = true → s.g? x.t x.a = some a →
    let u := a.toNat % 2 ^ x.t.width
    exec (.mov x) s = .next (gResult s x.d 1 (BitVec.ofInt 64 (rdInt x.t u)) 0) ∧
    exec (.popc x) s = .next (gResult s x.d 1 (BitVec.ofInt 64 (rdInt x.t ((rangeFrom 0 x.t.width).countP fun i => u.testBit i))) 0) ∧
    ∃ n, n ≤ x.t.width ∧ u < 2 ^ (x.t.width - n) ∧ (n < x.t.width → 2 ^ (x.t.width - n - 1) ≤ u) ∧
      exec (.clz x) s = .next (gResult s x.d 1 (BitVec.ofInt 64 (rdInt x.t n)) 0)) ∧
  (∀ (x : SCmp) (s : State) (a b : Word), x.t.isInt = true → s.enabled x.pr = true → s.g? x.t x.a = some a → s.g? x.t x.b = some b →
    let p := rdInt x.t a.toNat
    let q := rdInt x.t b.toNat
    let z := (a.toNat &&& b.toNat) % 2 ^ x.t.width
    let holds : Prop := match x.c with
      | .eq => p = q | .ne => p ≠ q | .lt => p < q | .le => p ≤ q | .gt => q < p | .ge => q ≤ p | .tst => z ≠ 0 | .ntst => z = 0
    (holds → exec (.cmp x) s = .next (gResult s x.d 1 1 0)) ∧ (¬ holds → exec (.cmp x) s = .next (gResult s x.d 1 0 0))) ∧
  (∀ (x : SSel) (s : State) (a b c : Word), x.t.isInt = true → s.enabled x.pr = true → s.g? x.t x.a = some a → s.g? x.t x.b = some b →
    s.g? x.t x.c = some c →
    exec (.sel x) s = .next (gResult s x.d 1
      (BitVec.ofInt 64 (rdInt x.t (if rdInt x.t c.toNat ≠ 0 then a.toNat else b.toNat))) 0)) ∧
  (∀ (x : SBfx) (s : State) (a : Word), x.t.isInt = true → x.pos.toNat + x.len1.toNat + 1 ≤ x.t.width → s.enabled x.pr = true →
    s.g? x.t x.a = some a →
    let n := x.len1.toNat + 1
    let f := a.toNat / 2 ^ x.pos.toNat % 2 ^ n
    exec (.bfx x) s = .next (gResult s x.d 1
      (BitVec.ofInt 64 (if x.t.isSigned = true ∧ f.testBit (n - 1) then (f : Int) - 2 ^ n else f)) 0)) ∧
  (∀ (x : SBfi) (s : State) (a b : Word), x.t.isInt = true → x.pos.toNat + x.len1.toNat + 1 ≤ x.t.width → s.enabled x.pr = true →
    s.g? x.t x.a = some a → s.g? x.t x.b = some b →
    ∃ r : Nat, r < 2 ^ x.t.width ∧
      (∀ i, i < x.t.width → r.testBit i =
        if x.pos.toNat ≤ i ∧ i ≤ x.pos.toNat + x.len1.toNat then b.getLsbD (i - x.pos.toNat) else a.getLsbD i) ∧
      exec (.bfi x) s = .next (gResult s x.d 1 (BitVec.ofInt 64 (rdInt x.t r)) 0))

/-- R158: PMASK builds, combines, and moves predicates; none is pushed but the g result of `get`. -/
def Obligations.PredicateMasks : Prop :=
  (∀ (t : ElemType) (d : Fin 8) (a : GSrc) (s : State) (v : Word), t ≠ .dx4 → s.g? .n64 a = some v →
    ∃ m : PredBits, (∀ j, j < 256 → m.getLsbD j = decide (j / (t.width / 8) < v.toNat)) ∧
      exec (.pmaskFirst t d a) s = .next (pResult s d 1 m 0)) ∧
  (∀ (x : PBin) (s : State),
    exec (.pmaskAnd x) s = .next (pResult s x.d 1 (s.pred x.a.val &&& s.pred x.b.val) 0) ∧
    exec (.pmaskOr x) s = .next (pResult s x.d 1 (s.pred x.a.val ||| s.pred x.b.val) 0) ∧
    exec (.pmaskAndn x) s = .next (pResult s x.d 1 (s.pred x.a.val &&& ~~~ s.pred x.b.val) 0) ∧
    exec (.pmaskXor x) s = .next (pResult s x.d 1 (s.pred x.a.val ^^^ s.pred x.b.val) 0)) ∧
  (∀ (d a : Fin 8) (s : State), exec (.pmaskNot d a) s = .next (pResult s d 1 (~~~ s.pred a.val) 0)) ∧
  (∀ (d : Fin 8) (a : GSrc) (k : Fin 4) (s : State) (v : Word), s.g? .n64 a = some v →
    ∃ m : PredBits, (∀ j, j < 256 → m.getLsbD j =
        if 64 * k.val ≤ j ∧ j < 64 * k.val + 64 then v.getLsbD (j - 64 * k.val) else (s.pred d.val).getLsbD j) ∧
      exec (.pmaskIns d a k) s = .next (pResult s d 1 m 0)) ∧
  (∀ (d : GDst) (a : Fin 8) (k : Fin 4) (s : State),
    ∃ w : Word, (∀ j, j < 64 → w.getLsbD j = (s.pred a.val).getLsbD (64 * k.val + j)) ∧
      exec (.pmaskGet d a k) s = .next (gResult s d 1 w 0))

/-- R159, R160: where each transfer goes. A target that is a multiple of 64 becomes the PC that follows the bundle; a
zero-valued target of JMP or CALL goes where nothing is fetched (`zeroTarget`, the model's choice: log entry 11), and RET to zero ends the stream. A CALL also writes
the link with latency 1, its target being read before. BRC falls through where its condition fails. -/
def Obligations.ControlTransfers : Prop :=
  (∀ (disp : BitVec 15) (pr : Pred) (s : State), s.enabled pr = true →
    let t := s.fs.pc + 64 * disp.signExtend 64
    t.toNat % 64 = 0 →
    exec (.br disp pr) s = .next (goes s t) ∧
    ∀ d : GDst, exec (.callRelative d disp pr) s = .next (goes (gResult s d 1 (s.fs.pc + 64) 0) (if t = 0 then zeroTarget else t))) ∧
  (∀ (x : SBrc) (s : State) (a b : Word), s.enabled x.pr = true → s.g? x.t x.a = some a → s.g? x.t x.b = some b →
    let t := s.fs.pc + 64 * x.disp.signExtend 64
    (condHolds x.c x.t a.toNat b.toNat = true → t.toNat % 64 = 0 → exec (.brc x) s = .next (goes s t)) ∧
    (condHolds x.c x.t a.toNat b.toNat = false → exec (.brc x) s = .next (same s))) ∧
  (∀ (a : GSrc) (pr : Pred) (s : State) (v : Word), s.enabled pr = true → s.g? .n64 a = some v → v.toNat % 64 = 0 →
    let t := if v = 0 then zeroTarget else v
    exec (.jmp a pr) s = .next (goes s t) ∧
    (∀ d : GDst, exec (.callAbsolute d a pr) s = .next (goes (gResult s d 1 (s.fs.pc + 64) 0) t)) ∧
    exec (.ret a pr) s = .next (if v = 0 then onStream s fun y => { y with nended := true } else goes s v))

/-- R161 to R164: LOOP with trip count n, and LOOPP with n + d − 1, push an entry with index 0 and that remaining count, or go past the
end where it is 0; LEND counts down, steps the index and goes back, or pops, and turns the rotation base for a LOOPP; LBRK pops and goes past
the end. -/
def Obligations.Loops : Prop :=
  (∀ (a : GSrc) (len : BitVec 12) (s : State) (n : Word), s.g? .n64 a = some n → s.fs.loops.length < 6 →
    (∀ e ∈ s.fs.loops.head?, s.fs.pc.toNat + 64 * len.toNat < e.stop.toNat) →
    let stop := s.fs.pc + .ofNat 64 (64 * len.toNat)
    let push (k : Nat) (piped : Bool) (d : BitVec 3) : State :=
      if k = 0 then goes s (stop + 64)
      else onStream s fun y =>
        { y with npc := y.pc + 64, nloops := ⟨y.pc + 64, stop, 0, .ofNat 65 k, piped, d⟩ :: y.nloops }
    exec (.loop a len) s = .next (push n.toNat false 0) ∧
    ∀ d : BitVec 3, exec (.loopp a d len) s = .next (push (n.toNat + d.toNat - 1) true d)) ∧
  (∀ (s : State) (e : LoopEnt) (l : List LoopEnt), s.fs.nloops = e :: l → e.stop = s.fs.pc →
    exec .lend s = .next (onEngine s fun x =>
      { x.modStr s.focus.sec fun y =>
          if 1 < e.rem.toNat then { y with nloops := { e with rem := e.rem - 1, idx := e.idx + 1 } :: l, npc := e.start }
          else { y with nloops := l, npc := y.pc + 64 } with
        rb := if e.piped then x.rb + 1 else x.rb })) ∧
  (∀ (pr : Pred) (s : State) (e : LoopEnt) (l : List LoopEnt), s.enabled pr = true → s.fs.loops = e :: l →
    exec (.lbrk pr) s = .next (onStream s fun y => { y with npc := e.stop + 64, nloops := y.nloops.drop 1 }))

/-- R165, R170, R171: SLACK sets the slack that follows the bundle; CSRR gives the named CSR with latency 2; CSRW queues the
write, which takes effect from the next clk on, the secondary stream's after the primary's, except that 6 or 7 in rmode takes the CSR-value fault. -/
def Obligations.SlackAndCsrs : Prop :=
  (∀ (n : BitVec 4) (s : State), exec (.slack n) s = .next (onStream s fun y => { y with nslack := n })) ∧
  (∀ (d : GDst) (pr : Pred) (s : State), s.enabled pr = true →
    let rd (n : BitVec 12) (v : Word) : Prop := exec (.csrr d n pr) s = .next (gResult s d 2 v 0)
    rd 0 (s.fe.astat.zeroExtend 64) ∧ rd 1 (s.fe.rmode.zeroExtend 64) ∧ rd 2 (s.fe.rseed.zeroExtend 64) ∧
    rd 3 (s.fs.slack.zeroExtend 64) ∧ rd 4 (s.fe.rb.zeroExtend 64) ∧ rd 10 s.clk ∧
    (s.focus.eng < 48 → rd 8 (.ofNat 64 (s.focus.eng % 4)) ∧ rd 9 (.ofNat 64 (s.focus.eng / 4)) ∧
      rd 13 (.ofNat 64 s.fe.member) ∧ ∀ g, s.fe.gang = some g → rd 12 (.ofNat 64 (g % 65536))) ∧
    (48 ≤ s.focus.eng → rd 8 0 ∧ rd 9 0xF ∧ rd 12 0 ∧ rd 13 0 ∧ rd 32 (s.fe.tix.zeroExtend 64) ∧ rd 33 (s.fe.tdsc.zeroExtend 64)) ∧
    ∀ k : Fin 8, rd (.ofNat 12 (16 + k.val)) ((s.fs.tok k.val).zeroExtend 64)) ∧
  (∀ (a : GSrc) (n : BitVec 12) (pr : Pred) (s : State) (v : Word), s.enabled pr = true → s.g? .n64 a = some v →
    (¬ (n = 1 ∧ 6 ≤ v.toNat % 8) → exec (.csrw a n pr) s = .next (onEngine s fun x =>
      { x with ncsr := x.ncsr ++ [⟨s.clk.toNat, s.focus.sec, n.toNat, v⟩] })) ∧
    (n = 1 → 6 ≤ v.toNat % 8 → exec (.csrw a n pr) s = .next (s.takeTrap ⟨0x0C, 1, none, none, none⟩)))

/-- R166, R168, R169: SEND queues its request on the port and RECV gives the reply with its push; a second SEND, or a RECV without one, takes
the service-port fault; TRAPI takes the user trap with its code. -/
def Obligations.ServiceCallsAndUserTrap : Prop :=
  (∀ (port : Fin 16) (a b c : GSrc) (s : State) (va vb vc : Word), s.g? .n64 a = some va → s.g? .n64 b = some vb → s.g? .n64 c = some vc →
    let q := tget [] (s.ctx s.fctx).ports port.val
    ((s.fe.sends.any fun y => y.port == port.val) = true →
      exec (.send port a b c) s = .next (s.takeTrap ⟨0x0A, port.val, none, none, none⟩)) ∧
    ((s.fe.sends.any fun y => y.port == port.val) = false → q.length < 64 → s.windowOpen = false →
      releaseOk s.accs s.focus.eng s.focus.sec s.nextId .dev 0xFFFF = true →
      exec (.send port a b c) s = .next (onEngine
        { s with ctxs := tput .reset s.ctxs s.fctx { s.ctx s.fctx with
            ports := tput [] (s.ctx s.fctx).ports port.val (q ++ [⟨va, vb, vc, s.fe.gang.getD 0, s.fe.member, s.focus.sec⟩]) } }
        fun x => { x with sends := x.sends ++ [⟨port.val, s.focus.sec, none⟩] }))) ∧
  (∀ (d : GDst) (port : Fin 16) (s : State),
    ((s.fe.sends.find? fun y => y.port == port.val) = none →
      exec (.recv d port) s = .next (s.takeTrap ⟨0x0A, port.val, none, none, none⟩)) ∧
    ∀ (y : SendSt) (v : Word), (s.fe.sends.find? fun y => y.port == port.val) = some y → y.reply = some v →
      exec (.recv d port) s =
        .next (gResult (onEngine s fun x => { x with sends := x.sends.filter fun z => z.port ≠ port.val }) d 1 v 0)) ∧
  (∀ (code : BitVec 15) (pr : Pred) (s : State), s.enabled pr = true →
    exec (.trapi code pr) s = .next (s.takeTrap ⟨0x0B, code.toNat, none, none, none⟩))

/-! ### The A slots -/

/-- R178 to R180: HOFF moves CUR modulo 2^48; HNAR clears rights among R, W, A, B, P or narrows a bound, never past the other; HGET reads
one field. The tag and every field not named are kept. -/
def Obligations.HandleArithmetic : Prop :=
  (∀ (x : HArith) (s : State) (b : Word), s.enabled x.pr = true → s.g? .i64 x.b = some b →
    let h := s.h x.a
    ∃ r : Handle, r.tag = h.tag ∧ (r.cur : Int) = (h.cur + b.toInt) % 2 ^ 48 ∧ r.bits >>> 48 = h.bits >>> 48 ∧
      exec (.hoff x) s = .next (hResult s x.d 1 r)) ∧
  (∀ (x : HArith) (s : State) (b : Word), s.enabled x.pr = true → s.g? .n64 x.b = some b →
    let h := s.h x.a
    (∃ r : Handle, r.tag = h.tag ∧ r.cur = h.cur ∧ r.low = h.low ∧ r.high = h.high ∧ r.gran = h.gran ∧ r.oid = h.oid ∧
      (∀ k, k < 8 → r.has k = (h.has k && (b.getLsbD k || decide (k < 3)))) ∧
      exec (.hnarRights x) s = .next (hResult s x.d 1 r)) ∧
    (∃ r : Handle, r.tag = h.tag ∧ r.cur = h.cur ∧ r.low = min (max h.low b.toNat) h.high ∧ r.high = h.high ∧ r.gran = h.gran ∧
      r.rights = h.rights ∧ r.oid = h.oid ∧ exec (.hnarLow x) s = .next (hResult s x.d 1 r)) ∧
    (∃ r : Handle, r.tag = h.tag ∧ r.cur = h.cur ∧ r.low = h.low ∧ r.high = max (min h.high b.toNat) h.low ∧ r.gran = h.gran ∧
      r.rights = h.rights ∧ r.oid = h.oid ∧ exec (.hnarHigh x) s = .next (hResult s x.d 1 r))) ∧
  (∀ (d : GDst) (a : Fin 16) (pr : Pred) (s : State), s.enabled pr = true →
    let h := s.h a
    let gives (f : HField) (v : Nat) : Prop := exec (.hget f d a pr) s = .next (gResult s d 1 (.ofNat 64 v) 0)
    gives .cur h.cur ∧ gives .low (h.low * 2 ^ (h.gran + 6)) ∧ gives .high (h.high * 2 ^ (h.gran + 6)) ∧ gives .rights h.rights ∧
    gives .gran h.gran ∧ gives .oid h.oid ∧ gives .tag h.tag.toNat ∧ gives .lo64 (h.bits.toNat % 2 ^ 64) ∧
    gives .hi64 (h.bits.toNat / 2 ^ 64))

/-- R175, R177, R182, R184, R197: a load whose handle permits it, whose address is aligned where the access must be and whose port
admits it charges its token by one, reserves its queue entry (LD and LDRES, not LDH) and is in flight. R189, R190: an atomic whose handle permits it and whose object's space carries it is sent to its port with its operation,
operands and scope, its token charged and its queue entry reserved. -/
def Obligations.LoadsAndAtomicsAreSent : Prop :=
  ((∀ (x : ALd) (s : State) (b : Word) (o : ObjEnt) (ps : List Part), s.enabled x.pr = true → s.g? .i64 x.b = some b →
    let h := s.h x.h
    let a := (h.cur : Int) + b.toInt * 2 ^ x.scl.toNat
    let n := x.t.width / 8
    Permits h rR a n → (s.mustAlign h x.ann = true → a % n = 0) → (s.fs.tok x.tok.val).toNat + 1 < 2 ^ 32 →
    Admits s h [⟨0, a.toNat, n, 0⟩] o ps →
    exec (.ld x) s = .next (sends s (fun e => e.modStr s.focus.sec fun y => awaitG s.nextId (charge x.tok.val 1 y))
      (sent s .load x.cls x.ann x.scope x.t h o ps none (.g x.d) (some x.tok.val)))) ∧
  (∀ (x : ALdh) (s : State) (b : Word) (o : ObjEnt) (ps : List Part) (l : Nat), s.enabled x.pr = true → s.g? .i64 x.b = some b →
    let h := s.h x.h
    let a := (h.cur : Int) + b.toInt * 2 ^ x.scl.toNat
    Permits h rR a 16 → a % 16 = 0 → (s.fs.tok x.tok.val).toNat + 1 < 2 ^ 32 →
    Admits s h [⟨0, a.toNat, 16, 0⟩] o ps → s.place s.fctx h.oid o a.toNat = .at_ l →
    exec (.ldh x) s = .next (sends s (fun e => e.modStr s.focus.sec (charge x.tok.val 1))
      (sent s .load x.cls x.ann x.scope .n64 h o ps (some (l, false)) (.h x.d.val) (some x.tok.val)))) ∧
  (∀ (x : ALdres) (s : State) (b : Word) (o : ObjEnt) (ps : List Part), s.enabled x.pr = true → s.g? .i64 x.b = some b →
    let h := s.h x.h
    let a := (h.cur : Int) + b.toInt * 2 ^ x.scl.toNat
    Permits h rR a 8 → a % 8 = 0 → (s.fs.tok x.tok.val).toNat + 1 < 2 ^ 32 →
    Admits s h [⟨0, a.toNat, 8, 0⟩] o ps → o.space.val = 1 →
    ∀ op ∈ [(Instr.ldres x, false), (Instr.ldresW x, true)],
      exec op.1 s = .next (sends s (fun e => e.modStr s.focus.sec fun y => awaitG s.nextId (charge x.tok.val 1 y))
        (sent s (.ldres op.2) 0 .aq .dev .n64 h o ps none (.g x.d) (some x.tok.val))))) ∧
  (∀ (x : AAtom) (s : State) (b c : Word) (o : ObjEnt) (ps : List Part) (op : Fin 8) (i : Instr),
    (op, i) ∈ [((0 : Fin 8), Instr.atomAdd x), (1, .atomMin x), (2, .atomMax x), (3, .atomAnd x), (4, .atomOr x), (5, .atomXor x),
      (6, .atomXchg x), (7, .atomCas x)] →
    s.enabled x.pr = true → s.g? (if op = 7 then x.t else .i64) x.b = some b → s.g? x.t x.c = some c →
    let h := s.h x.h
    let a : Int := if op = 7 then h.cur else h.cur + b.toInt
    let n := x.t.width / 8
    Permits h rA a n → a % n = 0 → (x.ann.isRl && s.windowOpen) = false → (s.fs.tok x.tok.val).toNat + 1 < 2 ^ 32 →
    Admits s h [⟨0, a.toNat, n, 0⟩] o ps → (x.far = true → o.space.val = 1 ∨ o.space.val = 2) →
    (o.space.val = 4 → x.t.isInt = true ∧ (op = 0 ∨ op = 6 ∨ op = 7)) → s.exportBars s.fctx h.oid false = false →
    exec i s = .next (sends s (fun e => e.modStr s.focus.sec fun y => awaitG s.nextId (charge x.tok.val 1 y))
      (sent s (.atom op x.t b (.ofNat 64 (c.toNat % 2 ^ x.t.width))) x.cls x.ann x.scope x.t h o ps none (.g x.d) (some x.tok.val) x.far)))

/-- R182 to R184: a store whose handle permits it is sent with its data; STH with the stored handle's tag. No register, token or
queue changes. -/
def Obligations.StoresAreSent : Prop :=
  (∀ (x : ASt) (s : State) (b c : Word) (o : ObjEnt) (ps : List Part), s.enabled x.pr = true → s.g? .i64 x.b = some b →
    s.g? x.t x.c = some c →
    let h := s.h x.h
    let a := (h.cur : Int) + b.toInt * 2 ^ x.scl.toNat
    let n := x.t.width / 8
    Permits h rW a n → (s.mustAlign h x.ann = true → a % n = 0) → (x.ann.isRl && s.windowOpen) = false →
    Admits s h [⟨0, a.toNat, n, c.toNat % 2 ^ x.t.width⟩] o ps → s.exportBars s.fctx h.oid true = false →
    exec (.st x) s = .next (writes s (sent s .store x.cls x.ann x.scope x.t h o ps none .none none))) ∧
  (∀ (x : ASth) (s : State) (b : Word) (o : ObjEnt) (ps : List Part) (l : Nat), s.enabled x.pr = true → s.g? .i64 x.b = some b →
    let h := s.h x.h
    let a := (h.cur : Int) + b.toInt * 2 ^ x.scl.toNat
    Permits h rW a 16 → a % 16 = 0 → (x.ann.isRl && s.windowOpen) = false →
    Admits s h [⟨0, a.toNat, 16, (s.h x.c).bits.toNat⟩] o ps → s.exportBars s.fctx h.oid true = false → s.place s.fctx h.oid o a.toNat = .at_ l →
    exec (.sth x) s = .next (writes s
      (sent s .store x.cls x.ann x.scope .n64 h o ps (some (l, (s.h x.c).tag)) .none none)))

/-- R185 to R187: a vector load of the active elements whose handle permits each of them, all aligned, charges its token by one, reserves a
vector-queue entry, and is in flight with one piece per element at its lane; with no active element it reaches nothing and its
result lands unchanged. VLD steps by the element size from CUR + b·2^SCL, VLDS by b from CUR, VGTH by the index vector. -/
def Obligations.VectorLoadsAreSent : Prop :=
  ∀ (t : ElemType) (cls : BitVec 4) (d : VDst) (hn : Fin 16) (tok : Fin 8) (pr : Pred) (i : Instr) (at_ : Nat → Int) (s s1 : State)
    (o : ObjEnt) (ps : List Part),
    ((∃ (x : AVld) (b : Word), x.t = t ∧ x.cls = cls ∧ x.d = d ∧ x.h = hn ∧ x.tok = tok ∧ x.pr = pr ∧ s.g? .i64 x.b = some b ∧ s1 = s ∧
        ((i = .vld x ∧ at_ = fun (k : Nat) => ((s.h hn).cur : Int) + b.toInt * 2 ^ x.scl.toNat + (k : Int) * (t.width / 8 : Nat)) ∨
         (i = .vlds x ∧ at_ = fun (k : Nat) => ((s.h hn).cur : Int) + (k : Int) * b.toInt))) ∨
      (∃ (x : AGth) (b : Vec), x.t = t ∧ x.cls = cls ∧ x.d = d ∧ x.h = hn ∧ x.tok = tok ∧ x.pr = pr ∧ ReadsV t.index x.b s s1 b ∧
        i = .vgth x ∧ at_ = fun k => ((s.h hn).cur : Int) + rdInt t.index (lane t b k) * 2 ^ x.scl.toNat)) →
    (match d with | .strm _ => False | _ => True) →
    let h := s.h hn
    let n := t.width / 8
    let es := activeLanes s t pr
    (∀ k ∈ es, Permits h rR (at_ k) n ∧ at_ k % n = 0) → (s.fs.tok tok.val).toNat + 1 < 2 ^ 32 →
    let change (e : Engine) : Engine := awaitV s.nextId d (e.modStr s.focus.sec (charge tok.val 1))
    let dst : ADst := .v (match d with | .reg r => .reg (fin32 (physV s.fe.rb r.val)) | _ => d)
    (es ≠ [] → Admits s h (es.map fun k => ⟨k * n, (at_ k).toNat, n, 0⟩) o ps →
      exec i s = .next (sends s1 change (sent s .load cls .plain .stream t h o ps none dst (some tok.val)))) ∧
    (es = [] → exec i s = .next (sends s1 change
      { sent s .value cls .plain .stream t h o [] none dst (some tok.val) with sobj := false, window := false }))

/-- R185 to R187: a vector store sends the active elements of its data, in ascending order, as one access; with none it sends nothing.
A stream source moves on. -/
def Obligations.VectorStoresAreSent : Prop :=
  ∀ (t : ElemType) (cls : BitVec 4) (hn : Fin 16) (pr : Pred) (i : Instr) (at_ : Nat → Int) (s s1 : State) (v : Vec) (o : ObjEnt) (ps : List Part),
    ((∃ (x : AVst) (b : Word), x.t = t ∧ x.cls = cls ∧ x.h = hn ∧ x.pr = pr ∧ s.g? .i64 x.b = some b ∧ ReadsV t x.c s s1 v ∧
        ((i = .vst x ∧ at_ = fun (k : Nat) => ((s.h hn).cur : Int) + b.toInt * 2 ^ x.scl.toNat + (k : Int) * (t.width / 8 : Nat)) ∨
         (i = .vsts x ∧ at_ = fun (k : Nat) => ((s.h hn).cur : Int) + (k : Int) * b.toInt))) ∨
      (∃ (x : ASct) (s0 : State) (b : Vec), x.t = t ∧ x.cls = cls ∧ x.h = hn ∧ x.pr = pr ∧ ReadsV t.index x.b s s0 b ∧ ReadsV t x.c s0 s1 v ∧
        i = .vsct x ∧ at_ = fun k => ((s.h hn).cur : Int) + rdInt t.index (lane t b k) * 2 ^ x.scl.toNat)) →
    let h := s.h hn
    let n := t.width / 8
    let es := activeLanes s t pr
    let parts := es.map fun k => (⟨k * n, (at_ k).toNat, n, lane t v k⟩ : Part)
    (∀ k ∈ es, Permits h rW (at_ k) n ∧ at_ k % n = 0) →
    (es ≠ [] → Admits s h parts o ps → s.exportBars s.fctx h.oid true = false →
      exec i s = .next (writes s1 (sent s .store cls .plain .stream t h o ps none .none none))) ∧
    (es = [] → exec i s = .next { s1 with slot := .ok, nextId := s.nextId + 1 })

/-- R102, R191 to R196: a FENCE stands among the stream's accesses until what its mask covers has reached its scope; PROBE gives the
slot of a hit, and on a miss takes a victim way, queues its fill, charges the token by the block and (with a miss target) goes there; SBIND
queues its binding for the bundles that follow; SFLUSH charges its token and waits for the streams it names. -/
def Obligations.FenceProbeAndStreams : Prop :=
  (∀ (mask : BitVec 16) (scope : Scope) (pr : Pred) (s : State), s.enabled pr = true → (scope != .stream && s.windowOpen) = false →
    let f : Access :=
      { id := s.nextId, task := s.taskOf s.focus.eng, eng := s.focus.eng, sec := s.focus.sec, kind := .fence mask, cls := 0, ann := .plain,
        scope := scope, sobj := false, window := false, far := false, t := .n64, parts := [], tagQ := none, dst := .none, tok := none, vis := 0, taken := none, takenTag := false,
        obj := (noCtx, 0), parked := false, pc := s.fs.pc }
    exec (.fence mask scope pr) s = .next
      { onStream s (fun y => { y with cq := y.cq.fence mask }) with accs := dropFences (s.accs ++ [f]), nextId := s.nextId + 1 }) ∧
  (∀ (x : AProbe) (disp : BitVec 12) (s : State) (b : Word), s.enabled x.pr = true → s.g? .i64 x.b = some b →
    let h := s.h x.h
    let a := (h.cur : Int) + b.toInt
    let c := cluOf s.focus.eng
    let y := s.clu c
    let blk := a.toNat / 2 ^ y.cacheK
    let sets := y.cacheB / 4
    let set_ := (blk ^^^ (h.oid % 4096)) % sets
    let slot (w : Nat) : Word := .ofNat 64 ((w * sets + set_) * 2 ^ y.cacheK)
    Permits h rR a 1 → h.has rS = false → y.cacheB ≠ 0 →
    (∀ w, y.probe set_ h.oid blk = .hit w →
      exec (.probe x) s = .next (gResult s x.d 4 (slot w) 0) ∧ exec (.probeMissTarget x disp) s = .next (gResult s x.d 4 (slot w) 0)) ∧
    (∀ w rot, y.probe set_ h.oid blk = .victim w rot → (s.fs.tok x.tok.val).toNat + 2 ^ y.cacheK < 2 ^ 32 →
      let job : FillJob :=
        { id := s.nextId, eng := s.focus.eng, sec := s.focus.sec, task := s.taskOf s.focus.eng, tok := x.tok.val, cls := x.cls, pc := s.fs.pc,
          ctx := s.fctx, h := h, blk := blk, set_ := set_, way := w, landed := 0, retry := 0, retryAt := none }
      let y1 : Cluster := { y with
        tagTable := tput .invalid y.tagTable (set_ * 4 + w) (.filling h.oid blk)
        rot := if rot then tput 0 y.rot set_ ((w + 1) % 4) else y.rot
        fills := y.fills ++ [job] }
      let t := gResult { onStream s (charge x.tok.val (2 ^ y.cacheK)) with nextId := s.nextId + 1, clusters := tput .reset s.clusters c y1 }
        x.d 4 (slot w) 0
      exec (.probe x) s = .next t ∧ exec (.probeMissTarget x disp) s = .next (goes t (s.fs.pc + 64 * disp.signExtend 64)))) ∧
  (∀ (x : ASbind) (s : State) (b : Word) (o : ObjEnt), s.g? .i64 x.b = some b →
    let h := s.h x.h
    let geo := [0, 1, 2, 3].map fun j => if x.gc.val + j = 0 then 0 else tget 0 s.fs.g (x.gc.val + j)
    let r := if x.write then rW else rR
    let a : Int := h.cur + b.toInt
    Permits h r (a + (geoSpan geo).1) 256 → Permits h r (a + (geoSpan geo).2) 256 → b.toInt % 64 = 0 →
    (∀ w ∈ geo, geoStride w % 64 = 0) → h.has rS = false → s.objEnt s.fctx h.oid = some o → o.space.val = 0 →
    o.clu = cluOf s.focus.eng →
    (16 ≤ s.fe.strmBuf → exec (.sbind x) s = .next { s with slot := .stall }) ∧
    (s.fe.strmBuf < 16 → exec (.sbind x) s = .next { onEngine s fun e =>
      { e.modStr s.focus.sec fun y => { y with lags := y.lags ++ [⟨s.nextId, y.cycle, .strm (some x.cls)⟩] } with
        nbind := e.nbind ++ [(x.k.val, ⟨s.nextId, x.write, h.move b.toInt, geo, x.cls, 0, []⟩)] } with nextId := s.nextId + 1 })) ∧
  (∀ (k : Option (Fin 8)) (unb : Bool) (tok : Fin 8) (s : State), (s.fs.tok tok.val).toNat + 1 < 2 ^ 32 →
    let named := match k with | some j => [j.val] | none => [0, 1, 2, 3, 4, 5, 6, 7]
    let ks : List (Nat × Nat) := named.filterMap fun j => match s.bind j with
      | some b => if b.write then some (j, b.next + strmPending s.fe.prim j) else none
      | none => none
    (16 ≤ s.fe.strmBuf → exec (.sflush k unb tok) s = .next { s with slot := .stall }) ∧
    (s.fe.strmBuf < 16 → exec (.sflush k unb tok) s = .next { onEngine s fun e =>
      { e.modStr s.focus.sec fun y => { charge tok.val 1 y with lags := y.lags ++ [⟨s.nextId, y.cycle, .strm none⟩] } with
        flushes := e.flushes ++ [⟨ks, if unb then named else [], some tok.val, (s.fs.pend.map (·.due)).foldl max 0, none⟩] } with
      nextId := s.nextId + 1 }))

/-! ### The V slots -/

/-- R201, R206 to R208: the integer element operations of the V slots: each active element holds the exact result wrapped to W bits, or
clamped with SAT; VMIN and VMAX compare as t, VABS and VNEG may overflow their range, the shifts read their count as nW, VPCNT counts one bits. -/
def Obligations.VectorIntegers : Prop :=
  ∀ (x : VBin) (y : VUn) (s s1 s2 u : State) (a b : Vec), x.t.isInt = true → y.t.isInt = true →
    let A (i : Nat) : Int := rdInt x.t (lane x.t a i)
    let B (i : Nat) : Int := rdInt x.t (lane x.t b i)
    let Y (i : Nat) : Int := rdInt y.t (lane y.t a i)
    let gives (d : VDst) (L : Nat) (t : ElemType) (s0 : State) (pr : Pred) (f : Nat → Nat × Flags) : Prop := VGives s0 d L t (s.active pr) f u
    (ReadsV x.t x.a s s1 a → ReadsV x.t x.b s1 s2 b →
      (gives x.d 1 x.t s2 x.pr (fun i => intResult x.t x.sat (A i + B i)) → exec (.vadd x) s = .next u) ∧
      (gives x.d 1 x.t s2 x.pr (fun i => intResult x.t x.sat (A i - B i)) → exec (.vsub x) s = .next u) ∧
      (gives x.d 3 x.t s2 x.pr (fun i => intResult x.t x.sat (A i * B i)) → exec (.vmul x) s = .next u) ∧
      (gives x.d 1 x.t s2 x.pr (fun i => (wrapInt x.t (min (A i) (B i)), 0)) → exec (.vmin x) s = .next u) ∧
      (gives x.d 1 x.t s2 x.pr (fun i => (wrapInt x.t (max (A i) (B i)), 0)) → exec (.vmax x) s = .next u) ∧
      (gives x.d 1 x.t s2 x.pr (fun i => (lane x.t a i &&& lane x.t b i, 0)) → exec (.vand x) s = .next u) ∧
      (gives x.d 1 x.t s2 x.pr (fun i => (lane x.t a i ||| lane x.t b i, 0)) → exec (.vor x) s = .next u) ∧
      (gives x.d 1 x.t s2 x.pr (fun i => (lane x.t a i ^^^ lane x.t b i, 0)) → exec (.vxor x) s = .next u)) ∧
    (ReadsV x.t x.a s s1 a → ReadsV x.t.unsignedOf x.b s1 s2 b →
      let n (i : Nat) : Nat := lane x.t.unsignedOf b i
      let W := x.t.width
      (gives x.d 1 x.t s2 x.pr (fun i => intResult x.t x.sat (A i * 2 ^ n i)) → exec (.vshl x) s = .next u) ∧
      (gives x.d 1 x.t s2 x.pr (fun i => (lane x.t a i / 2 ^ n i, 0)) → exec (.vshr x) s = .next u) ∧
      (x.t.isSigned = true → gives x.d 1 x.t s2 x.pr (fun i => (wrapInt x.t (A i / 2 ^ n i), 0)) → exec (.vsar x) s = .next u) ∧
      (x.t.isSigned = false → gives x.d 1 x.t s2 x.pr (fun i =>
          (wrapInt x.t ((if 2 ^ (W - 1) ≤ lane x.t a i then (lane x.t a i : Int) - 2 ^ W else lane x.t a i) / 2 ^ n i), 0)) →
        exec (.vsar x) s = .next u)) ∧
    (ReadsV y.t y.a s s1 a →
      (gives y.d 1 y.t s1 y.pr (fun i => intResult y.t y.sat ((Y i).natAbs : Int)) → exec (.vabs y) s = .next u) ∧
      (gives y.d 1 y.t s1 y.pr (fun i => intResult y.t y.sat (-(Y i))) → exec (.vneg y) s = .next u) ∧
      (gives y.d 2 y.t s1 y.pr (fun i => ((rangeFrom 0 y.t.width).countP fun k => (lane y.t a i).testBit k, 0)) → exec (.vpcnt y) s = .next u))

/-- R201, R206, R207, R213: the float element operations: the exact sum, product or fused sum of the decoded elements rounded once; VMIN and VMAX
order −0 below +0 and give the canonical NaN for a NaN operand; VABS and VNEG change the sign alone; VRINT rounds to an integer. -/
def Obligations.VectorFloats : Prop :=
  ∀ (x : VBin) (y : VUn) (z : VTri) (s s1 s2 s3 u : State) (a b c : Vec), isFloat x.t = true → isFloat y.t = true → isFloat z.t = true →
    let val (t : ElemType) (v : Vec) (i : Nat) : FV := (fmtOf t).decode (lane t v i)
    (ReadsV x.t x.a s s1 a → ReadsV x.t x.b s1 s2 b →
      let m := s.mode false x.rm
      let gives (f : Nat → Nat × Flags) : Prop := VGives s2 x.d 4 x.t (s.active x.pr) f u
      (gives (fun i => fAdd (fmtOf x.t) m x.sat (val x.t a i) (val x.t b i)) → exec (.vadd x) s = .next u) ∧
      (gives (fun i => fAdd (fmtOf x.t) m x.sat (val x.t a i) (val x.t b i).negate) → exec (.vsub x) s = .next u) ∧
      (gives (fun i => fMul (fmtOf x.t) m x.sat (val x.t a i) (val x.t b i)) → exec (.vmul x) s = .next u) ∧
      (gives (fun i => (fMinMax (fmtOf x.t) false (lane x.t a i) (lane x.t b i), 0)) → exec (.vmin x) s = .next u) ∧
      (gives (fun i => (fMinMax (fmtOf x.t) true (lane x.t a i) (lane x.t b i), 0)) → exec (.vmax x) s = .next u)) ∧
    (ReadsV z.t z.a s s1 a → ReadsV z.t z.b s1 s2 b → ReadsV z.t z.c s2 s3 c →
      let m := s.mode false z.rm
      let gives (f : Nat → Nat × Flags) : Prop := VGives s3 z.d 4 z.t (s.active z.pr) f u
      (gives (fun i => fFma (fmtOf z.t) m z.sat (val z.t a i) (val z.t b i) (val z.t c i)) → exec (.vfma z) s = .next u) ∧
      (gives (fun i => fFma (fmtOf z.t) m z.sat (val z.t a i) (val z.t b i) (val z.t c i).negate) → exec (.vfms z) s = .next u)) ∧
    (ReadsV y.t y.a s s1 a →
      let W := y.t.width
      let sign (neg : Bool → Bool) (i : Nat) : Nat × Flags :=
        (if (val y.t a i).isNan then (fmtOf y.t).nanBits
         else lane y.t a i % 2 ^ (W - 1) + if neg (decide (2 ^ (W - 1) ≤ lane y.t a i)) then 2 ^ (W - 1) else 0, 0)
      (VGives s1 y.d 1 y.t (s.active y.pr) (sign fun _ => false) u → exec (.vabs y) s = .next u) ∧
      (VGives s1 y.d 1 y.t (s.active y.pr) (sign (!·)) u → exec (.vneg y) s = .next u) ∧
      (VGives s1 y.d 4 y.t (s.active y.pr) (fun i => rintElem y.t (s.mode false y.rm) (lane y.t a i)) u → exec (.vrint y) s = .next u))

/-- R209 to R211: VCMP sets the byte bits of the active elements whose condition holds; VSEL takes A's active elements and B's others; VMOV,
VBCAST; VEXT reads one element, 0 beyond the last; VINS replaces one. -/
def Obligations.VectorCompareAndMove : Prop :=
  (∀ (x : VCmpW) (s s1 s2 : State) (a b : Vec), x.t ≠ .dx4 → ReadsV x.t x.a s s1 a → ReadsV x.t x.b s1 s2 b →
    ∃ m : PredBits, (∀ j, j < 256 → m.getLsbD j = (let i := j / (x.t.width / 8)
        (s.active x.pr).getLsbD (i * (x.t.width / 8)) && vcondHolds x.c x.t (lane x.t a i) (lane x.t b i))) ∧
      exec (.vcmp x) s = .next (pResult s2 x.d 2 m 0)) ∧
  (∀ (x : VSelW) (s s1 s2 u : State) (a b : Vec), x.t ≠ .dx4 → ReadsV x.t x.a s s1 a → ReadsV x.t x.b s1 s2 b →
    VGives s2 x.d 1 x.t everyByte
      (fun i => (if ((s.pred x.p.val).getLsbD (i * x.t.width / 8) ^^ x.neg) then lane x.t a i else lane x.t b i, 0)) u →
    exec (.vsel x) s = .next u) ∧
  (∀ (x : VUn) (s s1 u : State) (a : Vec), ReadsV x.t x.a s s1 a →
    VGives s1 x.d 1 x.t (s.active x.pr) (fun i => (lane x.t a i, 0)) u → exec (.vmov x) s = .next u) ∧
  (∀ (x : VBcastW) (s u : State) (a : Word), s.g? x.t x.a = some a →
    VGives s x.d 2 x.t (s.active x.pr) (fun _ => (a.toNat, 0)) u → exec (.vbcast x) s = .next u) ∧
  (∀ (x : VExtW) (s s1 : State) (a : Vec) (i : Word), ReadsV x.t x.a s s1 a → s.g? .n64 x.b = some i →
    exec (.vext x) s = .next (gResult s1 x.d 2 (if i.toNat < x.t.lanes then BitVec.ofInt 64 (rdInt x.t (lane x.t a i.toNat)) else 0) 0)) ∧
  (∀ (x : VInsW) (s s1 u : State) (a : Vec) (i c : Word), ReadsV x.t x.a s s1 a → s.g? .n64 x.b = some i → s.g? x.t x.c = some c →
    VGives s1 x.d 2 x.t everyByte (fun j => (if j = i.toNat then c.toNat else lane x.t a j, 0)) u → exec (.vins x) s = .next u)

/-- R212, R214 to R216: VCVT converts the part's elements, narrowing into C; VDOT adds the exact products of a group to the accumulator
and rounds or clamps once; VCLMUL is carry-less; the special functions take 8, 10 and 12 cycles. -/
def Obligations.VectorConvertDotAndSpecial : Prop :=
  (∀ (x : VCvtW) (s s1 s2 u : State) (a : Vec) (r : Nat → Nat), x.t.width ≥ x.s.width → ReadsV x.s x.a s s1 a →
    let m := s.mode (srType x.t) x.rm
    Draws m x.t.lanes s1 s2 r →
    VGives s2 x.d 4 x.t (s.active x.pr) (fun j => convert x.t x.s m x.sat (r j) (lane x.s a (x.part.toNat * x.t.lanes + j))) u →
    exec (.vcvt x) s = .next u) ∧
  (∀ (x : VCvtW) (cs : VSrc) (s s1 s2 s3 u : State) (a c : Vec) (r : Nat → Nat), x.t.width < x.s.width → x.c = some cs →
    ReadsV x.s x.a s s1 a → ReadsV x.t cs s1 s2 c →
    let m := s.mode (srType x.t) x.rm
    let base := x.part.toNat * x.s.lanes
    Draws m x.s.lanes s2 s3 r →
    VGives s3 x.d 4 x.t (s.active x.pr)
      (fun j => if base ≤ j ∧ j < base + x.s.lanes then convert x.t x.s m x.sat (r (j - base)) (lane x.s a (j - base))
        else (lane x.t c j, 0)) u →
    exec (.vcvt x) s = .next u) ∧
  (∀ (x : VTri) (s s1 s2 s3 u : State) (a b c : Vec) (ta : ElemType) (g : Nat), dotAcc x.t = some (ta, g) →
    ReadsV x.t x.a s s1 a → ReadsV x.t x.b s1 s2 b → ReadsV ta x.c s2 s3 c →
    VGives s3 x.d 6 ta (s.active x.pr)
      (fun i => dotElem x.t x.sat (s.mode false x.rm) (lane ta c i) ((rangeFrom (g * i) g).map fun k => (lane x.t a k, lane x.t b k))) u →
    exec (.vdot x) s = .next u) ∧
  (∀ (x : VClmulW) (s s1 s2 u : State) (a b : Vec), ReadsV .n64 x.a s s1 a → ReadsV .n64 x.b s1 s2 b →
    (∀ f : Nat → Nat × Flags, (∀ i, (f i).2 = 0) →
      (∀ i k, k < 64 → ((f i).1.testBit k = (((rangeFrom 0 64).countP fun j =>
        decide (j ≤ (if x.hi then k + 64 else k)) && (lane .n64 b i).testBit j && (lane .n64 a i).testBit ((if x.hi then k + 64 else k) - j)) % 2 == 1))) →
      VGives s2 x.d 4 .n64 (s.active x.pr) f u → exec (.vclmul x) s = .next u)) ∧
  (∀ (x : VUn) (s s1 u : State) (a : Vec), ReadsV x.t x.a s s1 a →
    let gives (L : Nat) (f : Config.Special) (sat : Bool) : Prop :=
      VGives s1 x.d L x.t (s.active x.pr) (fun i => specialFn f x.t sat (lane x.t a i)) u
    (gives 8 .rcp x.sat → exec (.vrcp x) s = .next u) ∧ (gives 8 .rsq false → exec (.vrsq x) s = .next u) ∧
    (gives 10 .exp2 x.sat → exec (.vexp2 x) s = .next u) ∧ (gives 10 .log2 false → exec (.vlog2 x) s = .next u) ∧
    (gives 12 .tanh false → exec (.vtanh x) s = .next u) ∧ (gives 12 .sigm false → exec (.vsigm x) s = .next u))

/-- R218 to R225: reductions and scans over the active elements, compress and expand, permutes and shuffles, and the dual-exponent pack and
unpack. -/
def Obligations.VectorReducePermuteAndPack : Prop :=
  (∀ (x : VRedW) (s s1 u : State) (a : Vec), ReadsV x.t x.a s s1 a →
    let r := treeUp (redElem x.op x.t x.sat (s.mode false x.rm)) 10 (redLeaves x.op x.t (s.active x.pr) a)
    WritesV 10 everyByte (.ofNat 2048 ((r.1.headD []).headD 0)) r.2 x.d s1 u → exec (.vred x) s = .next u) ∧
  (∀ (x : VScanW) (s s1 : State) (a : Vec), ReadsV x.t x.a s s1 a →
    ∃ v fl, ∀ u, WritesV 14 everyByte v fl x.d s1 u → exec (.vscan x) s = .next u) ∧
  (∀ (x : VScanW) (s s1 u : State) (a v : Vec), x.t.isInt = true → x.op = .add → x.sat = false →
    ReadsV x.t x.a s s1 a →
    (∀ i, i < x.t.lanes → lane x.t v i = ((rangeFrom 0 (if x.inc then i + 1 else i)).map fun k =>
      if (s.active x.pr).getLsbD (k * x.t.width / 8) then lane x.t a k else 0).sum % 2 ^ x.t.width) →
    WritesV 14 everyByte v 0 x.d s1 u → exec (.vscan x) s = .next u) ∧
  (∀ (x : VCmprW) (s s1 u : State) (a v : Vec), x.t ≠ .dx4 → ReadsV x.t x.a s s1 a →
    let es := activeLanes s x.t x.pr
    (∀ i, i < x.t.lanes → lane x.t v i = (es.map (lane x.t a)).getD i 0) →
    WritesV 6 everyByte v 0 x.d s1 u → exec (.vcmpr x) s = .next (gResult u x.c 6 (.ofNat 64 es.length) 0)) ∧
  (∀ (x : VUn) (s s1 u : State) (a v : Vec), x.t ≠ .dx4 → ReadsV x.t x.a s s1 a →
    (∀ i, i < x.t.lanes → lane x.t v i = if (s.active x.pr).getLsbD (i * x.t.width / 8) then
      lane x.t a ((rangeFrom 0 i).countP fun k => (s.active x.pr).getLsbD (k * x.t.width / 8)) else 0) →
    WritesV 6 everyByte v 0 x.d s1 u → exec (.vexpd x) s = .next u) ∧
  (∀ (x : VBin) (s s1 s2 u : State) (a b : Vec), ReadsV x.t x.a s s1 a → ReadsV x.t.unsignedOf x.b s1 s2 b →
    VGives s2 x.d 4 x.t (s.active x.pr)
      (fun i => (if lane x.t.unsignedOf b i < x.t.lanes then lane x.t a (lane x.t.unsignedOf b i) else 0, 0)) u →
    exec (.vperm x) s = .next u) ∧
  (∀ (x : VShufW) (s s1 s2 u : State) (a b : Vec), ReadsV x.t x.a s s1 a → (∀ bs ∈ x.b, ReadsV x.t bs s1 s2 b) →
    (x.b = none → s2 = s1 ∧ (x.pat = .rev ∨ x.pat = .splat)) →
    let n := x.t.lanes
    let A := lane x.t a
    let B := lane x.t b
    VGives s2 x.d 2 x.t (s.active x.pr) (fun i => (match x.pat with
      | .ziplo => if i % 2 = 0 then A (i / 2) else B (i / 2)
      | .ziphi => if i % 2 = 0 then A (n / 2 + i / 2) else B (n / 2 + i / 2)
      | .uzpev => if i < n / 2 then A (2 * i) else B (2 * (i - n / 2))
      | .uzpod => if i < n / 2 then A (2 * i + 1) else B (2 * (i - n / 2) + 1)
      | .rot => if i + x.k.toNat < n then A (i + x.k.toNat) else B (i + x.k.toNat - n)
      | .rev => A (n - 1 - i)
      | .splat => A x.k.toNat, 0)) u → exec (.vshuf x) s = .next u) ∧
  (∀ (x : VDxpW) (s s1 s2 s3 u : State) (a c : Vec) (r : Nat → Nat), ReadsV x.s x.a s s1 a → ReadsV x.t x.c s1 s2 c →
    let m := s.mode true x.rm
    let n := x.s.lanes
    let base := x.part.toNat * n
    Draws m n s2 s3 r →
    VGives s3 x.d 6 x.t everyByte (fun j =>
      if base ≤ j ∧ j < base + n then
        let blk := dxBlock x.s a ((j - base) / 32)
        let e := dxElem (x.t == .dx4) m (r (j - base)) (dxScale (x.t == .dx4) blk) (dxSource x.s (lane x.s a (j - base)))
        (e.1, e.2 ||| dxBlockNV blk)
      else (lane x.t c j, 0)) u → exec (.vdxp x) s = .next u) ∧
  (∀ (x : VDxpW) (s s1 s2 u : State) (a c : Vec), ReadsV x.s x.a s s1 a → ReadsV .n16 x.c s1 s2 c →
    let nb := x.s.lanes / 32
    let base := x.part.toNat * nb
    VGives s2 x.d 6 .n16 everyByte (fun j =>
      (if base ≤ j ∧ j < base + nb then dxScale (x.t == .dx4) (dxBlock x.s a (j - base)) else lane .n16 c j, 0)) u →
    exec (.vdxpScale x) s = .next u) ∧
  (∀ (x : VDxuW) (s s1 s2 s3 u : State) (a b : Vec) (r : Nat → Nat), ReadsV x.s x.a s s1 a → ReadsV .n16 x.b s1 s2 b →
    let m := s.mode (srType x.t) x.rm
    Draws m x.t.lanes s2 s3 r →
    VGives s3 x.d 4 x.t everyByte (fun j =>
      let k := x.part.toNat * x.t.lanes + j
      roundFV (fmtOf x.t) m x.sat (r j) (dxVal (x.s == .dx4) (lane x.s a k) (lane .n16 b (k / 32)))) u →
    exec (.vdxu x) s = .next u)

/-! ### The M slot -/

/-- R232 to R239, R243, R245: on a free channel with both tiles in place MMA, MMAS and MMDX open their window, an earlier one that has passed being
closed first: the operand bytes stand, the accumulator (an f64 product's pair) is busy and the channel occupied; MMAS holds the fault of a bad mask instead; MMDX fills its plane set.
MSCA folds a landed set into the accumulator and frees it; MZERO zeroes; both wait for an open window that works on their accumulator. -/
def Obligations.MatrixProducts : Prop :=
  (∀ (x : MMmaW) (s : State) (g : Word) (la lb : Nat), s.enabled x.pr = true → s.g? .n64 x.c = some g → s.fe.chanFree ≤ s.clk.toNat →
    let w := x.t.width
    let k := mmaK x.t
    let ii := if x.t = .f64 then 128 else 64
    let ha := s.h x.a
    let hb := s.h x.b
    let c := s.closeDue s.focus.eng
    Tile s ha rR (ha.cur + sfld g 0 32) 128 (k * w / 8) (k * w / 8) la → Tile s hb rR (hb.cur + sfld g 32 32) k (32 * w) (32 * w) lb →
    exec (.mma x) s = .next (onEngine c fun e => updating s x.d.val (x.t = .f64) ii (opens c ii (.mma x la lb) e))) ∧
  (∀ (x : MMmasW) (s : State) (g : Word) (l : Nat), s.enabled x.pr = true → s.g? .n64 x.c = some g → s.fe.chanFree ≤ s.clk.toNat →
    let n := if x.n64 then 64 else 32
    let grp := 256 / n
    let hb := s.h x.b
    let c := s.closeDue s.focus.eng
    let masks := (chunks 16 (256 * grp) (c.tileBytes (l + 65536) (4096 * grp))).map leNat
    Tile s hb rR (hb.cur + sfld g 0 32) 1 (65536 + 4096 * grp) 0 l →
    (∀ i, badMask n 0 masks = some i → exec (.mmas x) s = .next (onEngine c fun e =>
      channel s 64 { updating s x.d.val false 64 e with sparse := some ⟨i / 256, i % 256, s.clk.toNat + 24, s.fs.pc⟩ })) ∧
    (badMask n 0 masks = none → exec (.mmas x) s = .next (onEngine c fun e =>
      updating s x.d.val false 64 (opens c 64 (.mmas x l masks) e)))) ∧
  (∀ (x : MMdxW) (s : State) (g : Word) (la lb : Nat), s.enabled x.pr = true → s.g? .n64 x.c = some g → s.fe.chanFree ≤ s.clk.toNat →
    s.fe.planeSet x.ps = none →
    let w := if x.dx4 then 4 else 8
    let ii := if x.dx4 then 4 else 8
    let ha := s.h x.a
    let hb := s.h x.b
    let c := s.closeDue s.focus.eng
    Tile s ha rR (ha.cur + sfld g 0 32) 1 (512 * w) 0 la → Tile s hb rR (hb.cur + sfld g 32 32) 1 (1024 * w) 0 lb →
    exec (.mmdx x) s = .next (onEngine c fun e =>
      opens c ii (.mmdx x la lb) (e.setPlane x.ps (some ⟨x.dx4, [], s.clk.toNat + ii, false⟩)))) ∧
  (∀ (x : MMscaW) (s s1 s2 s3 : State) (va vb vc : Vec) (p : PlaneSet), s.enabled x.pr = true → ReadsV .n16 x.a s s1 va →
    ReadsV .n16 x.b s1 s2 vb → ReadsV .n16 x.c s2 s3 vc →
    let c := s3.closeDue s.focus.eng
    let after (y : Engine) : Engine := updating s x.d.val false 4 { y.setPlane x.ps none with lastMsca := some s.clk.toNat }
    c.fe.planeSet x.ps = some p → p.dx4 = x.dx4 →
    (p.landed = true ∨ p.landAt ≤ s.clk.toNat) → (∀ c, s.fe.lastMsca = some c → c + 4 ≤ s.clk.toNat) →
    (Untouched c.fe x.d → ∃ rows fl, exec (.msca x) s = .next (onEngine c fun e =>
        after ((e.setElems false x.d.val rows).accRaise x.d.val false fl)) ∧
      rows.length = 128 ∧ (∀ i, i < 128 → (rows.getD i []).length = 256) ∧
      ∀ i n, i < 128 → n < 256 → (rows.getD i []).getD n 0 =
        (mscaElem x.dx4 (fun k => ((p.planes.find? fun q => q.1 / 256 % 128 == i && q.1 == 32768 * k + 256 * i + n).map (·.2)).getD 0)
          (lane .n16 vc i) (if n < 128 then lane .n16 va n else lane .n16 vb (n - 128))
          ((c.fe.accElems false x.d.val i).getD n 0)).1) ∧
    ∀ j, c.fe.chan = some j → (j.op.touches x.d = true ∨ ∃ o ∈ j.after, o.acc = x.d) →
      exec (.msca x) s = .next (onEngine c fun e =>
        after { e with chan := some { j with after := j.after ++ [.fold x.d x.dx4 va vb vc p.planes] } })) ∧
  (∀ (d : Fin 8) (pr : Pred) (s : State), s.enabled pr = true →
    (Untouched s.fe d → ∃ m, exec (.mzero d pr) s = .next (onEngine s fun e => { e with acc := m }) ∧
      ∀ a, mget m a = if d.val * 131072 ≤ a ∧ a < (d.val + 1) * 131072 then 0 else mget s.fe.acc a) ∧
    ∀ j, s.fe.chan = some j → (j.op.touches d = true ∨ ∃ o ∈ j.after, o.acc = d) →
      exec (.mzero d pr) s = .next (onEngine s fun e => { e with chan := some { j with after := j.after ++ [.zero d] } }))

/-- R239 to R243: MLDACC, MSTACC and a short MDRAIN open their window, the last two once the rows that they write are clear of the stream's earlier accesses;
MDRAIN sets DRN, DACC and ROW; one to another space starts a long drain; MSTAT reads the state and clears the flags where asked. -/
def Obligations.MatrixMoves : Prop :=
  (∀ (x : MMoveW) (s : State) (g : Word) (l : Nat), s.enabled x.pr = true → s.g? .n64 x.c = some g → s.fe.chanFree ≤ s.clk.toNat →
    let h := s.h x.h
    let st := if fld g 32 32 = 0 then 1024 else fld g 32 32
    let c := s.closeDue s.focus.eng
    (Tile s h rR (h.cur + sfld g 0 32) 128 1024 st l →
      exec (.mldacc x) s = .next (onEngine c fun e => updating s x.d.val false 128 (opens c 128 (.mldacc x.d l st) e))) ∧
    (Tile s h rW (h.cur + sfld g 0 32) 128 1024 st l →
      (c.rowsClear l 128 1024 st = true → exec (.mstacc x) s = .next (onEngine c (opens c 128 (.mstacc x.d l st)))) ∧
      (c.rowsClear l 128 1024 st = false → exec (.mstacc x) s = .next { s with slot := .stall }))) ∧
  (∀ (x : MMdrainW) (s : State) (g : Word), s.enabled x.pr = true → s.g? .n64 x.c = some g → s.fe.chanFree ≤ s.clk.toNat →
    let h := s.h x.h
    let row := 32 * x.out.width
    let st := if fld g 32 32 = 0 then row else fld g 32 32
    let a : Int := h.cur + sfld g 0 32
    let ii := if x.kind = .f64 then 256 else 128
    let c := s.closeDue s.focus.eng
    (∀ l, Tile s h rW a 128 row st l →
      (c.rowsClear l 128 row st = true → exec (.mdrain x) s = .next (onEngine c fun e =>
        updating s x.d.val (x.kind = .f64) ii (opens c ii (.mdrain x l st (s.drainMode x)) { e with drn := false, dacc := x.d, row := 0 }))) ∧
      (c.rowsClear l 128 row st = false → exec (.mdrain x) s = .next { s with slot := .stall })) ∧
    (∀ o, s.objEnt s.fctx h.oid = some o → o.space.val ≠ 0 → o.space.val ≠ 4 → h.has rS = false → Permits h rW a row →
      Permits h rW (a + 127 * st) row → a % 64 = 0 → st % 64 = 0 →
      exec (.mdrain x) s = .next (onEngine c fun e =>
        { e with drn := true, dacc := x.d, row := 0, drain := some ⟨x, a.toNat, st, h, s.fs.pc, false⟩, chanFree := s.clk.toNat + 0 }))) ∧
  (∀ (d : GDst) (acc : Fin 8) (clr : Bool) (pr : Pred) (s : State), s.enabled pr = true → tget 0 s.fe.accFree acc.val ≤ s.clk.toNat →
    s.fe.row < 256 →
    ∃ w : Word, fld w 0 4 = (s.fe.flagsOf acc.val).toNat ∧ w.getLsbD 8 = s.fe.drn ∧ fld w 16 8 = s.fe.row ∧ fld w 24 3 = s.fe.dacc.val ∧
      w.getLsbD 27 = s.fe.ps0.isSome ∧ w.getLsbD 28 = s.fe.ps1.isSome ∧ fld w 4 4 = 0 ∧ fld w 9 7 = 0 ∧ fld w 29 35 = 0 ∧
      exec (.mstat d acc clr pr) s = .next (gResult
        (if clr then onEngine s fun e => { e with accFlags := tput 0 e.accFlags acc.val 0 } else s) d 2 w 0))

/-- R110, R232 to R241, R243, R245: an open window that has passed closes as the primary stream's due results have committed. Where its operand bytes are still those of its
issue a product updates its accumulator by rows of A and columns of B, MMDX's planes hold their sums, and MLDACC replaces the 128 rows; where they were written meanwhile
each element is read as it was or as it is. MSTACC and a short MDRAIN write their rows, one at a time while the window is open and the rest as it closes, and a
drain's flags reach astat then. What waited for the window follows. A held mask fault is detected as the sparse-mask trap of its group and column; a plane set
lands once its interval is over; a long drain's next row is converted and written, and the last one ends the drain, raises its flags in astat, and lets a resumed
stream go on. -/
def Obligations.MatrixEvents : Prop :=
  (∀ (e : Nat) (j : ChanJob) (s : State),
    let c := s.commitDue e false
    let x := c.eng e
    x.chan = some j →
    (j.close ≤ s.clk.toNat →
      (c.operands e j.op = j.snap →
        let done (y : Engine) : Prop := exec (.resultCommit e false) s = .next { c with
          free := c.free + j.snap.length, engines := tput .reset c.engines e { j.after.foldl Engine.accOp y with chan := none } }
        (∀ w la lb, j.op = .mma w la lb →
          let k := mmaK w.t
          let fb := bFormat w.t w.bx
          done (x.mulInto w.t fb w.d.val (rowsOf w.t (k * w.t.width / 8) (c.primBytes e la (16 * k * w.t.width)))
            (denseCols (rowsOf fb (32 * w.t.width) (c.primBytes e lb (32 * k * w.t.width)))))) ∧
        (∀ w l masks, j.op = .mmas w l masks →
          let n := if w.n64 then 64 else 32
          done (x.mulInto w.t (bFormat w.t w.bx) w.d.val
            ((rangeFrom 0 128).map fun i => ((x.accRow w.a.val i).take (128 * (256 / n))).map BitVec.toNat)
            (sparseCols n masks (rowsOf .n8 256 (c.primBytes e l 65536))))) ∧
        (∀ w la lb p, j.op = .mmdx w la lb → x.planeSet w.ps = some p →
          let t : ElemType := if w.dx4 then .dx4 else .dx8
          let A := rowsOf t (4 * t.width) (c.primBytes e la (512 * t.width))
          let B := rowsOf t (32 * t.width) (c.primBytes e lb (1024 * t.width))
          ∃ planes, done (x.setPlane w.ps (some { p with planes := planes })) ∧
            ∀ k i n, k < 4 → i < 128 → n < 256 → tget 0 planes (32768 * k + 256 * i + n) =
              planeSum w.dx4 (planeSel k).1 (planeSel k).2 (A.getD i []) (column B n)) ∧
        (∀ d l st, j.op = .mldacc d l st → done (x.setAcc d.val ((rangeFrom 0 128).map fun i => c.primBytes e (l + i * st) 1024)))) ∧
      (j.op.rows = 0 → j.snap.length = (j.op.reads.map (·.2.1)).sum →
        ∃ t bs, exec (.resultCommit e false) s = .next t ∧ t.eng e = { j.after.foldl Engine.accOp (x.chanOp j.op bs) with chan := none } ∧
          t.mem = c.mem ∧ t.accs = c.accs ∧
          ∀ r l n k, j.op.reads[r]? = some (l, n, k) → ∀ i,
            ((bs.getD r []).drop (i * k)).take k = (((j.snap.drop ((j.op.reads.take r).map (·.2.1)).sum).take n).drop (i * k)).take k ∨
              ((bs.getD r []).drop (i * k)).take k = ((c.primBytes e l n).drop (i * k)).take k) ∧
      (∀ d l st, j.op = .mstacc d l st → ∃ t, exec (.resultCommit e false) s = .next t ∧
        t.eng e = { j.after.foldl Engine.accOp x with chan := none } ∧ t.accs = c.accs ∧
        RowsWritten c t (l + j.row * st) st ((rangeFrom j.row (128 - j.row)).map fun i => x.accRow d.val i)) ∧
      (∀ w l st mode, j.op = .mdrain w l st mode → mode ≠ .sr → j.row < 128 → j.after = [] → ∃ t, exec (.resultCommit e false) s = .next t ∧
        RowsWritten c t (l + j.row * st) st ((rangeFrom j.row (128 - j.row)).map fun i => (drainRow x w mode i).1) ∧
        (t.eng e).row = 128 ∧ (t.eng e).chan = none ∧ (t.eng e).astat = x.astat ||| (t.eng e).flagsOf w.d.val ∧ (t.eng e).acc = x.acc ∧
        (t.eng e).rseed = x.rseed ∧ (t.eng e).prim = x.prim ∧ t.accs = c.accs)) ∧
    (s.clk.toNat < j.close →
      (j.op.rows ≤ j.row → exec (.resultCommit e false) s = .next c) ∧
      (∀ d l st, j.op = .mstacc d l st → j.row < 128 → ∃ t, exec (.resultCommit e false) s = .next t ∧
        Stored c t (l + j.row * st) (x.accRow d.val j.row) ∧ t.eng e = { x with chan := some { j with row := j.row + 1 } }) ∧
      (∀ w l st mode, j.op = .mdrain w l st mode → j.row < 128 → ∃ t, exec (.resultCommit e false) s = .next t ∧
        let r := drainRow x w mode j.row
        Stored c t (l + j.row * st) r.1 ∧ (t.eng e).chan = some { j with row := j.row + 1 } ∧ (t.eng e).row = j.row + 1 ∧
        (t.eng e).rseed = r.2.2 ∧ (t.eng e).acc = x.acc))) ∧
  (∀ (e g : Nat) (f : SparseFault) (s : State), (s.eng e).sparse = some f → (s.eng e).gang = some g →
    let t := s.modEng e fun x => { x with sparse := none }
    exec (.sparseMask e) s = .next (t.gangTrap g (s.eng e).member false (some e) f.pc ⟨0x25, f.group * 256 + f.col, none, none, none⟩)) ∧
  (∀ (e : Nat) (ps : Bool) (p : PlaneSet) (s : State), ((s.closeDue e).eng e).planeSet ps = some p → p.landAt ≤ s.clk.toNat →
    exec (.planeSetLands e ps) s = .next ((s.closeDue e).modEng e fun x => x.setPlane ps (some { p with landed := true }))) ∧
  (∀ (e g : Nat) (d : Drain) (o : ObjEnt) (l : Nat) (s : State), (s.eng e).drain = some d → (s.eng e).gang = some g →
    s.objEnt (s.ctxOf e) d.hnd.oid = some o →
    let x := s.eng e
    let n := 32 * d.w.out.width
    let a := d.base + x.row * d.stride
    granPieces a n = [(a, n)] → a + n ≤ o.size → s.place (s.ctxOf e) d.hnd.oid o a = .at_ l → s.clearFor e l n = true →
    s.loadsDone e l n = true → s.migBlocked l n = false → s.guarded l n = false → (s.clu (cluOf e)).hscfg.getLsbD 0 = false →
    let r := drainRow x d.w (({ s with focus := ⟨e, false⟩ } : State).drainMode d.w) x.row
    ∃ t, exec (.longDrainRowPerforms e) s = .next t ∧ (t.eng e).row = x.row + 1 ∧ (t.eng e).rseed = r.2.2 ∧
      (∀ b, mget t.mem b = if l ≤ b ∧ b < l + n then r.1.getD (b - l) 0 else mget s.mem b) ∧
      (x.row + 1 < 128 → (t.eng e).drain = some d ∧ (t.eng e).astat = x.astat) ∧
      (128 ≤ x.row + 1 → (t.eng e).drain = none ∧ (t.eng e).drn = false ∧ (t.eng e).astat = x.astat ||| (t.eng e).flagsOf d.w.d.val ∧
        (d.resumed = true → (t.eng e).prim.pc = d.pc + 64)) ∧
      (t.eng e).acc = x.acc ∧ (t.eng e).prim.g = x.prim.g ∧ (t.eng e).h = x.h ∧ (t.eng e).v = x.v)

/-- R251, R252: XTRN and XPRM charge their token by the bytes moved and queue a permute job; the oldest job that may run moves element (x0, x1, x2) of its
source to the element whose coordinates are those of the source in the order of the order code, writes nothing else, and lowers its token. -/
def Obligations.Permutes : Prop :=
  (∀ (x : XPermW) (order n2 : Nat) (i : Instr) (s : State) (b c : Word) (ls ld : Nat),
    ((i = .xtrn x ∧ order = 2 ∧ n2 = 1) ∨ (i = .xprm x ∧ order = x.order.val ∧ n2 = fld c 32 12 + 1)) →
    s.enabled x.pr = true → s.g? .n64 x.b = some b → s.g? .n64 x.c = some c →
    let n : Nat × Nat × Nat := (fld c 0 12 + 1, fld c 16 12 + 1, n2)
    let total := n.1 * n.2.1 * n.2.2 * 2 ^ x.wc.toNat
    let hs := s.h x.a
    let hd := s.h x.d
    let src : Int := hs.cur + sfld b 0 32
    let dst : Int := hd.cur + sfld b 32 32
    Permits hs rR src total → Permits hd rW dst total → src % 64 = 0 → dst % 64 = 0 → InScratchpad s hs src.toNat total ls →
    InScratchpad s hd dst.toNat total ld → total ≤ 2 ^ 20 → (ld + total ≤ ls ∨ ls + total ≤ ld) → s.fe.perms.length < 4 →
    (s.fs.tok x.tok.val).toNat + total < 2 ^ 32 →
    exec i s = .next { onEngine s (fun e => { e.modStr s.focus.sec (charge x.tok.val total) with
        perms := e.perms ++ [⟨s.nextId, s.focus.sec, 2 ^ x.wc.toNat, ls, ld, n, order, x.tok.val, x.cls, [hs.oid, hd.oid]⟩] }) with nextId := s.nextId + 1 }) ∧
  (∀ (e : Nat) (j : PermJob) (js : List PermJob) (s : State), (s.eng e).perms = j :: js → s.ordered e j.sec j.id j.cls = true →
    let total := j.n.1 * j.n.2.1 * j.n.2.2 * j.wd
    s.clearFor e j.dst total = true → j.order < 6 → 0 < j.wd → (∀ p ∈ s.pends, ∀ c o, p.kind ≠ .otinv c o) →
    ∃ t, exec (.permuteJobLands e) s = .next t ∧ (t.eng e).perms = js ∧
      ((t.eng e).str j.sec).tok j.tok = .ofNat 32 ((((s.eng e).str j.sec).tok j.tok).toNat - total) ∧
      (∀ a, ¬ (j.dst ≤ a ∧ a < j.dst + total) → mget t.mem a = mget s.mem a) ∧
      ∀ x0 x1 x2 k, x0 < j.n.1 → x1 < j.n.2.1 → x2 < j.n.2.2 → k < j.wd →
        let o := [(0, 1, 2), (0, 2, 1), (1, 0, 2), (1, 2, 0), (2, 0, 1), (2, 1, 0)].getD j.order (0, 1, 2)
        let at_ (l : Nat × Nat × Nat) (d : Nat) : Nat := if d = 0 then l.1 else if d = 1 then l.2.1 else l.2.2
        let y (d : Nat) : Nat := at_ (x0, x1, x2) d
        let m (d : Nat) : Nat := at_ j.n d
        mget t.mem (j.dst + ((y o.2.2 * m o.2.1 + y o.2.1) * m o.1 + y o.1) * j.wd + k) =
          (s.cluBytes (cluOf e) j.src total).getD (((x2 * j.n.2.1 + x1) * j.n.1 + x0) * j.wd + k) 0)

/-- R253, R254: a bank command whose handles pass its checks enters its stream's buffer, with the payload that the
ALU commands read in their issue cycle and, for BCNT, its mailbox and token. -/
def Obligations.BankCommandsAreBuffered : Prop :=
  ∀ (x : XBopW) (s : State) (g : Word), s.enabled x.pr = true → s.g? .n64 x.b = some g → s.bankCount < 16 →
    let h := s.h x.a
    let hc := s.h x.c
    let a : Int := h.cur + sfld g 0 32
    let queued (op : BankOp) (src : Nat × Nat) (payload : List Byte) (mailbox : Nat) (mailOid tok : Option Nat) (f : Stream → Stream) : State :=
      let c : BankCmd :=
        { id := s.nextId, eng := s.focus.eng, sec := s.focus.sec, op := op, bt := x.bt, ctx := s.fctx, oid := h.oid, addr := a.toNat, src := src,
          operand := .ofNat 32 (fld g 32 32), payload := payload, mailbox := mailbox, mailOid := mailOid, tok := tok, pc := s.fs.pc, retry := 0,
          retryAt := none }
      { onStream s (fun y => { f y with lags := y.lags ++ [⟨s.nextId, y.cycle, .engine⟩] }) with banks := s.banks ++ [c], nextId := s.nextId + 1 }
    (Permits h rB a 1024 → a % 1024 = 0 →
      exec (.rowz x) s = .next (queued .rowz (0, 0) [] 0 none none id) ∧
      (Permits hc rR hc.cur 1024 → hc.cur % 1024 = 0 →
        exec (.rowcp x) s = .next (queued .rowcp (hc.oid, hc.cur) [] 0 none none id) ∧
        exec (.rowxf x) s = .next (queued .rowxf (hc.oid, hc.cur) [] 0 none none id))) ∧
    (∀ (op : BankOp) (i : Instr) (l : Nat), (op, i) ∈ [(BankOp.badd, Instr.badd x), (.bmax, .bmax x), (.bmin, .bmin x), (.baxpy, .baxpy x)] →
      Permits h rB a 256 → a % 256 = 0 → Permits hc rR hc.cur 256 → hc.cur % 64 = 0 → InScratchpad s hc hc.cur 256 l →
      s.before.mayStep .value (s.payloadLoad x.cls l 256) = true →
      exec i s = .next (queued op (0, 0) (s.view s.focus.eng s.focus.sec s.nextId l 256) 0 none none id)) ∧
    (∀ l, Permits h rB a 8 → a % 8 = 0 → Permits hc rW hc.cur 8 → hc.cur % 8 = 0 → InScratchpad s hc hc.cur 8 l →
      (s.fs.tok x.tok.val).toNat + 1 < 2 ^ 32 →
      exec (.bcnt x) s = .next (queued .bcnt (0, 0) [] l (some hc.oid) (some x.tok.val) (charge x.tok.val 1)))

/-- R113, R254 to R256: a command with none of its stream to the same bank before it performs at its bank: ROWZ zeroes the row, ROWCP and ROWXF copy the source row, BCNT adds its
sign-extended operand and puts the old count in the mailbox, and an ALU command replaces each element by its operation and raises the stream's bank
status. Every other byte of memory stays. -/
def Obligations.BankCommandsPerform : Prop :=
  ∀ (id : Nat) (c : BankCmd) (l ls : Nat) (s : State), s.banks.find? (·.id == id) = some c →
    s.bankBehind c = false → s.pends = [] → c.retryAt = none →
    let n := c.op.len
    let row := n = 1024
    s.bankPlace c.ctx c.oid c.addr n (!row) = (.at_ l, 0x20) →
    (c.op = .rowcp ∨ c.op = .rowxf → s.bankPlace c.ctx c.src.1 c.src.2 1024 false = (.at_ ls, 0x20)) →
    (c.op = .rowcp → s.bankOf l = s.bankOf ls) → (c.op = .rowxf → (s.bankOf l).1 = (s.bankOf ls).1) →
    s.allQuiet l n = true → (c.op = .rowcp ∨ c.op = .rowxf → s.allQuiet ls 1024 = true) → (c.op = .rowz → ls = l) →
    (c.op = .bcnt → s.clearFor c.eng c.mailbox 8 = true) → s.migBlocked l n = false → s.guarded l n = false →
    let y := (s.eng c.eng).str c.sec
    ∃ t, exec (.bankCommandPerforms id) s = .next t ∧ t.banks = s.banks.filter (·.id ≠ c.id) ∧ t.accs = s.accs ∧
      ((t.eng c.eng).str c.sec).lags = y.lags.filter (·.id ≠ c.id) ∧ ((t.eng c.eng).str c.sec).g = y.g ∧
      match c.op with
      | .rowz => Stored s t l (List.replicate 1024 0) ∧ ((t.eng c.eng).str c.sec).bankStatus = y.bankStatus
      | .rowcp | .rowxf => Stored s t l (s.bytes ls 1024) ∧ ((t.eng c.eng).str c.sec).bankStatus = y.bankStatus
      | .bcnt =>
        (∃ u, Stored s u l (leBytes 8 ((s.rdNat l 8 + (c.operand.signExtend 64).toNat) % 2 ^ 64)) ∧
          Stored u t c.mailbox (leBytes 8 (s.rdNat l 8))) ∧ ((t.eng c.eng).str c.sec).bankStatus = y.bankStatus
      | op =>
        let e := bankElem c.bt
        let b := e.width / 8
        let r (i : Nat) : Nat × Flags :=
          let old := leNat (((s.bytes l 256).drop (i * b)).take b)
          let new := leNat ((c.payload.drop (i * b)).take b)
          if op = .bmax then minMaxElem e true old new
          else if op = .bmin then minMaxElem e false old new
          else if op = .baxpy then fFma (fmtOf e) .rne false (valueOf .f32 c.operand.toNat) (valueOf e new) (valueOf e old)
          else if c.bt = .dxw then dxwStore (dxwRead old + dxwRead new) else addElem e false .rne old new
        c.payload.length = 256 →
        (∀ a, ¬ (l ≤ a ∧ a < l + 256) → mget t.mem a = mget s.mem a) ∧
        (∀ i, i * b < 256 → t.rdNat (l + i * b) b = (r i).1 % 2 ^ e.width) ∧
        ∀ k, k < 4 → (((t.eng c.eng).str c.sec).bankStatus.getLsbD k = true ↔
          y.bankStatus.getLsbD k = true ∨ ∃ i, i * b < 256 ∧ (r i).2.getLsbD k = true)

/-- R115, R257, R258: XBFEN stands under its token until the stream's commands, stores and atomics to the range it names are done, then delivers the bank status and
clears it; XBAR records its member's arrival, and a member that names another number takes the barrier-mismatch trap; a complete barrier releases every member. -/
def Obligations.FencesAndBarriers : Prop :=
  (∀ (x : XBfenW) (s : State), s.enabled x.pr = true → (∀ r, x.a = some r → (s.h r).tag = true) → (s.fs.tok x.tok.val).toNat + 1 < 2 ^ 32 →
    let range := x.a.map fun r => (s.fctx, (s.h r).oid, (s.h r).lowB, (s.h r).highB)
    exec (.xbfen x) s = .next (pendsG s x.tok.val (.xbfen x.d range))) ∧
  (∀ (p : PendOp) (d : GDst) (range : Option (Nat × Nat × Nat × Nat)) (w : Nat) (s : State), s.pends.find? (·.id == p.id) = some p →
    p.kind = .xbfen d range → p.tok = some w →
    let rs := range.bind s.rangeRuns
    let mine (eng : Nat) (sec : Bool) (id : Nat) : Prop := eng = p.eng ∧ sec = p.sec ∧ id < p.id
    ((∀ b ∈ s.banks, mine b.eng b.sec b.id → ∃ l, (s.bankPlace b.ctx b.oid b.addr b.op.len (b.op.len ≠ 1024)).1 = .at_ l ∧ rangeMeets rs l b.op.len = false) →
      (∀ a ∈ s.accs, mine a.eng a.sec a.id → (a.kind.isStore = true ∨ (a.kind.isAtom = true ∧ a.taken = none)) →
        a.parked = false ∧ ∀ q ∈ a.parts, rangeMeets rs q.loc q.n = false) →
      let y := (s.eng p.eng).str p.sec
      ∃ t, exec (.xbfenComplete p.id) s = .next t ∧ t.pends = s.pends.filter (·.id ≠ p.id) ∧ t.mem = s.mem ∧
        let z := (t.eng p.eng).str p.sec
        z.bankStatus = 0 ∧ TokenFalls y z w ∧ LandedG y z p.id d (.ofNat 64 y.bankStatus.toNat)) ∧
    ((∃ b ∈ s.banks, mine b.eng b.sec b.id ∧ ∃ l, (s.bankPlace b.ctx b.oid b.addr b.op.len (b.op.len ≠ 1024)).1 = .at_ l ∧ rangeMeets rs l b.op.len = true) →
      exec (.xbfenComplete p.id) s = .next s)) ∧
  (∀ (n : Fin 16) (gk : Nat) (g : Gang) (s : State), s.windowOpen = false → s.fe.gang = some gk → s.gangOf gk = some g →
    s.fe.member < g.members.length →
    ((∀ m ∈ g.members, ∀ k pc, m.barrier = some (k, pc) → k = n.val) →
      exec (.xbar n) s = .next { same s with gangs := s.gangs.map fun y => if y.gk = gk then
        { y with members := y.members.zipIdx.map fun q => if q.2 = s.fe.member then { q.1 with barrier := some (n.val, s.fs.pc) } else q.1 } else y }) ∧
    ((∃ m ∈ g.members, ∃ k pc, m.barrier = some (k, pc) ∧ k ≠ n.val) → (s.ctx g.ctx).st.live = true →
      (∀ i m, g.members[i]? = some m → i = s.fe.member → m.barrier = none) →
      ∃ t, exec (.xbar n) s = .next t ∧ (t.ctx g.ctx).st = .stopping ∧ (t.ctx g.ctx).ending = some ⟨1, 0x26⟩ ∧
        ∀ y ∈ t.gangs, y.gk = gk → y.trapped = true)) ∧
  (∀ (gk n i : Nat) (pc : Word) (g : Gang) (s : State), s.gangOf gk = some g → g.arrived = some (i, n, pc) →
    (∀ m ∈ g.members, m.st = .ended ∨ ((∃ q, m.barrier = some (n, q)) ∧ s.memberReached g.clu m = true)) →
    exec (.barrierComplete gk) s = .next { s with gangs := s.gangs.map fun y => if y.gk = gk then
      { y with members := y.members.map fun m => { m with barrier := none } } else y })

/-- R259 to R261: XEVT that is not held back writes its record behind the cluster's others, with the next sequence number, in the place of the oldest
gang-retired record of a full queue; while accesses of its own bundle are not device-visible its record waits. XEVP takes the oldest record that it may take, into its h
register; with none, a poll delivers zero and a wait stands until one comes. -/
def Obligations.ClusterEvents : Prop :=
  (∀ (a b : GSrc) (pr : Pred) (s : State) (v g : Word), s.enabled pr = true → s.g? .n64 a = some v → s.g? .n64 b = some g → s.windowOpen = false →
    let c := cluOf s.focus.eng
    let y := s.clu c
    let r := evRecord v.toNat g.toNat (s.fe.gang.getD 0) 3 0 s.fe.member s.focus.sec
    y.evHeld = [] → releaseOk s.accs s.focus.eng s.focus.sec s.base .dev 0xFFFF = true → s.pends = [] →
    (y.events.length < 256 ∨ ∃ e ∈ y.events, evKind e.2 = 2) →
    (releaseOk s.accs s.focus.eng s.focus.sec s.nextId .dev 0xFFFF = true →
      exec (.xevt a b pr) s = .next { same s with
        nextId := s.nextId + 1
        clusters := tput .reset s.clusters c { y with
          events := (if y.events.length < 256 then y.events else dropRetired y.events) ++ [(s.fctx, r ||| y.evSeq.zeroExtend 128)]
          evSeq := y.evSeq + 1 } }) ∧
    (releaseOk s.accs s.focus.eng s.focus.sec s.nextId .dev 0xFFFF = false →
      exec (.xevt a b pr) s = .next { same s with
        nextId := s.nextId + 1, pends := [⟨s.nextId, s.focus.eng, s.focus.sec, none, .evt s.fctx c r⟩] })) ∧
  (∀ (x : XEvpW) (s : State) (c : Nat), s.enabled x.pr = true → NamesCluster s x.a c → (s.fs.tok x.tok.val).toNat + 1 < 2 ^ 32 →
    let gtag := if isSeq s.focus.eng then none else some (s.fe.gang.getD 0 % 65536)
    let value (v : Nat) : Access := landing s .aq 16 v (.h x.d.val) x.tok.val false
    (∀ k e, (s.clu c).events[k]? = some e → evMatches x.kinds s.fctx gtag e = true →
      (∀ j d, j < k → (s.clu c).events[j]? = some d → evMatches x.kinds s.fctx gtag d = false) → s.pends = [] → (s.clu c).evHeld = [] →
      ∀ i ∈ [Instr.xevpPoll x, .xevpWait x],
        ∃ t, exec i s = .next t ∧ t.slot = .ok ∧ t.accs = s.accs ++ [value e.2.toNat] ∧ (t.clu c).events = (s.clu c).events.eraseIdx k ∧
          t.engines = (onStream s (charge x.tok.val 1)).engines ∧ t.mem = s.mem ∧ t.pends = []) ∧
    ((∀ e ∈ (s.clu c).events, evMatches x.kinds s.fctx gtag e = false) →
      exec (.xevpPoll x) s = .next { onStream s (charge x.tok.val 1) with accs := s.accs ++ [value 0], nextId := s.nextId + 1 } ∧
      exec (.xevpWait x) s = .next (pends s x.tok.val (.xevp x.d.val x.kinds s.fctx c gtag))))

/-- R262 to R265: XTOK sets or charges a token; XCWAY stands under its token, and when it completes the lend count is in force and every newly lent byte reads
zero; XINV and XWB of no byte complete at once and otherwise stand under their token until the lines of their range that were dirty as they began have
reached their tier;
XPREF changes nothing. -/
def Obligations.TokensWaysAndCaches : Prop :=
  (∀ (tok : Fin 8) (a : GSrc) (pr : Pred) (s : State) (v : Word), s.enabled pr = true → s.g? .n64 a = some v →
    exec (.xtokSet tok a pr) s = .next (onStream s fun y => { y with toks := tput 0 y.toks tok.val (v.truncate 32) }) ∧
    ((s.fs.tok tok.val).toNat + v.toNat % 2 ^ 32 < 2 ^ 32 →
      exec (.xtokAdd tok a pr) s = .next (onStream s (charge tok.val (v.toNat % 2 ^ 32)))) ∧
    (2 ^ 32 ≤ (s.fs.tok tok.val).toNat + v.toNat % 2 ^ 32 →
      exec (.xtokAdd tok a pr) s = .next (s.takeTrap ⟨0x08, tok.val, none, none, none⟩))) ∧
  (∀ (n : Fin 9) (a : GSrc) (tok : Fin 8) (pr : Pred) (s : State) (c : Nat), s.enabled pr = true → NamesCluster s a c →
    (isSeq s.focus.eng = true ∨ ∃ g, s.fe.gang.bind s.gangOf = some g ∧ g.wlp = true) →
    (∀ r ∈ (s.clu c).regions, r.first + r.n ≤ 1536 + 16 * n.val) → (s.fs.tok tok.val).toNat + 1 < 2 ^ 32 →
    exec (.xcway n a tok pr) s = .next (pends s tok.val (.wayLend c n.val))) ∧
  (∀ (p : PendOp) (c n : Nat) (s : State), s.pends.find? (·.id == p.id) = some p → p.kind = .wayLend c n →
    (∀ q ∈ s.pends, q.id < p.id → ∀ k, q.kind ≠ .wayLend c k) →
    let w := (s.clu c).ways
    ∃ t, exec (.wayLendComplete p.id) s = .next t ∧ (t.clu c).ways = n ∧ t.pends = s.pends.filter (·.id ≠ p.id) ∧
      (∀ a, mget t.mem a = if locSp c (0x1800000 + w * 0x40000) ≤ a ∧ a < locSp c (0x1800000 + n * 0x40000) then 0 else mget s.mem a) ∧
      ∀ v, p.tok = some v → ((t.eng p.eng).str p.sec).tok v = .ofNat 32 ((((s.eng p.eng).str p.sec).tok v).toNat - 1)) ∧
  (∀ (x : XRangeW) (s : State) (b c : Word), s.enabled x.pr = true → s.g? .i64 x.b = some b → s.g? .n64 x.c = some c →
    exec (.xpref x) s = .next (same s) ∧
    ∀ i ∈ [Instr.xinv x, .xwb x], (s.h x.h).tag = true → (s.h x.h).has rR = true → (s.fs.tok x.tok.val).toNat + 1 < 2 ^ 32 →
      (c = 0 → ∃ t, exec i s = .next t ∧ t.slot = .ok ∧ (∀ w, t.fs.tok w = s.fs.tok w) ∧ t.pends = s.pends ∧ t.mem = s.mem) ∧
      (c ≠ 0 → c.toNat ≤ 2 ^ 32 → Permits (s.h x.h) rR ((s.h x.h).cur + b.toInt) c.toNat →
        exec i s = .next (pends s x.tok.val (.cache x.cls s.fctx (s.h x.h).oid ((s.h x.h).cur + b.toInt).toNat
          (if (s.h x.h).has rN then 0 else c.toNat) none)))) ∧
  (∀ (p : PendOp) (cls : BitVec 4) (c oid a n : Nat) (started : Option (List Nat)) (s : State), s.pends.find? (·.id == p.id) = some p →
    p.kind = .cache cls c oid a n started → (started = none → s.ordered p.eng p.sec p.id cls = true) →
    let ids := started.getD (s.dirtyIn c oid a n)
    ((∀ w ∈ s.accs, w.id ∉ ids) → exec (.cacheWritebackComplete p.id) s = .next (ends s p)) ∧
    ((∃ w ∈ s.accs, w.id ∈ ids) → exec (.cacheWritebackComplete p.id) s = .next { s with
      pends := s.pends.map fun q => if q.id = p.id then { q with kind := .cache cls c oid a n (some ids) } else q }) ∧
    ∀ w ∈ s.accs, started = none → w.vis = 0 → (∀ v ∈ s.accs, v.id = w.id → v = w) → w.id ∉ ids)

/-! ### The sequencers -/

/-- R267, R268, R273: QDLD delivers a word or a handle of a descriptor of the image under its token, QDST writes one; QDIM reads a shape register, divides
it rounding up (0 with NV by 0) or writes it; BCNX delivers a word of the graph instruction or sets where bytecode goes on. A descriptor outside the image takes the descriptor-range trap. -/
def Obligations.SequencerData : Prop :=
  ∀ (s : State) (a b : GSrc) (d : GDst) (dh h : Fin 16) (k : BitVec 6) (tok : Fin 8) (pr : Pred) (i v : Word), s.enabled pr = true →
    s.g? .n64 a = some i → s.g? .n64 b = some v →
    let c := s.fctx
    let x := s.ctx c
    let room := (s.fs.tok tok.val).toNat + 1 < 2 ^ 32
    (i.toNat < s.ndesc c → k.toNat < 16 →
      (room → exec (.qdld d a k tok pr) s = .next (deliversG s d tok.val (s.descWord c i.toNat k.toNat))) ∧
      (room → k.toNat % 2 = 0 →
        exec (.qdldHandle dh a k tok pr) s = .next (deliversH s dh tok.val (s.rdHandle (s.descLoc c i.toNat k.toNat)))) ∧
      (∃ t, exec (.qdst a b k pr) s = .next t ∧ t.slot = .ok ∧ Stored s t (s.descLoc c i.toNat k.toNat) (leBytes 8 v.toNat) ∧
        t.engines = s.engines ∧ t.accs = s.accs) ∧
      (k.toNat % 2 = 0 → ∃ t, exec (.qdstHandle a h k pr) s = .next t ∧ t.slot = .ok ∧
        Stored s t (s.descLoc c i.toNat k.toNat) (leBytes 16 (s.h h).bits.toNat) ∧
        (s.descLoc c i.toNat k.toNat < 2 ^ 52 → tagGet t.tags (s.descLoc c i.toNat k.toNat / 16) = (s.h h).tag) ∧
        t.engines = s.engines ∧ t.accs = s.accs)) ∧
    (s.ndesc c ≤ i.toNat → exec (.qdld d a k tok pr) s = .next (s.takeTrap ⟨0x42, 0, none, some (i.toNat % 65536), none⟩)) ∧
    (∀ z : Fin 64,
      let n := tget 0 x.z z.val
      exec (.qdimRd d z pr) s = .next (gResult s d 2 n 0) ∧
      (v ≠ 0 → exec (.qdimTiles d z b pr) s = .next (gResult s d 2 (.ofNat 64 ((n.toNat + v.toNat - 1) / v.toNat)) 0)) ∧
      (v = 0 → exec (.qdimTiles d z b pr) s = .next (gResult s d 2 0 fNV)) ∧
      exec (.qdimWr z b pr) s = .next { same s with ctxs := tput .reset s.ctxs c { x with z := tput 0 x.z z.val v } }) ∧
    (∀ j : BitVec 4, room → exec (.bcnx d j tok pr) s = .next (deliversG s d tok.val
      (((s.seq (s.focus.eng - 48)).words.getD j.toNat 0).zeroExtend 64))) ∧
    exec (.bcnxJmp b pr) s = .next { same s with
      seqs := tput .reset s.seqs (s.focus.eng - 48) { s.seq (s.focus.eng - 48) with nextBpc := some v.toNat } }

/-- R86, R87, R269, R270: RALC grants the lowest run of granules that fits and delivers its first granule, at once where no granule of it was freed by another
context, else once each such granule is zeroed; where none fits it delivers 2^63 and grants nothing. SCRUB zeroes a granule, and the last one completes the grant. RFRE
frees its region as soon as no gang names it. -/
def Obligations.Regions : Prop :=
  (∀ (d : GDst) (a b : GSrc) (i : Fin 16) (tok : Fin 8) (pr : Pred) (s : State) (n p : Word) (k : Nat), s.enabled pr = true →
    s.g? .n64 a = some n → s.g? .n64 b = some p → (cluList (s.ctx s.fctx).clset)[i.val]? = some k →
    let c := s.fctx
    let x := s.clu k
    let oid := fld p 0 20
    let limit := s.granules k
    let free (g : Nat) : Prop := g + n.toNat ≤ limit ∧ ∀ r ∈ x.regions, r.first + r.n ≤ g ∨ g + n.toNat ≤ r.first
    ralcBad s c k n.toNat p = false → x.heldBy c + n.toNat ≤ s.quotaOf c → (s.fs.tok tok.val).toNat + 1 < 2 ^ 32 →
    ((∀ g, ¬ free g) → exec (.ralc d a b i tok pr) s = .next (deliversG s d tok.val (.ofNat 64 (2 ^ 63)))) ∧
    ∀ g, free g → (∀ j, j < g → ¬ free j) →
      ∃ t, exec (.ralc d a b i tok pr) s = .next t ∧ t.slot = .ok ∧ (t.clu k).regions = x.regions ++ [⟨g, n.toNat, c, oid, p.getLsbD 20⟩] ∧
        ((t.fe).str s.focus.sec).tok tok.val = (s.fs.tok tok.val) + 1 ∧
        (p.getLsbD 20 = true → (t.clu k).cacheK = fld p 21 3 + 12 ∧ (t.clu k).cacheB = 2 ^ fld p 24 4 ∧ (t.clu k).tagTable = []) ∧
        ((∀ j, g ≤ j → j < g + n.toNat → x.dirtyFor c j = false) →
          t.accs = s.accs ++ [landing s .plain 8 (BitVec.ofNat 64 g).toNat (.g d) tok.val false] ∧ t.pends = s.pends) ∧
        ((∃ j, g ≤ j ∧ j < g + n.toNat ∧ x.dirtyFor c j = true) → t.accs = s.accs ∧
          t.pends = s.pends ++ [⟨s.nextId, s.focus.eng, s.focus.sec, some tok.val, .scrub k g n.toNat d (.ofNat 64 g)⟩])) ∧
  (∀ (k g : Nat) (r : Region) (s : State), (s.clu k).regions.find? (fun r => r.first ≤ g && g < r.first + r.n) = some r →
    (s.clu k).dirtyFor r.ctx g = true →
    ∃ t, exec (.scrub k g) s = .next t ∧ Stored s t (locSp k (g * 16384)) (List.replicate 16384 0) ∧ tget 0 (t.clu k).freed g = 0 ∧
      (∀ (p : PendOp) (f n : Nat) (d : GDst) (v : Word), s.pends = [p] → p.kind = .scrub k f n d v → f ≤ g → g < f + n →
        ((∀ j, f ≤ j → j < f + n → j ≠ g → (s.clu k).dirtyFor r.ctx j = false) →
          t.pends = [] ∧ ∃ a : Access, t.accs = s.accs ++ [a] ∧ a.dst = .g d ∧ a.tok = p.tok ∧ a.id = p.id ∧ a.parts = [⟨0, 0, 8, v.toNat⟩]) ∧
        ((∃ j, f ≤ j ∧ j < f + n ∧ j ≠ g ∧ (s.clu k).dirtyFor r.ctx j = true) → t.pends = [p] ∧ t.accs = s.accs))) ∧
  (∀ (a : GSrc) (i : Fin 16) (tok : Fin 8) (pr : Pred) (s : State) (o : Word) (k : Nat), s.enabled pr = true → s.g? .n64 a = some o →
    (cluList (s.ctx s.fctx).clset)[i.val]? = some k → s.pends = [] → (s.fs.tok tok.val).toNat + 1 < 2 ^ 32 →
    (∃ r ∈ (s.clu k).regions, r.ctx = s.fctx ∧ r.oid = o.toNat) →
    (s.regionNamed s.fctx k o.toNat = true → exec (.rfre a i tok pr) s = .next (pends s tok.val (.rfre s.fctx k o.toNat))) ∧
    (s.regionNamed s.fctx k o.toNat = false →
      ∃ t, exec (.rfre a i tok pr) s = .next t ∧ t.slot = .ok ∧ t.pends = [] ∧
        ((s.clu k).fills = [] → t.fs.tok tok.val = s.fs.tok tok.val) ∧ (∀ r ∈ (s.clu k).regions, r.ctx = s.fctx → r.oid = o.toNat → r.cache = true →
          (∀ q ∈ (s.clu k).regions, q.ctx = s.fctx → q.oid = o.toNat → q = r) → (t.clu k).fills = [] ∧ (t.clu k).tagTable = []) ∧
        (t.clu k).regions = (s.clu k).regions.filter fun q => !(q.ctx == s.fctx && q.oid == o.toNat)))

/-- R25, R271, R386 to R389: a GANG whose records pass every check makes one gang of each, in CIDX order, with the cluster, demand, members and arguments of
its record; where the partition's tags are not all held each gets one that no gang holds, and that of a gang without a cohort is written into its record. The first tag lands
in the g register once the front ends have room and list the gangs. -/
def Obligations.GangIssue : Prop :=
  (∀ (cls : BitVec 4) (d : GDst) (h : Fin 16) (b : GSrc) (tok : Fin 8) (pr : Pred) (s : State) (off : Word) (n : Nat)
    (rs : List (GRec × List (List Word) × Nat)), s.enabled pr = true → s.g? .i64 b = some off →
    let hd := s.h h
    let a : Int := hd.cur + off.toInt
    let c := s.fctx
    let p := (s.ctx c).part.val
    let rec_ (i : Nat) : GRec := (rs.map (·.1)).getD i ⟨[], []⟩
    isSeq s.focus.eng = true → releaseOk s.accs s.focus.eng s.focus.sec s.base .dev 0xFFFF = true → rs.length = n → 1 ≤ n →
    ((n = 1 ∧ (rec_ 0).csize = 0) ∨ (2 ≤ n ∧ n ≤ 64 ∧ (rec_ 0).csize = n ∧ (rec_ 0).cidx = 0 ∧ cohortMisfit (rs.map (·.1)) = none)) →
    (∀ (i : Nat) (r : GRec) (jobs : List (List Word)) (l : Nat), rs[i]? = some (r, jobs, l) →
      RecordAt s hd (a + 256 * i) 256 l ∧ s.before.mayStep .value (s.payloadLoad cls l 256) = true ∧ r = s.readGRec l ∧
      gangCodes s c (rec_ 0) r i jobs = [] ∧ jobs.length = r.nj ∧
      ∀ j w, jobs[j]? = some w → ∃ k, RecordAt s (r.handle 2) (((r.handle 2).cur + 64 * j : Nat) : Int) 64 k ∧ w = s.readJob k 0) →
    (s.fs.tok tok.val).toNat + 1 < 2 ^ 32 →
    ∃ t gs, exec (.gang cls d h b tok pr) s = .next t ∧ t.slot = .ok ∧ t.gangs = s.gangs ++ gs ∧ gs.length = n ∧
      t.pends = s.pends ++ [⟨s.nextId, s.focus.eng, s.focus.sec, some tok.val, .list c (gs.map (·.gk)) d⟩] ∧
      t.fs.tok tok.val = s.fs.tok tok.val + 1 ∧ t.fs.sq = ⟨0, .token s.nextId⟩ :: s.fs.sq ∧ t.accs = s.accs ∧
      ∀ (i : Nat) (g : Gang) (r : GRec) (jobs : List (List Word)) (l : Nat), gs[i]? = some g → rs[i]? = some (r, jobs, l) →
        g.st = .issued ∧ g.ctx = c ∧ g.gk / 65536 = p ∧ g.dem = r.dem ∧ g.wlp = (r.word 0).getLsbD 18 ∧ g.code = r.handle 1 ∧
        (cluList (s.ctx c).clset)[fld (r.word 0) 0 4]? = some g.clu ∧ g.cohort = (if n = 1 then none else some (s.nextId, n)) ∧
        g.members.length = r.nt ∧ (∀ m x, g.members[m]? = some x → x.pep = .ofNat 64 ((r.handle 1).cur + 64 * fld (r.word 6) (16 * m) 16) ∧
          x.sep = if r.smask.testBit m then some (.ofNat 64 ((r.handle 1).cur + 64 * fld (r.word 7) (16 * m) 16)) else none) ∧
        g.gargs = (rangeFrom 8 8).map r.word ∧ g.hargs = (rangeFrom 0 8).map r.arg ∧
        g.tix = s.fe.tix.toNat ∧ g.bpc = (s.ctx c).bpc ∧
        (s.gangs.length + n ≤ 65536 → s.gangOf g.gk = none ∧ ∀ (j : Nat) (h : Gang), gs[j]? = some h → h.gk = g.gk → j = i) ∧
        (n = 1 → s.guarded (l + 6) 2 = false → Stored s t (l + 6) (leBytes 2 (g.gk % 65536)))) ∧
  (∀ (p : PendOp) (c w : Nat) (gks : List Nat) (d : GDst) (s : State), s.pends.find? (·.id == p.id) = some p → p.kind = .list c gks d →
    p.tok = some w → releaseOk s.accs p.eng p.sec p.id .dev 0xFFFF = true →
    let mine := s.gangs.filter fun g => gks.contains g.gk
    (∀ g ∈ mine, s.listedAt g.clu + (mine.filter fun h => h.clu == g.clu).length ≤ 64) →
    let y := (s.eng p.eng).str p.sec
    ∃ t, exec (.gangListed p.id) s = .next t ∧ t.pends = s.pends.filter (·.id ≠ p.id) ∧ t.mem = s.mem ∧
      t.gangs = s.gangs.map (fun g => if gks.contains g.gk ∧ g.st = .issued then
        { g with st := if g.cohort.isSome then .pending else .listed, arrival := s.nextId } else g) ∧
      let z := (t.eng p.eng).str p.sec
      TokenFalls y z w ∧ LandedG y z p.id d (.ofNat 64 (gks.headD 0 % 65536)))

/-- R272: HSCB adds a reader or a writer entry for a gang that has not retired, and nothing for one that has; HWAIT stands under its token until no entry, or no
writer entry, for its object remains. R73, R274, R275: HMINT delivers the handle of two g registers with its tag set where R73 admits it and traps otherwise; OTINV
removes the object, and its token falls once the accesses, permutes and mailboxes admitted through it are done; UTRAP takes the trap that its operands name. -/
def Obligations.ScoreboardAndHandles : Prop :=
  (∀ (a b : GSrc) (pr : Pred) (s : State) (o v : Word), s.enabled pr = true → s.g? .n64 a = some o → s.g? .n64 b = some v →
    let c := s.fctx
    let x := s.ctx c
    let gk := x.part.val * 65536 + v.toNat % 65536
    (s.gangOf gk = none → exec (.hscbReader a b pr) s = .next (same s) ∧ exec (.hscbWriter a b pr) s = .next (same s)) ∧
    (s.gangOf gk ≠ none → x.scb.length < 512 →
      exec (.hscbReader a b pr) s = .next { same s with ctxs := tput .reset s.ctxs c { x with scb := x.scb ++ [⟨o.toNat, gk, false⟩] } } ∧
      exec (.hscbWriter a b pr) s = .next { same s with ctxs := tput .reset s.ctxs c { x with scb := x.scb ++ [⟨o.toNat, gk, true⟩] } })) ∧
  (∀ (a : GSrc) (tok : Fin 8) (pr : Pred) (s : State) (o : Word), s.enabled pr = true → s.g? .n64 a = some o →
    (s.fs.tok tok.val).toNat + 1 < 2 ^ 32 →
    exec (.hwaitRd a tok pr) s = .next (pends s tok.val (.hwait true s.fctx o.toNat)) ∧
    exec (.hwaitWr a tok pr) s = .next (pends s tok.val (.hwait false s.fctx o.toNat))) ∧
  (∀ (p : PendOp) (rd : Bool) (c oid : Nat) (s : State), s.pends.find? (·.id == p.id) = some p → p.kind = .hwait rd c oid →
    (∀ e ∈ (s.ctx c).scb, e.oid = oid → rd = true ∧ e.writer = false) → exec (.hwaitComplete p.id) s = .next (ends s p)) ∧
  (∀ (d : Fin 16) (a : Fin 32) (tok : Fin 8) (pr : Pred) (s : State), s.enabled pr = true → (s.fs.tok tok.val).toNat + 1 < 2 ^ 32 →
    let g (n : Nat) : Word := if n = 0 then 0 else tget 0 s.fs.g n
    let h : Handle := ⟨(g (a.val + 1)).append (g a.val), true⟩
    (s.mintOk s.fctx h = true → exec (.hmint d a tok pr) s = .next (deliversH s d tok.val h)) ∧
    (s.mintOk s.fctx h = false → exec (.hmint d a tok pr) s = .next (s.takeTrap ⟨0x4F, 0, some h.oid, none, none⟩)) ∧
    (∀ o, s.objEnt s.fctx h.oid = some o → o.space.val ≤ 2 → h.lowB ≤ o.size → h.highB ≤ o.size →
      (h.has rS = true → h.has rN = true) → h.has 0 = false → s.mintOk s.fctx h = true) ∧
    ((s.objEnt s.fctx h.oid = none ∨ h.has 0 = true ∨ (h.has rS = true ∧ h.has rN = false) ∨
      ∃ o, s.objEnt s.fctx h.oid = some o ∧ (o.size < h.lowB ∨ o.size < h.highB)) → s.mintOk s.fctx h = false)) ∧
  (∀ (a : GSrc) (tok : Fin 8) (pr : Pred) (s : State) (o : Word), s.enabled pr = true → s.g? .n64 a = some o → s.pends = [] →
    (s.fs.tok tok.val).toNat + 1 < 2 ^ 32 →
    let c := s.fctx
    let oid := o.toNat % 2 ^ 20
    let done := (∀ x ∈ s.accs, x.obj = (c, oid) → x.parked = true ∨ (x.kind.isLoad = true ∧ x.taken ≠ none)) ∧
      (∀ b ∈ s.banks, b.ctx = c → b.mailOid ≠ some oid) ∧ ∀ e ∈ s.engines, s.ctxOf e.1 = c → ∀ j ∈ e.2.perms, oid ∉ j.objs
    ∃ t, exec (.otinv a tok pr) s = .next t ∧ t.slot = .ok ∧ t.accs = s.accs ∧
      (s.leafLoc c oid = none → t.objEnt c oid = none ∧ t.mem = s.mem) ∧
      (∀ l, s.leafLoc c oid = some l → Stored s t l (List.replicate 32 0)) ∧
      (done → t.pends = [] ∧ t.fs.tok tok.val = s.fs.tok tok.val) ∧
      (¬ done → t.pends = [⟨s.nextId, s.focus.eng, s.focus.sec, some tok.val, .otinv c oid⟩] ∧ t.fs.tok tok.val = s.fs.tok tok.val + 1)) ∧
  (∀ (detail : BitVec 12) (a b c : GSrc) (pr : Pred) (s : State) (t d o : Word), s.enabled pr = true → s.g? .n64 a = some t →
    s.g? .n64 b = some d → s.g? .n64 c = some o →
    exec (.utrap detail a b c pr) s = .next (s.takeTrap
      ⟨0x53, detail.toNat, some (o.toNat % 2 ^ 20), some (d.toNat % 65536), some (t.toNat % 2 ^ 32)⟩))

/-- R27, R172, R273, R276: QYLD ends the routine of a sequencer whose tokens read zero as its bundle begins: the bytecode PC moves on (stays under .repeat), the operator step
advances, and tix and tdsc read zero; .yield gives the sequencer up as well; without QCTX an open loop traps; QCTX says whether the registers are kept. -/
def Obligations.RoutineEnds : Prop :=
  (∀ (pr : Pred) (s : State) (q : Fin 4) (c : Nat), s.enabled pr = true → s.focus = ⟨48 + q.val, false⟩ → (s.seq q.val).ctx = some c → c < 1024 →
    (∀ k, k < 8 → s.tokBefore k = 0) → ((s.ctx c).keep = true ∨ s.fs.nloops = []) →
    let x := s.ctx c
    let n := (s.seq q.val).nextBpc.getD (x.bpc + max 1 (s.seq q.val).words.length)
    (∀ op ∈ [(Instr.qyldEnd pr, n), (.qyldRepeat pr, x.bpc)],
      ∃ t, exec op.1 s = .next t ∧ t.slot = .ok ∧ (t.ctx c).bpc = op.2 ∧ (t.ctx c).opstep = x.opstep + 1 ∧ (t.ctx c).st = x.st ∧
        (t.seq q.val).routine = .none ∧ (t.seq q.val).words = [] ∧ (t.seq q.val).nextBpc = none ∧ (t.seq q.val).ctx = some c ∧
        (t.eng (48 + q.val)).tix = 0 ∧ (t.eng (48 + q.val)).tdsc = 0 ∧
        (x.keep = false → (t.eng (48 + q.val)).prim.g = [] ∧ (t.eng (48 + q.val)).prim.sq = [] ∧ (t.eng (48 + q.val)).rmode = 0)) ∧
    (x.st = .running → ∃ t, exec (.qyldYield pr) s = .next t ∧ t.slot = .ok ∧ (t.ctx c).bpc = n ∧ (t.ctx c).st = .ready ∧
      (t.seq q.val).ctx = none ∧ (t.ctx c).seq = none)) ∧
  (∀ (s : State) (k : Nat), s.fs.tok k = 0 → s.tokBefore k = 0) ∧
  (∀ (pr : Pred) (s : State), s.enabled pr = true → (∀ k, k < 8 → s.tokBefore k = 0) → (s.ctx s.fctx).keep = false → s.fs.nloops ≠ [] →
    exec (.qyldEnd pr) s = .next (s.takeTrap ⟨0x09, 0, none, none, none⟩)) ∧
  (∀ (pr : Pred) (s : State), s.enabled pr = true → (∃ k, k < 8 ∧ s.tokBefore k ≠ 0) → exec (.qyldEnd pr) s = .next s.stall) ∧
  (∀ (s : State),
    exec .qctxKeep s = .next { same s with ctxs := tput .reset s.ctxs s.fctx { s.ctx s.fctx with keep := true } } ∧
    exec .qctxDrop s = .next { same s with ctxs := tput .reset s.ctxs s.fctx { s.ctx s.fctx with keep := false } })

/-! ### Graph code -/

/-- R27, R290, R291: where each control instruction goes, what it pushes or pops, and the trap of a full or empty stack. R292: SIGNAL adds to its word once every gang of the context has retired; WAITE goes on where the word is at least n and otherwise gives the sequencer up until the word is written. -/
def Obligations.GraphControlAndWords : Prop :=
  (∀ (s : State) (q c : Nat), OnSequencer s q c →
    let x := s.ctx c
    let pc := x.bpc
    exec .graphNop s = .next (boundary s q c id (pc + 1)) ∧
    (∀ d : BitVec 16, 0 ≤ (pc : Int) + d.toInt →
      exec (.graphJmp d) s = .next (boundary s q c id ((pc : Int) + d.toInt).toNat) ∧
      (∀ (k : GCond) (a b : GVal),
        exec (.jif k d a b) s = .next (boundary s q c id
          (if (match k with
            | .eq => decide (s.val c a = s.val c b)
            | .ne => decide (s.val c a ≠ s.val c b)
            | .lt => decide (s.val c a < s.val c b)
            | .le => decide (s.val c a ≤ s.val c b)
            | .gt => decide (s.val c b < s.val c a)
            | .ge => decide (s.val c b ≤ s.val c a)) = true then ((pc : Int) + d.toInt).toNat else pc + 3))) ∧
      (x.gcalls.length < 16 → exec (.callg d) s = .next (boundary s q c (fun y => { y with gcalls := (pc + 1) :: y.gcalls })
        ((pc : Int) + d.toInt).toNat)) ∧
      (16 ≤ x.gcalls.length → exec (.callg d) s = .next (s.takeTrap ⟨0x45, 0, none, none, none⟩))) ∧
    (∀ (skip : BitVec 16) (n : GVal) (idx : Option (Fin 64)),
      let body := pc + 2 + idx.isSome.toNat
      (s.val c n ≤ 0 → exec (.loopb skip n idx) s = .next (boundary s q c id (pc + skip.toNat))) ∧
      (0 < s.val c n → x.gloops.length < 8 →
        exec (.loopb skip n idx) s = .next (boundary s q c (fun y =>
          let y := { y with gloops := ⟨body, (s.val c n).toNat, idx⟩ :: y.gloops }
          match idx with | some k => setShape k.val 0 y | none => y) body)) ∧
      (0 < s.val c n → 8 ≤ x.gloops.length → exec (.loopb skip n idx) s = .next (s.takeTrap ⟨0x45, 0, none, none, none⟩))) ∧
    (x.gloops = [] → exec .loope s = .next (s.takeTrap ⟨0x45, 0, none, none, none⟩)) ∧
    (∀ l rest, x.gloops = l :: rest →
      (l.rem ≤ 1 → exec .loope s = .next (boundary s q c (fun y => { y with gloops := rest }) (pc + 1))) ∧
      (1 < l.rem → exec .loope s = .next (boundary s q c (fun y =>
        let y := { y with gloops := { l with rem := l.rem - 1 } :: rest }
        match l.idx with | some k => setShape k.val (tget 0 y.z k.val + 1) y | none => y) l.start))) ∧
    (x.gcalls = [] → exec .retg s = .next (s.takeTrap ⟨0x45, 0, none, none, none⟩)) ∧
    (∀ p rest, x.gcalls = p :: rest → exec .retg s = .next (boundary s q c (fun y => { y with gcalls := rest }) p)) ∧
    (x.st = .running → ∃ t, exec .yield s = .next t ∧ t.slot = .ok ∧ (t.ctx c).bpc = pc + 1 ∧ (t.ctx c).st = .ready ∧ (t.ctx c).seq = none ∧
      (t.seq q).ctx = none) ∧
    (∀ e : BitVec 16, (∀ g ∈ s.gangs, g.ctx ≠ c) → x.st.live = true →
      ∃ t, exec (.halt e) s = .next t ∧ t.slot = .ok ∧ (t.ctx c).st = .stopping ∧ (t.ctx c).ending = some ⟨0, e⟩ ∧ (t.seq q).ctx = none)) ∧
  (∀ (s : State) (q c l : Nat) (w : Desc) (n : GVal), OnSequencer s q c → WordAt s c w l →
    let pc := (s.ctx c).bpc
    ((∀ g ∈ s.gangs, g.ctx ≠ c) → releaseOk s.accs (48 + q) false s.nextId .dev 0xFFFF = true → s.allQuiet l 8 = true →
      ∃ t, exec (.signal w n) s = .next t ∧ EndsAt s t q c (pc + 3) ∧
        Stored s t l (leBytes 8 (s.rd64 l + .ofInt 64 (s.val c n)).toNat)) ∧
    (s.val c n ≤ (s.rd64 l).toNat → exec (.waite w n) s = .next (boundary s q c id (pc + 3))) ∧
    ((s.rd64 l).toNat < s.val c n → ∃ t, exec (.waite w n) s = .next t ∧ WaitsAt t q c pc (.word l) ∧ LeavesMemory s t q c))

/-- R286 to R289: SHOP writes the exact result and traps where it or an operand is out of range; SHRD reads an extent, a stride, the rank or the footprint; SHLD reads an
element that no gang is writing, zero- or sign-extended. -/
def Obligations.GraphShapes : Prop :=
  (∀ (s : State) (q c : Nat) (op : ShOp) (z : Fin 64) (a b : GVal), OnSequencer s q c →
    let pc := (s.ctx c).bpc
    let u := s.val c a
    let v := s.val c b
    let shift := 0 ≤ v ∧ v ≤ 63
    let gives (r : Int) (ok : Prop) : Prop :=
      (ok ∧ -(2 ^ 63) ≤ r ∧ r < 2 ^ 63 →
        exec (.shop op z a b) s = .next (boundary s q c (setShape z.val (.ofInt 64 r)) (pc + if op = .mov then 3 else 4))) ∧
      (¬ (ok ∧ -(2 ^ 63) ≤ r ∧ r < 2 ^ 63) → exec (.shop op z a b) s = .next (s.takeTrap ⟨0x46, 0, none, none, none⟩))
    match op with
    | .add => gives (u + v) True
    | .sub => gives (u - v) True
    | .mul => gives (u * v) True
    | .divf => gives (u.fdiv v) (v ≠ 0)
    | .divc => gives (-((-u).fdiv v)) (v ≠ 0)
    | .mod => gives (u - v * u.fdiv v) (v ≠ 0)
    | .min => gives (if u ≤ v then u else v) True
    | .max => gives (if u ≤ v then v else u) True
    | .shl => gives (u * 2 ^ v.toNat) shift
    | .shr => gives (u.fdiv (2 ^ v.toNat)) shift
    | .and => gives ((BitVec.ofInt 64 u) &&& (BitVec.ofInt 64 v)).toInt True
    | .or => gives ((BitVec.ofInt 64 u) ||| (BitVec.ofInt 64 v)).toInt True
    | .alup => gives (v * -((-u).fdiv v)) (0 < v)
    | .mov => gives u True) ∧
  (∀ (s : State) (q c : Nat) (z : Fin 64) (d : Desc) (v : DescVal) (j : GVal), OnSequencer s q c → Descriptor s c d v →
    let pc := (s.ctx c).bpc
    let i := s.val c j
    let reads (f : Fin 4) (n : Nat) : Prop := exec (.shrd f z d j) s = .next (boundary s q c (setShape z.val (.ofNat 64 n)) (pc + 4))
    (0 ≤ i → i < v.rank → reads 0 (v.ext i.toNat) ∧ reads 1 (v.str i.toNat)) ∧ reads 2 v.rank ∧ reads 3 v.footprint ∧
    (i < 0 ∨ (v.rank : Int) ≤ i → exec (.shrd 0 z d j) s = .next (s.dTrap c 0x42 d.toNat))) ∧
  (∀ (s : State) (q c : Nat) (z : Fin 64) (d : Desc) (v : DescVal) (k : GVal) (x : ObjEnt) (l : Nat), OnSequencer s q c → Descriptor s c d v →
    v.valid = true → v.fmt ∈ [ElemType.i32, .n32, .i64, .n64] → v.layout = 0 →
    let pc := (s.ctx c).bpc
    let h := v.handle
    let i := s.val c k
    let n := v.fmt.width / 8
    let a := h.cur + (((coords i.toNat v.exts).zip v.strs).map fun (p, t) => p * t).sum * v.fmt.width / 8
    let r := leNat (s.view (48 + q) false s.nextId l n)
    (∀ e ∈ (s.ctx c).scb, e.oid = h.oid → e.writer = false) → 0 ≤ i → i < v.count → Permits h rR a n → a % n = 0 →
    s.objEnt c h.oid = some x → x.space.val ∈ [1, 2, 3] → a + n ≤ x.size → s.place c h.oid x a = .at_ l →
    ((v.fmt = .n64 → r < 2 ^ 63) → exec (.shld z d k) s = .next (boundary s q c (setShape z.val (ext64 v.fmt r)) (pc + 4))) ∧
    (v.fmt = .n64 → 2 ^ 63 ≤ r → exec (.shld z d k) s = .next (s.dTrap c 0x46 d.toNat)))

/-- R293 to R295: TDEF writes an unbound descriptor from 32 attributes, with the handle, SIZE, VALID and PIN clear and no parent; TSETD writes the extents and, packed, the strides;
TVIEW writes the source's view from an offset, with what is left of its SIZE. -/
def Obligations.GraphDescriptors : Prop :=
  (∀ (s : State) (q c : Nat) (d : Desc) (x : Attr), OnSequencer s q c → d.toNat < s.ndesc c → x.toNat + 32 ≤ s.nattr c →
    (s.desc c d.toNat).valid = false →
    ∀ v : DescVal, v.tag = false → v.w.length = 16 →
      (∀ k, k < 16 → k ∉ [0, 2, 3, 12, 14] → v.word k = .ofNat 64 (s.attr c (x.toNat + 2 * k) + 2 ^ 32 * s.attr c (x.toNat + 2 * k + 1))) →
      v.word 2 = 0 → v.word 3 = 0 → v.word 12 = 0 → v.word 14 = .ofNat 64 (s.attr c (x.toNat + 28) / 65536 * 65536 + 0xFFFF + 2 ^ 32 * s.attr c (x.toNat + 29)) →
      v.word 0 = .ofNat 64 (s.attr c x.toNat + 2 ^ 32 * (s.attr c (x.toNat + 1) / 4 * 4)) →
      (v.bad = false → ∃ t, exec (.tdef d x) s = .next t ∧ EndsAt s t q c ((s.ctx c).bpc + 3) ∧ DescWritten s t (s.descLoc c d.toNat 0) v) ∧
      (v.bad = true → exec (.tdef d x) s = .next (s.takeTrap ⟨0x43, 0, none, some d.toNat, none⟩))) ∧
  (∀ (s : State) (q c : Nat) (pk : Bool) (d : Desc) (v : DescVal) (es : List GVal), OnSequencer s q c → Descriptor s c d v → es.length = v.rank →
    (v.layout ≠ 0 → pk = true) → (∀ e ∈ es, 0 ≤ s.val c e ∧ s.val c e < 2 ^ 32) →
    let en := es.map fun e => (s.val c e).toNat
    let st := if pk then packStrides v.layout v.fmt en else v.strs
    let n := v.setExts en st
    (∀ y ∈ st, y < 2 ^ 32) → (v.valid = true → n.footprint ≤ v.size) →
    ∃ t, exec (.tsetd pk d es) s = .next t ∧ EndsAt s t q c ((s.ctx c).bpc + 2 + es.length) ∧ DescWritten s t (s.descLoc c d.toNat 0) n) ∧
  (∀ (s : State) (q c : Nat) (dst src : Desc) (v : DescVal) (offs : List GVal), OnSequencer s q c → Descriptor s c src v → v.valid = true →
    dst.toNat < s.ndesc c → offs.length = v.rank →
    (∀ j y, offs[j]? = some y → 0 ≤ s.val c y ∧ s.val c y ≤ v.ext j ∧ (v.layout ≠ 0 → s.val c y = 0)) →
    (v.fmt.isDx = true → ∀ y, offs[0]? = some y → s.val c y % 32 = 0) →
    ((s.desc c dst.toNat).valid = true → (s.desc c dst.toNat).parent ≠ 0xFFFF) →
    let on := offs.map fun y => (s.val c y).toNat
    let b := (((on.zip v.strs).map fun (p, t) => p * t).sum) * v.fmt.width / 8
    b ≤ v.size →
    let n := v.setExts ((v.exts.zip on).map fun (e, y) => e - y) v.strs
    let n := ((n.setHandle (v.handle.setCur (v.handle.cur + b))).setWord 12 (.ofNat 64 (v.size - b))).setFlags true false
    ∃ t, exec (.tview dst src offs) s = .next t ∧ EndsAt s t q c ((s.ctx c).bpc + 3 + offs.length) ∧
      DescWritten s t (s.descLoc c dst.toNat 0) (n.setWord 14 (.ofNat 64 src.toNat)))

/-- R296, R297: TALLOC makes a new object of its tier from room that nothing uses, its bytes zero, and binds its descriptor to it with every right the tier gives; while there is no room it
gives the sequencer up and awaits it. TFREE removes the object of its descriptor and unbinds that, once no gang names the object, its accesses are done and no fetch of it is under way.
Free runs that do not overlap are a premise for the fast tier. -/
def Obligations.GraphAllocation : Prop :=
  (∀ (s : State) (q c : Nat) (tier : Tier) (d : Desc) (v : DescVal), OnSequencer s q c → Descriptor s c d v → v.valid = false →
    let x := s.ctx c
    let p := x.part.val
    let unit := if tier = .bank then 256 else 65536
    let n := ceilDiv v.footprint unit
    let size := n * unit
    n ≠ 0 → (∃ o, o < 0xFFF00 ∧ s.objEnt c o = none) → (tier = .fast → s.fastUsed c + n ≤ x.fastq.toNat) →
    (tier = .fast → (s.freeFast p).Pairwise (fun r r' => r.1 + r.2 ≤ r'.1 ∨ r'.1 + r'.2 ≤ r.1) ∧
      (s.freeCap p).Pairwise fun r r' => r.1 + r.2 ≤ r'.1 ∨ r'.1 + r'.2 ≤ r.1) →
    let room : Prop := match tier with
      | .fast => n ≤ runTotal (s.freeFast p) ∧ n ≤ runTotal (s.freeCap p)
      | .capacity => ∃ r ∈ s.freeCap p, n ≤ r.2
      | .bank => ∃ r ∈ s.freeSbm p, n ≤ r.2
    let made (space : Fin 5) (base next : Nat) : ObjEnt := ⟨space, 0, size, 0xFFFF, v.prio, false, v.nextu, base, next⟩
    (room → ∃ (t u w : State) (oid : Nat) (o : ObjEnt) (zeros : List (Nat × Nat)), exec (.talloc tier d) s = .next t ∧ EndsAt s t q c (x.bpc + 2) ∧
      oid < 0xFFF00 ∧ s.objEnt c oid = none ∧
      (∀ a, mget w.mem a = if ∃ z ∈ zeros, z.1 ≤ a ∧ a < z.1 + z.2 then 0 else mget s.mem a) ∧
      (w.leafLoc c oid = none → u.mem = w.mem) ∧ (x.otdir.getLsbD 0 = false → t.objEnt c oid = some o) ∧
      (∀ l, w.leafLoc c oid = some l → Stored w u l ((encodeObj (some o)).flatMap fun y => leBytes 8 y.toNat)) ∧
      DescWritten u t (u.descLoc c d.toNat 0)
        (((v.setHandle (newHandle oid (if tier = .capacity then 0xE8 else 0xF8) size)).setWord 12 (.ofNat 64 size)).setFlags true false) ∧
      (tier = .fast → o = made 2 0 n ∧ (t.ctx c).tallocs = x.tallocs ++ [oid] ∧ ∃ gs : List Nat, gs.length = n ∧
        zeros = gs.map (fun g => (locFast p (g * 65536), 65536)) ∧ ∀ g ∈ gs, ∃ r ∈ s.freeFast p, r.1 ≤ g ∧ g < r.1 + r.2) ∧
      (tier = .capacity → ∃ g, o = made 3 (g * 65536) 0 ∧ zeros = [(locCap (g * 65536), size)] ∧ ∃ r ∈ s.freeCap p, r.1 ≤ g ∧ g + n ≤ r.1 + r.2) ∧
      (tier = .bank → ∃ g, o = made 1 (g * 256) 0 ∧ zeros = [(locSbm (g * 256), size)] ∧ ∃ r ∈ s.freeSbm p, r.1 ≤ g ∧ g + n ≤ r.1 + r.2)) ∧
    (¬ room → ∃ t, exec (.talloc tier d) s = .next t ∧ WaitsAt t q c x.bpc
      (.room (match tier with | .fast => if runTotal (s.freeFast p) < n then 0 else 3 | .capacity => 1 | .bank => 2) n v.prio) ∧
      (tier ≠ .fast → LeavesMemory s t q c))) ∧
  (∀ (s : State) (q c : Nat) (d : Desc) (v : DescVal), OnSequencer s q c → Descriptor s c d v → v.valid = true → v.parent = 0xFFFF → v.layer = 0xFFFF →
    let oid := v.handle.oid
    (∀ e ∈ (s.ctx c).scb, e.oid ≠ oid) → s.admittedDone c [oid] = true → s.objStill c oid = true →
    ∃ t u, exec (.tfree d) s = .next t ∧ EndsAt s t q c ((s.ctx c).bpc + 2) ∧
      DescWritten u t (u.descLoc c d.toNat 0) (((v.setHandle .null).setWord 12 0).setFlags false false) ∧
      (s.leafLoc c oid = none → u.mem = s.mem) ∧ ((s.ctx c).otdir.getLsbD 0 = false → t.objEnt c oid = none) ∧
      (∀ l, s.leafLoc c oid = some l → Stored s u l (List.replicate 32 0)) ∧
      (t.ctx c).tallocs = (s.ctx c).tallocs.filter (· ≠ oid))

/-- R298, R299, R448: TPIN gives its descriptor and the object of it their priority, pin and next use, or for a descriptor of a layer every object of that layer with the pin of its residency word;
a pin past the limit traps. TRES reads a residency word, and a waiting one gives the sequencer up while its layer is away. -/
def Obligations.GraphResidency : Prop :=
  (∀ (s : State) (q c : Nat) (pin : Bool) (d : Desc) (p u : GVal) (v : DescVal), OnSequencer s q c → Descriptor s c d v → v.valid = true →
    let pr := s.val c p
    let nu := s.val c u
    let whole := v.layer ≠ 0xFFFF ∧ v.layer < s.layers c
    let oids := if whole then s.layerOids c v.layer else [v.handle.oid]
    0 ≤ pr → pr ≤ 31 → 0 ≤ nu → nu < 2 ^ 32 →
    (pin = true → (s.ctx c).pinlim.toNat < s.pinned c oids → exec (.tpin pin d p u) s = .next (s.dTrap c 0x50 d.toNat)) ∧
    ((pin = true → s.pinned c oids ≤ (s.ctx c).pinlim.toNat) →
      ∃ t, exec (.tpin pin d p u) s = .next t ∧ EndsAt s t q c ((s.ctx c).bpc + 4) ∧
        ((s.ctx c).otdir.getLsbD 0 = false →
          (∀ o ∈ oids, ∀ x, s.objEnt c o = some x → t.objEnt c o = some { x with prio := pr.toNat, pin := pin, nextu := nu.toNat }) ∧
          ∀ o, o ∉ oids → t.objEnt c o = s.objEnt c o) ∧
        (¬ whole → ∃ u, DescWritten s u (s.descLoc c d.toNat 0) (v.setPin pin pr.toNat nu.toNat) ∧
          ((u.objEnt c v.handle.oid = none ∨ u.leafLoc c v.handle.oid = none) → t.mem = u.mem) ∧
          ∀ x l, u.objEnt c v.handle.oid = some x → u.leafLoc c v.handle.oid = some l →
            Stored u t l ((encodeObj (some { x with prio := pr.toNat, pin := pin, nextu := nu.toNat })).flatMap fun y => leBytes 8 y.toNat)) ∧
        (whole → ∃ w, let r := w.resWord c v.layer
          Stored w t (s.resLoc c v.layer) (leBytes 8 (pack [(63, 1, (r.getLsbD 63).toNat), (62, 1, pin.toNat), (32, 30, fld r 32 30), (0, 32, fld r 0 32)]).toNat)))) ∧
  (∀ (s : State) (q c : Nat) (wait : Bool) (z : Fin 64) (n : GVal), OnSequencer s q c → 0 ≤ s.val c n → s.val c n < s.layers c →
    let k := (s.val c n).toNat
    ((wait = true → s.resSet c k = true) →
      exec (.tres wait z n) s = .next (boundary s q c (setShape z.val (s.resWord c k)) ((s.ctx c).bpc + 3))) ∧
    (wait = true → s.resSet c k = false → (s.ctx c).refetch = true →
      ∃ t, exec (.tres wait z n) s = .next t ∧ WaitsAt t q c (s.ctx c).bpc (.layer k)))

/-- R303 to R305, R323, R324: an operator, or a fused group, whose checks hold and whose operands no gang holds ends at once where its output has no element; otherwise it issues the gang of its first
four tiles, or a cohort where its gangs exchange data, on the clusters of the context in turn, with a reader entry for each input and a writer entry for each output, and with an entry of the collective
table armed for each exchange with other devices; with its last gang it ends. A gang of ELTW's lists a copy job for each input that its tasks stage (R449; where the staging region is another
operator's the model waits, its choice of log 112). A failed check stops the context with the check's cause. -/
def Obligations.Operators : Prop :=
  ∀ (s : State) (q c next : Nat) (i : Instr) (ms : List OpMember) (lib : List Instr), OnSequencer s q c → OperatorOf s c i ms lib next →
    (s.seq q).tile = 0 →
    let x := s.ctx c
    let v := s.opEnv c
    let l := (libMembers lib).2
    let ops := libOperands v (libMembers lib).1 l
    let oid (d : Nat) : Nat := (v.d d).handle.oid
    let outs := ((ops.filter (·.2)).map fun p => oid p.1).eraseDups
    let ins := (((ops.filter fun p => !p.2).map fun p => oid p.1).eraseDups).filter fun o => !outs.contains o
    let head := l.head?.getD .graphNop
    let empty := ∀ d ∈ (opnds (l.getLast?.getD .graphNop)).outs, (v.d d).footprint = 0
    let entries := ins.map (fun o => (o, false)) ++ outs.map fun o => (o, true)
    let nt := tileCount v head
    let ng := ceilDiv nt 4
    let clus := cluList x.clset
    let n := clus.length
    let k := if cohortOp v head then min n ng else 1
    let ranks := v.ranks head
    let ps := if ranks = [v.dev] ∨ ranks.length ≤ ranks.idxOf v.dev then [] else (s.rdEnv (48 + q) c v).phases head
    ((∀ m ∈ ms, opBad v (s.ndesc c) (s.nattr c) m.i = none) → (∀ e ∈ x.scb, e.oid ∈ outs → False) →
      (∀ e ∈ x.scb, e.oid ∈ ins → e.writer = false) →
      (∀ m ∈ ms.head?, ∀ d, indexOperand m.i = some d → s.operandFault c none (v.d d) rR = none ∧ s.operandAbsent c (v.d d) = none ∧
        (s.rdEnv (48 + q) c v).rangeFault m.i = none) →
      (empty → exec i s = .next (boundary s q c id next)) ∧
      (¬ empty → (∀ p ∈ ops, (v.d p.1).tag = true) → 0 < n →
        (∀ j, j < k → s.listedAt (clus.getD (j % n) 0) < 64) → x.scb.length + k * entries.length ≤ 512 →
        (∀ j, j < k → let need := stageSize v l s.opcNow nt n (j % n)
          need = 0 ∨ ∃ r, (s.clu (clus.getD (j % n) 0)).regions.find? (fun r => r.ctx == c && r.oid == 0xFFF00 + j % n) = some r ∧ need ≤ r.n) →
        (s.seq q).coll = [] → s.stageBusy c v l = false → v.stageBad l (rangeFrom 0 (min 4 nt)) = false →
        (ps = [] ∨ (∀ o ∈ [collOid, rxOid, mapOid, doneOid], s.objEnt c o ≠ none) ∧ ps.length ≤ ((s.entsOf c).filter fun e => !s.entArmed e).length ∧
          ∀ g ∈ s.gangs, g.ctx = c → g.coll = []) →
        ∃ t gs, exec i s = .next t ∧ t.slot = .ok ∧ t.gangs = s.gangs ++ gs ∧ gs.length = k ∧ (ps = [] → t.mem = s.mem) ∧ t.accs = s.accs ∧
          (∀ (j : Nat) (g : Gang), gs[j]? = some g → g.ctx = c ∧ g.clu = clus.getD (j % n) 0 ∧ g.lib = lib ∧ g.bpc = x.bpc ∧ g.coll.length = ps.length ∧
            g.st = (if k = 1 then .listed else .pending) ∧ g.members.map (·.tiles) = (rangeFrom (4 * j) (min 4 (nt - 4 * j))).map fun t => [t]) ∧
          (∀ sat op o a b, lib = [.eltw sat op o a b] → ∀ g ∈ gs, g.jobs = (g.members.flatMap (·.tiles)).flatMap fun t => v.stageJobs o.toNat t (v.staged lib)) ∧
          (t.ctx c).scb = x.scb ++ gs.flatMap (fun g => entries.map fun p => ⟨p.1, g.gk, p.2⟩) ∧
          (ng ≤ k → (t.ctx c).bpc = next ∧ (t.seq q).tile = 0 ∧ (t.ctx c).opstep = x.opstep + 1) ∧
          (k < ng → (t.ctx c).bpc = x.bpc ∧ (t.seq q).tile = 4 * k))) ∧
    (∀ cause d, (ms.findSome? fun m => opBad v (s.ndesc c) (s.nattr c) m.i) = some (cause, d) → x.st.live = true →
      ∃ t, exec i s = .next t ∧ (t.ctx c).st = .stopping ∧ (t.ctx c).ending = some ⟨1, .ofNat 16 cause⟩ ∧ t.gangs = s.gangs ∧ t.mem = s.mem)

/-! ### What is in flight -/

/-- R94 to R105, R139, R171, R177: a due result commits, in order of its cycle; an h result and a CSR write reach the other stream, and the latter every bundle, from the clk after theirs; a load takes the bytes its stream sees and an atomic replaces its word by its operation's value;
a taken value lands in its register and queue entry and its token falls; a store becomes visible to its cluster with the newest stamp, and to the device by its bytes reaching memory. -/
def Obligations.ResultsAndVisibility : Prop :=
  (∀ (e : Nat) (sec : Bool) (s : State) (c : Commit), ((s.eng e).str sec).pend = [c] → c.due ≤ ((s.eng e).str sec).cycle →
    (∀ k v, c.dst ≠ .strm k v) → (sec = true ∨ (s.eng e).chan = none) → (s.eng e).ncsr = [] → (s.eng e).hnew = [] →
    let x := (s.eng e).modStr sec fun y => { y with pend := [] }
    let x := { x with astat := x.astat ||| c.flags }
    let z : Engine := match c.dst with
      | .g n v => x.modStr sec fun y => { y with g := tput 0 y.g n v }
      | .h n v => { x with hnew := [⟨s.clk.toNat, sec, n, v⟩] }
      | .p n v => { x with p := tput 0 x.p n v }
      | .v n m v => { x with v := tput 0 x.v n (mergeBytes m v (tget 0 x.v n)) }
      | _ => x
    exec (.resultCommit e sec) s = .next { s with engines := tput .reset s.engines e z }) ∧
  (∀ (e : Nat) (sec : Bool) (s : State) (f : Fresh Handle), ((s.eng e).str sec).pend = [] → (sec = true ∨ (s.eng e).chan = none) → (s.eng e).ncsr = [] →
    (s.eng e).hnew = [f] →
    (s.eng e).hAt f.sec f.n = f.v ∧ (s.eng e).hAt (!f.sec) f.n = tget .null (s.eng e).h f.n ∧
    (f.clk < s.clk.toNat → exec (.resultCommit e sec) s = .next { s with
      engines := tput .reset s.engines e { s.eng e with h := tput .null (s.eng e).h f.n f.v, hnew := [] } }) ∧
    (s.clk.toNat ≤ f.clk → exec (.resultCommit e sec) s = .next { s with engines := tput .reset s.engines e (s.eng e) })) ∧
  (∀ (e : Nat) (sec : Bool) (s : State) (f : Fresh Word), ((s.eng e).str sec).pend = [] → (sec = true ∨ (s.eng e).chan = none) → (s.eng e).hnew = [] →
    (s.eng e).ncsr = [f] →
    (f.clk < s.clk.toNat → exec (.resultCommit e sec) s = .next { s with
      engines := tput .reset s.engines e { (s.eng e).writeCsr f.n f.v with ncsr := [] } }) ∧
    (s.clk.toNat ≤ f.clk → exec (.resultCommit e sec) s = .next { s with engines := tput .reset s.engines e (s.eng e) })) ∧
  (∀ (e n : Nat) (sec : Bool) (s : State) (c d : Commit) (v w : Word), ((s.eng e).str sec).pend = [c, d] → c.dst = .g n v → d.dst = .g n w →
    c.due ≤ ((s.eng e).str sec).cycle → d.due ≤ ((s.eng e).str sec).cycle → (sec = true ∨ (s.eng e).chan = none) →
    ∃ t, exec (.resultCommit e sec) s = .next t ∧ tget 0 ((t.eng e).str sec).g n = if d.due < c.due then v else w) ∧
  (∀ (b : Access) (s : State), s.accs.find? (·.id == b.id) = some b → b.taken = none → (∀ p ∈ b.parts, isExt p.loc = false) →
    let seen := partsValue (b.parts.map fun p => (p, s.view b.eng b.sec b.id p.loc p.n))
    (b.kind = .load → s.mayStep .value b = true →
      ∃ t a, exec (.tokenResultLands b.id .perform) s = .next t ∧ a ∈ t.accs ∧ a.id = b.id ∧ a.taken = some (.ofNat 2048 seen) ∧ t.mem = s.mem) ∧
    (∀ op ty x y p, b.kind = .atom op ty x y → b.parts = [p] → s.mayStep .dev b = true → s.guarded p.loc p.n = false →
      ∃ t a, exec (.tokenResultLands b.id .perform) s = .next t ∧ a ∈ t.accs ∧ a.id = b.id ∧ a.taken = some (.ofNat 2048 seen) ∧
        Stored s t p.loc (leBytes p.n (atomNew op ty seen x.toNat y.toNat)))) ∧
  (∀ (b : Access) (w : Nat) (v : Vec) (s : State), s.accs.find? (·.id == b.id) = some b → b.taken = some v → b.tok = some w →
    (∀ a ∈ s.accs, a.sameStream b = true → a.id < b.id → a.dst.same b.dst = false) →
    let x := s.eng b.eng
    ∃ t, exec (.tokenResultLands b.id .land) s = .next t ∧ (∀ a ∈ t.accs, a.id ≠ b.id) ∧ t.mem = s.mem ∧
      TokenFalls (x.str b.sec) ((t.eng b.eng).str b.sec) w ∧
      (∀ d, b.dst = .g d → LandedG (x.str b.sec) ((t.eng b.eng).str b.sec) b.id d (ext64 b.t v.toNat)) ∧
      (∀ n, b.dst = .h n → (t.eng b.eng).hnew = x.hnew ++ [⟨s.clk.toNat, b.sec, n, ⟨v.truncate 128, b.takenTag⟩⟩]) ∧
      (∀ r, b.dst = .v (.reg r) → (t.eng b.eng).v = tput 0 x.v r.val (mergeBytes (partsMask b.parts) v (tget 0 x.v r.val)))) ∧
  (∀ (b : Access) (s : State), s.accs.find? (·.id == b.id) = some b → b.kind.isStore = true →
    (b.vis = 0 → isSeq b.eng = false → b.sobj = false → b.window = false → s.mayStep .clu b = true →
      ∃ t a, exec (.writeVisible b.id false) s = .next t ∧ a ∈ t.accs ∧ a = { b with vis := s.nextId + 1 } ∧ t.mem = s.mem ∧ t.engines = s.engines) ∧
    (s.mayStep .dev b = true → (∀ p ∈ b.parts, isExt p.loc = false) → b.tagQ = none → (∀ p ∈ s.pends, p.id ≠ b.id) →
      ((∀ p ∈ b.parts, isFast p.loc = false) ∨ ∀ p ∈ b.parts, p.loc + p.n ≤ 2 ^ 44 ∧ s.guarded p.loc p.n = false) →
      ∃ t, exec (.writeVisible b.id true) s = .next t ∧ (∀ a ∈ t.accs, a.id = b.id → False) ∧
        ∀ a, mget t.mem a = (b.covers a).getD (mget s.mem a)))

/-- R78, R85, R93, R111, R193, R196: a bound read stream fetches its next vector while fewer than eight are ahead and what its stream did before allows it, an earlier access of its class being one that it
awaits; an SFLUSH whose streams' elements are all visible completes them, lowers its token, unbinds the streams it names and makes the binding that waited for it;
a fill writes some of the bytes that its block still owes, with zero outside the bounds of its handle, lowers its token by them, and with the last of them its entry is valid. -/
def Obligations.StreamsAndFills : Prop :=
  (∀ (e : Nat) (k : Fin 8) (b : Binding) (s : State), tget none (s.eng e).binds k.val = some b → b.write = false →
    let n := b.next + b.window.length
    (b.window.length < 8 → n < b.total → s.unitMay e false b.id b.cls (s.strmAt e b n) = true →
      exec (.streamFetch e k) s = .next (s.modEng e fun x => { x with
        binds := tput none x.binds k.val (some { b with window := b.window ++ [s.strmFetch e b n] }) })) ∧
    ((∃ a ∈ s.accs, a.eng = e ∧ a.sec = false ∧ a.id < b.id ∧ a.cls = b.cls ∧ a.settled = false) → exec (.streamFetch e k) s = .next s)) ∧
  (∀ (e i : Nat) (f : Sflush) (s : State), (s.eng e).flushes[i]? = some f → (s.eng e).prim.pend = [] →
    (∀ a ∈ s.accs, f.awaits e a = true → a.vis ≠ 0) →
    ∃ t, exec (.sflushComplete e i) s = .next t ∧ (t.eng e).flushes = (s.eng e).flushes.eraseIdx i ∧
      (∀ k b, f.rebind = some (k, b) → tget none (t.eng e).binds k = some b) ∧
      (∀ k, (∀ b, f.rebind ≠ some (k, b)) → tget none (t.eng e).binds k = if k ∈ f.unb then none else tget none (s.eng e).binds k) ∧
      (∀ w, f.tok = some w → TokenFalls (s.eng e).prim (t.eng e).prim w) ∧ (f.tok = none → (t.eng e).prim = (s.eng e).prim) ∧ t.mem = s.mem ∧
      ∀ a ∈ s.accs, (f.awaits e a = false → a ∈ t.accs) ∧
        ∀ k n, f.awaits e a = true → a.kind = .strm k n none → { a with kind := .strm k n (some s.nextId) } ∈ t.accs) ∧
  (∀ (clu i : Nat) (j : FillJob) (all l : List (Nat × Nat × Nat)) (s : State), (s.clu clu).fills[i]? = some j → j.retryAt = none →
    let y := s.clu clu
    let n := 2 ^ y.cacheK
    let m := (s.drawUnits (n - j.landed)).1
    let a := j.blk * n + j.landed
    let dst := locSp clu (y.cacheBase + (j.way * (y.cacheB / 4) + j.set_) * n) + j.landed
    s.fillReach j (j.blk * n) n = .runs all → s.fillReach j a m = .runs l → (∀ r ∈ l, isExt r.1 = false) → s.quiet clu dst m = true →
    s.unitMay j.eng j.sec j.id j.cls (all.map fun r => (r.1, r.2.2)) = true → j.landed < n →
    0 < m ∧ j.landed + m ≤ n ∧ ∃ t, exec (.fillComplete clu i) s = .next t ∧ Stored s t dst (s.fillBytes j.h clu a m l) ∧
      (∀ o, a ≤ o → o < a + m → o < j.h.lowB ∨ j.h.highB ≤ o → mget t.mem (dst + (o - a)) = 0) ∧
      ((t.eng j.eng).str j.sec).tok j.tok = .ofNat 32 ((((s.eng j.eng).str j.sec).tok j.tok).toNat - m) ∧
      (j.landed + m < n → (t.clu clu).tagTable = y.tagTable ∧
        (t.clu clu).fills = y.fills.map fun q => if q.id = j.id then { q with landed := q.landed + m } else q) ∧
      (j.landed + m = n → tget .invalid (t.clu clu).tagTable (j.set_ * 4 + j.way) = .valid j.h.oid j.blk ∧ (t.clu clu).fills = y.fills.eraseIdx i))

/-- R79 to R83, R108, R166 to R168: a store to CQGO whose parameters hold their settled values and pass R80's checks charges its token by the bytes and queues its job; the oldest job of its engine starts in a later clk once its class is ordered and no earlier job overlaps it, and not before; a
whole row lands as the bytes of its source and lowers the token by as many, and the last one ends the job. A port's thread that is awake takes the oldest request, and sleeps again after the last; a reply reaches the task's call. -/
def Obligations.CopiesAndServices : Prop :=
  (∀ (cls : BitVec 4) (go : Word) (g : Gang) (e : Nat) (s : State), s.fe.gang.bind s.gangOf = some g →
    let b := s.fs.cq
    (∀ r ∈ [b.src, b.dst, b.shp, b.flg], r.settled = true) →
    let src := b.src.val
    let dst := b.dst.val
    let shp := b.shp.val
    let flg := b.flg.val
    let hs := s.h (fin16 (fld src 60 4))
    let hd := s.h (fin16 (fld dst 60 4))
    let bytes := shpRows shp * shpBytes shp
    (∀ k, k < shpRows shp → Permits hs rR (hs.cur + sfld src 0 48 + (k * shpS shp : Nat)) (shpBytes shp)) →
    (∀ k, k < shpRows shp → Permits hd rW (hd.cur + sfld dst 0 48 + (k * shpD shp : Nat)) (shpBytes shp)) →
    cqFieldCheck src dst shp flg go g.dem s.focus.sec = none → (s.fs.tok (fld flg 0 3)).toNat + bytes < 2 ^ 32 →
    s.pickEngine g (fld go 0 3) = some e →
    ∃ t j, exec (.cqgo cls go) s = .next t ∧ t.slot = .ok ∧ t.copies = s.copies ++ [j] ∧ t.mem = s.mem ∧ t.accs = s.accs ∧
      j.gk = g.gk ∧ j.member = s.fe.member ∧ j.sec = s.focus.sec ∧ j.list = false ∧ j.src = hs.move (sfld src 0 48) ∧
      j.dst = hd.move (sfld dst 0 48) ∧ j.shp = shp ∧ j.flg = flg ∧ j.tag.toNat = fld go 16 16 ∧ j.phys = e ∧ j.started = false ∧ j.row = 0 ∧
      (t.fs.tok (fld flg 0 3)).toNat = (s.fs.tok (fld flg 0 3)).toNat + bytes) ∧
  (∀ (j : CopyJob) (s : State), s.copies.find? (·.id == j.id) = some j → j.started = false →
    (∀ k ∈ s.copies, k.phys = j.phys → (s.jobHome k).2 = (s.jobHome j).2 → k.started = false ∧ k.goBefore j = false) →
    (j.clk < s.clk.toNat → s.jobOrdered j = true → (∀ k ∈ s.copies, k.goBefore j = true → (s.jobHome k).2 = (s.jobHome j).2 → s.jobsMeet j k = false) →
      ∃ t, exec (.copyJobStart j.id) s = .next t ∧ t.copies = s.copies.map (fun k => if k.id = j.id then { k with started := true } else k) ∧
        t.mem = s.mem) ∧
    ((s.clk.toNat ≤ j.clk ∨ s.jobOrdered j = false ∨ ∃ k ∈ s.copies, k.goBefore j = true ∧ (s.jobHome k).2 = (s.jobHome j).2 ∧ s.jobsMeet j k = true) →
      exec (.copyJobStart j.id) s = .next s)) ∧
  (∀ (j : CopyJob) (e ls ld os od : Nat) (s : State), s.copies.find? (·.id == j.id) = some j → j.started = true → j.retryAt = none → j.skip = 0 →
    j.buf = [] → j.resent = 0 → s.jobCore j = some e →
    let home := s.jobHome j
    let n := shpBytes j.shp
    (match s.reach home.1 j.src.oid (j.src.cur + j.row * shpS j.shp) n with | .runs l => l = [(ls, os, n)] | _ => False) →
    (match s.reach home.1 j.dst.oid (j.dst.cur + j.row * shpD j.shp) n with | .runs l => l = [(ld, od, n)] | _ => False) →
    isExt ls = false → isExt ld = false → s.runsClear home.2 [(ld, od, n)] = true → s.guarded ld n = false →
    (s.clu home.2).hscfg.getLsbD 0 = false → s.exportBars home.1 j.dst.oid true = false → j.flg.getLsbD 8 = false → j.flg.getLsbD 11 = false → (∀ k ∈ s.copies, k.id = j.id → k = j) →
    ∃ t, exec (.copyRowLands j.id 0) s = .next t ∧ Stored s t ld (s.cluBytes home.2 ls n) ∧
      ((t.eng e).str j.sec).tok (fld j.flg 0 3) = .ofNat 32 ((((s.eng e).str j.sec).tok (fld j.flg 0 3)).toNat - n) ∧
      (j.row + 1 < shpRows j.shp → t.copies = s.copies.map fun k =>
        if k.id = j.id then { k with row := j.row + 1, skip := 0, resent := 0, buf := [], bufTags := [] } else k) ∧
      (shpRows j.shp ≤ j.row + 1 → t.copies = s.copies.filter (·.id ≠ j.id))) ∧
  (∀ (c n : Nat) (port : Fin 16) (s : State), s.portServed c port.val = some n →
    let u : State := { s with ctxs := tput .reset s.ctxs c { s.ctx c with
      ports := tput [] (s.ctx c).ports port.val ((tget [] (s.ctx c).ports port.val).drop 1) } }
    let more := ∃ d ∈ tkeys u.ctxs, (u.ctx d).part = (u.ctx c).part ∧ tget [] (u.ctx d).ports port.val ≠ []
    (more → exec (.serviceRequestTaken c port) s = .next u) ∧
    (¬ more → exec (.serviceRequestTaken c port) s = .next { u with dev := { u.dev with
      threads := tput .reset u.dev.threads n { tget .reset u.dev.threads n with awake := false } } })) ∧
  (∀ (gk member e : Nat) (sec : Bool) (port : Fin 16) (v : Word) (g : Gang) (m : Member) (s : State), s.gangOf gk = some g →
    g.members[member]? = some m → m.st = .running e → replyOk v = true →
    (∀ r ∈ tget [] (s.ctx g.ctx).ports port.val, ¬ (r.gk = gk ∧ r.member = member ∧ r.sec = sec)) →
    ∃ t, exec (.serviceReply gk member sec port v) s = .next t ∧ t.mem = s.mem ∧
      (t.eng e).sends = (s.eng e).sends.map (fun r => if r.port = port.val ∧ r.reply = none then { r with reply := some v } else r) ∧
      tget [] (t.ctx g.ctx).ports port.val = tget [] (s.ctx g.ctx).ports port.val)

/-! ### Tasks and gangs -/

/-- R13, R15, R17 to R21, R25, R377: a task that is over leaves its core to its gang's holding and its member ends; one of the operator library whose exchanges have ended, and which writes its output itself, has then written its tiles. A listed gang that may enter starts each member on the lowest free core with the
record's arguments; a pending cohort that is ready enters whole; a gang whose members have ended goes, frees its cores and leaves its gang-retired record.
R449: a listed job of ELTW copies the chunk of one staged input into the task's slot on the token of that input, w1 or w2. A task of ELTW that is over, so that w1 and w2 have fallen, stores its output chunk
in its slot and issues the job that copies it to the output, on w3; with that job landed it ends. Where the slot lies is the model's choice (log 112). -/
def Obligations.TasksAndGangs : Prop :=
  (∀ (v : OpEnv) (sat : Bool) (op : EltOp) (o a : Desc) (b : EltB) (d t tok : Nat),
    let st := v.staged [.eltw sat op o a b]
    let ch := v.chunk o.toNat d t
    let at_ := v.slotAt o.toNat tok t st
    (d, tok) ∈ st → tok < 3 → ch.1 < 2 ^ 47 → ch.2 < 2 ^ 20 → at_ < 2 ^ 47 →
    (tok = 1 ∧ d = a.toNat ∨ tok = 2 ∧ b = .desc (.ofNat 16 d)) ∧ (v.d d).layout = 0 ∧
    ∃ q ∈ v.stageJobs o.toNat t st, q.2 = t % 4 ∧ fld (q.1.getD 0 0) 60 4 = tok - 1 ∧ sfld (q.1.getD 0 0) 0 48 = ch.1 ∧ sfld (q.1.getD 1 0) 0 48 = at_ ∧
      shpRows (q.1.getD 2 0) * shpBytes (q.1.getD 2 0) = ch.2 ∧ fld (q.1.getD 3 0) 0 3 = tok) ∧
  (∀ (e gk t p : Nat) (g : Gang) (m : Member) (sat : Bool) (op : EltOp) (o a : Desc) (b : EltB) (s : State), (s.eng e).gang = some gk → s.gangOf gk = some g →
    (s.eng e).taskOver = true → (∀ m ∈ g.members, m.barrier = none) → g.lib = [.eltw sat op o a b] → g.members[(s.eng e).member]? = some m → m.tiles = [t] →
    let v := s.gangEnv g
    let rd := s.libReads e g v g.lib t
    let ch := v.chunk o.toNat o.toNat t
    let toH := (v.d o.toNat).handle
    let src := (s.stageHandle g).move (v.slotAt o.toNat 3 t (v.staged g.lib))
    (o.toNat, 3) ∈ v.staged g.lib →
    (m.phase = 0 → (∀ p ∈ v.ownOperands false g.lib, s.operandFault g.ctx (some g.clu) (v.d p.1) (if p.2 then rW else rR) = none ∧
        s.operandAbsent g.ctx (v.d p.1) = none) → s.pickEngine g 7 = some p → toH.check rW (toH.cur + ch.1) ch.2 = none →
      ∃ u j, exec (.taskEnd e) s = .next u ∧ u.copies = s.copies ++ [j] ∧ j.gk = gk ∧ j.member = (s.eng e).member ∧ j.phys = p ∧ j.src = src ∧
        j.dst = toH.move ch.1 ∧ j.shp = pack [(32, 20, ch.2)] ∧ fld j.flg 0 3 = 3 ∧ (u.eng e).prim.tok 3 = .ofNat 32 ch.2 ∧ (u.eng e).gang = some gk ∧
        u.mem = (s.storeTensor g.ctx src 0 (rd.chunkBytes (.eltw sat op o a b) t)).mem) ∧
    (m.phase ≠ 0 → ∃ u, exec (.taskEnd e) s = .next u ∧ (u.eng e).gang = none ∧ u.mem = s.mem ∧ u.copies = s.copies ∧
      ∀ y ∈ u.gangs, y.gk = gk → ∀ m, y.members[(s.eng e).member]? = some m → m.st = .ended)) ∧
  (∀ (e gk : Nat) (g : Gang) (s : State), (s.eng e).gang = some gk → s.gangOf gk = some g → (s.eng e).taskOver = true →
    (∀ m ∈ g.members, m.barrier = none) →
    let v := s.gangEnv g
    let l := (libMembers g.lib).2
    let ops := v.ownOperands (libMembers g.lib).1 l
    let m := (s.eng e).member
    let tiles := ((g.members[m]?).map (·.tiles)).getD []
    let rd := s.libReads e g v l (tiles.headD 0)
    let ps := if g.coll = [] then [] else rd.phases (l.headD .graphNop)
    let phase := ((g.members[m]?).map (·.phase)).getD 0
    let ranks := v.ranks (l.headD .graphNop)
    (g.lib ≠ [] → (∀ p ∈ v.staged l, p.2 ≠ 3) ∧
      (∀ p ∈ ops, s.operandFault g.ctx (some g.clu) (v.d p.1) (if p.2 then rW else rR) = none ∧ s.operandAbsent g.ctx (v.d p.1) = none ∧
        (p.2 = true → s.operandQuiet g.ctx (v.d p.1) = true)) ∧
      (∀ acc rm cc a b, l.head? = some (.matmul acc rm cc a b) → ∀ t ∈ tiles,
        rd.sparseFault (s.tensorByte e g.ctx (v.d b.toNat).handle) (.matmul acc rm cc a b) t = none) ∧
      ps.length ≤ phase ∧ (∀ p, 0 < phase → ps[phase - 1]? = some p → s.phaseDone g ranks.length (ranks.idxOf s.dev.dev.toNat) (phase - 1) p = true)) →
    ∃ t, exec (.taskEnd e) s = .next t ∧ (t.eng e).gang = none ∧ (t.eng e).holder = (s.eng e).holder ∧ (g.lib = [] → t.mem = s.mem) ∧
      (g.lib ≠ [] → t.mem = (s.libWrite e g v rd (libMembers g.lib).1 l tiles).mem) ∧
      ∀ y ∈ t.gangs, y.gk = gk → ∀ m, y.members[(s.eng e).member]? = some m → m.st = .ended) ∧
  (∀ (gk : Nat) (g : Gang) (s : State), s.gangOf gk = some g → g.st = .listed → s.mayEnter g = true →
    let cores := (s.freeCores g.clu).take g.members.length
    ∃ t, exec (.gangAdmission gk) s = .next t ∧ t.mem = s.mem ∧ t.copies.length = s.copies.length + g.jobs.length ∧
      (∀ y ∈ t.gangs, y.gk = gk → y.st = .resident ∧ y.engs = (s.freeEngs g.clu).take g.dem) ∧ cores.length = g.members.length ∧
      ∀ (k e : Nat) (m : Member), cores[k]? = some e → g.members[k]? = some m →
        let x := t.eng e
        x.gang = some gk ∧ x.holder = some gk ∧ x.member = k ∧ x.stat = .running ∧ x.prim.pc = m.pep ∧ x.hasSec = m.sep.isSome ∧
        (∀ a, m.sep = some a → x.sec.pc = a) ∧ (∀ j v, g.gargs[j]? = some v → tget 0 x.prim.g (j + 1) = v) ∧
        (∀ j h, j < 15 → g.hargs[j]? = some h → tget .null x.h j = h) ∧ tget .null x.h 15 = cqHandle ∧ x.v = [] ∧ x.p = [] ∧
        x.prim.loops = [] ∧ x.prim.sq = [] ∧
        ∀ w, w < 8 → x.prim.tok w = .ofNat 32 (jobCharge (g.jobs.map fun q => q.1 ++ [.ofNat 64 q.2]) k w)) ∧
  (∀ (gk : Nat) (g : Gang) (s : State), s.gangOf gk = some g → g.st = .pending → s.cohortReady g = true →
    ∃ t, exec (.cohortAdmission gk) s = .next t ∧ t.mem = s.mem ∧
      ∀ h ∈ s.mates g, ∃ y ∈ t.gangs, y.gk = h.gk ∧ y.st = .resident ∧ ∀ m ∈ y.members, ∃ e, m.st = .running e) ∧
  (∀ (gk : Nat) (g : Gang) (s : State), s.gangOf gk = some g → g.trapped = false → (g.st = .resident ∨ g.st = .saving) →
    (∀ m ∈ g.members, m.st = .ended) → (∀ j ∈ s.copies, j.gk ≠ gk) → s.pends = [] → g.coll = [] →
    (∀ e ∈ coresOf g.clu, (s.eng e).holder = some gk → (s.eng e).gang = none) →
    (∀ a ∈ s.accs, a.kind.isStore = true → ∀ m, a.task ≠ some (gk, m)) →
    let x := s.clu g.clu
    x.evHeld = [] → (x.events.length < 256 ∨ ∃ e ∈ x.events, evKind e.2 = 2) →
    ∃ t, exec (.gangRetire gk) s = .next t ∧ t.gangs = s.gangs.filter (fun y => y.gk != gk) ∧ t.mem = s.mem ∧
      (t.clu g.clu).events = (if x.events.length < 256 then x.events else dropRetired x.events) ++
        [(g.ctx, evRecord 0 gk gk 2 0 0 false ||| x.evSeq.zeroExtend 128)] ∧
      (t.ctx g.ctx).scb = (s.ctx g.ctx).scb.filter (fun e => e.gk != gk) ∧
      ∀ e ∈ coresOf g.clu, (s.eng e).holder = some gk → t.eng e = .reset)

/-- R29, R30, R241, R368, R369, R390 to R392, R396, R419, R422: victims chosen for a waiting gang begin to be saved; a task that is asked to leave, or whose access is not resident, goes into the lowest free frame and leaves its core; a deadline that passes
leaves its record; a saved gang that may enter again is resident; a held load performs into its frame; and a parked task whose held accesses are done runs again with its registers. -/
def Obligations.Saves : Prop :=
  (∀ (gk : Nat) (g : Gang) (vs : List Nat) (s : State), s.gangOf gk = some g → g.cohort = none → (g.waits = true ∨ g.st = .pending) → s.gangLive g = true →
    s.firstWaiting g = true → s.fitsAll [g] = false → s.regionsOk g = true →
    s.victims g.clu (s.ctx g.ctx).prio [g] [] 9 = some vs →
    ∃ t, exec (.preemptionRequest gk) s = .next t ∧ t.mem = s.mem ∧
      ∀ v ∈ vs, ∀ x, s.gangOf v = some x → x.st = .resident → ∀ y ∈ t.gangs, y.gk = v → y.st = .saving ∨ y.st = .saved) ∧
  (∀ (e gk f : Nat) (g : Gang) (s : State), (s.eng e).gang = some gk → s.gangOf gk = some g → (s.eng e).stopped = false → f < 32 →
    let taken (t : State) : Prop := (t.eng e).gang = none ∧ (t.clu (cluOf e)).frfree.getLsbD f = false ∧
      ∀ y ∈ t.gangs, y.gk = gk → ∀ m, y.members[(s.eng e).member]? = some m → m.st = .saved f ∨ m.st = .parked f
    ((s.eng e).saveReq = true → (s.eng e).parkReq = false → (s.eng e).stat = .saving →
      (∀ w, g.waiter.bind s.gangOf = some w → s.mayEnter w = false ∧ ¬ (w.st = .pending ∧ s.cohortReady w = true)) →
      let u := (s.showSave e).settleCore e
      u.quiesced e gk false = true → u.freeFrame? (cluOf e) = some f → (u.eng e).gang = some gk →
      ∃ t, exec (.taskSave e) s = .next t ∧ taken t) ∧
    ((s.eng e).parkReq = true →
      let u := ((s.showSave e).modEng e fun y => { y with ps0 := none, ps1 := none }).settleCore e
      u.quiesced e gk true = true → u.freeFrame? (cluOf e) = some f → (u.eng e).gang = some gk →
      ∃ t, exec (.taskPark e) s = .next t ∧ taken t)) ∧
  (∀ (gk d : Nat) (g : Gang) (s : State), s.gangOf gk = some g → g.deadline = some d → g.ackd = false → d ≤ s.clk.toNat →
    let p := (s.ctx g.ctx).part.val
    exec (.preemptionOverdue gk) s = .next { s with
      parts := tput .reset s.parts p { s.part p with traps := (s.part p).traps ++ [s.overdueRecord g] }
      gangs := s.gangs.map fun y => if y.gk = gk then { y with ackd := true } else y }) ∧
  (∀ (gk : Nat) (g : Gang) (s : State), s.gangOf gk = some g → g.st = .saved → s.mayEnter g = true →
    (∀ h ∈ s.mates g, s.badFrame h = none ∧ ∀ f ∈ h.frames, s.noneHeld h.clu f = true) →
    ∃ t, exec (.gangRestore gk) s = .next t ∧ ∀ h ∈ s.mates g, ∃ y ∈ t.gangs, y.gk = h.gk ∧ y.st = .resident) ∧
  (∀ (a : Access) (clu f i w : Nat) (n : Fin 32) (g : Gang) (m : Member) (x : ObjEnt) (locs : List (Part × Nat)) (s : State),
    s.accs.find? (·.id == a.id) = some a → a.eng = frameKey clu f → f < 32 → clu < 12 → s.frameOwner clu f = some (g, i, m) → a.kind = .load → a.parked = true →
    s.objEnt a.obj.1 a.obj.2 = some x → s.placeParts a.obj.1 a.obj.2 x a.parts = locs.map (fun q => (q.1, .at_ q.2)) → a.tagQ = none →
    let ps := locs.map fun q => { q.1 with loc := q.2 }
    let b : Access := { a with parts := ps, parked := false, window := x.space.val = 4 }
    (∀ p ∈ ps, isExt p.loc = false ∧ s.quiet clu p.loc p.n = true) → s.mayStep .value b = true → a.dst = .g (.reg n) → n.val ≠ 0 → a.sec = false →
    a.tok = some w → w < 8 → m.held.find? (fun q => q.1 == a.id) = none → (∀ c ∈ s.accs, c.id = a.id → c = a) → (∀ p ∈ s.pends, p.id ≠ a.id) →
    let cb := s.frameLoc clu f + 0x103000
    let v := partsValue (ps.map fun p => (p, { s with accs := s.accs.map fun (c : Access) => if c.id = a.id then b else c }.view a.eng false a.id p.loc p.n))
    ∃ t, exec (.parkedAccessPerforms a.id) s = .next t ∧ (∀ c ∈ t.accs, c.id ≠ a.id) ∧
      t.rd64 (cb + 0x40 + 8 * (n.val - 1)) = ext64 a.t (BitVec.ofNat 2048 v).toNat ∧
      t.rdNat (cb + 0x750 + 4 * w) 4 = s.rdNat (cb + 0x750 + 4 * w) 4 - 1) ∧
  (∀ (gk k f e : Nat) (g : Gang) (m : Member) (y : Engine) (jobs : List CopyJob) (s : State), s.gangOf gk = some g → g.members[k]? = some m → m.st = .parked f →
    g.st = .resident → g.trapped = false → f < 32 → s.noneHeld g.clu f = true → s.lentCore gk k g.clu = some e → s.readFrame g k m f e = some (y, jobs) →
    ∃ t, exec (.parkedTaskRestore gk k) s = .next t ∧ t.mem = s.mem ∧ (t.clu g.clu).frfree.getLsbD f = true ∧
      let x := t.eng e
      x.gang = y.gang ∧ x.prim.pc = y.prim.pc ∧ x.prim.g = y.prim.g ∧ x.sec.g = y.sec.g ∧ x.h = y.h ∧ x.v = y.v ∧ x.p = y.p ∧ x.acc = y.acc ∧ x.vq = y.vq ∧
      x.prim.toks = y.prim.toks ∧ x.prim.loops = y.prim.loops ∧
      ∀ h ∈ t.gangs, h.gk = gk → ∀ n, h.members[k]? = some n → n.st = .running e)

/-- R26 to R28, R276, R376, R377, R384: a free sequencer takes the next ready context, with the registers that QCTX kept or with none; at an operator boundary one that must give way goes to the tail of its ready list; a
waiting context whose wait is over is ready; a stopping one whose gangs are gone and whose record is written is STOPPED with its run's status. -/
def Obligations.ContextStates : Prop :=
  (∀ (q : Fin 4) (c : Nat) (s : State), (s.seq q.val).ctx = none → (s.seq q.val).stop = false → s.nextReady (s.seq q.val).part.val = some c →
    (s.ctx c).st = .ready ∧ (s.ctx c).part = (s.seq q.val).part ∧
    (∀ d, d ∈ tkeys s.ctxs → (s.ctx d).st = .ready → (s.ctx d).part = (s.seq q.val).part →
      (s.ctx d).prio < (s.ctx c).prio ∨ ((s.ctx d).prio = (s.ctx c).prio ∧ (s.ctx c).readyAt ≤ (s.ctx d).readyAt)) ∧
    ∃ t, exec (.contextDispatch q) s = .next t ∧ (t.ctx c).st = .running ∧ (t.ctx c).seq = some q ∧ (t.seq q.val).ctx = some c ∧
      (t.ctx c).bpc = (s.ctx c).bpc ∧ t.eng (48 + q.val) = (s.ctx c).saved.getD .reset ∧ t.mem = s.mem) ∧
  (∀ (q : Fin 4) (c : Nat) (s : State), (s.seq q.val).ctx = some c → s.switchDue q.val = true →
    ∃ t, exec (.contextSwitch q) s = .next t ∧ (t.ctx c).st = .ready ∧ (t.ctx c).seq = none ∧ (t.seq q.val).ctx = none ∧
      (t.ctx c).bpc = (s.ctx c).bpc ∧ (t.ctx c).readyAt = s.nextId ∧ t.eng (48 + q.val) = .reset ∧ LeavesMemory s t q.val c ∧
      ((s.ctx c).keep = true → ∃ e, (t.ctx c).saved = some e ∧ e.prim.g = (s.eng (48 + q.val)).prim.g ∧ e.prim.toks = (s.eng (48 + q.val)).prim.toks ∧
        e.prim.loops = (s.eng (48 + q.val)).prim.loops ∧ e.rmode = (s.eng (48 + q.val)).rmode)) ∧
  (∀ (c : Nat) (s : State), (s.ctx c).st = .waiting →
    ((s.ctx c).awaits = .none ∨ ∃ n, (s.ctx c).awaits = .layer n ∧ s.resSet c n = true) →
    exec (.contextWake c) s = .next { s with
      nextId := s.nextId + 1, ctxs := tput .reset s.ctxs c { s.ctx c with st := .ready, readyAt := s.nextId, awaits := .none } }) ∧
  (∀ (c : Nat) (e : RunEnd) (s : State), (s.ctx c).st = .stopping → (s.ctx c).seq = none → (s.ctx c).trapQueued = false → (∀ g ∈ s.gangs, g.ctx ≠ c) →
    (s.ctx c).ending = some e →
    ∃ t, exec (.contextStopped c) s = .next t ∧ (t.ctx c).st = .stopped ∧ (t.ctx c).exit = e.detail ∧ (t.ctx c).lstat = e.status ∧ (t.ctx c).scb = [])

/-! ### Comets and collectives -/

/-- R266, R330, R332, R335 to R339, R341, R342, R348, R349: XCOMET stands in its core's comet buffer under its token; a posting reads header and payload, lowers the token and either goes to its first hop or
traps with the first check it fails; an armed entry takes an arriving comet once, with its operation, its bitmap bit and its count, and passes it on; a comet of another CID is parked; the entry completes at its count or its timeout; a released
slot's comets leave point to point. -/
def Obligations.CometsAndCollectives : Prop :=
  (∀ (x : XCometW) (s : State) (off : Word) (l lp : Nat), s.enabled x.pr = true → s.g? .i64 x.c = some off →
    let ha := s.h x.a
    let hb := s.h x.b
    let a : Int := hb.cur + off.toInt
    let n := 256 * min (leNat (s.view s.focus.eng s.focus.sec s.nextId (l + 4) 1) % 64) 32
    Permits ha rR ha.cur 64 → ha.cur % 64 = 0 → InScratchpad s ha ha.cur 64 l → Permits hb rR a n → a % 64 = 0 → InScratchpad s hb a.toNat n lp →
    (s.pends.filter fun p => p.eng == s.focus.eng && match p.kind with | .comet _ _ _ _ _ => true | _ => false).length < 16 →
    (s.fs.tok x.tok.val).toNat + 1 < 2 ^ 32 →
    exec (.xcomet x) s = .next { onStream s (fun y => { charge x.tok.val 1 y with lags := y.lags ++ [⟨s.nextId, y.cycle, .engine⟩] }) with
      pends := s.pends ++ [⟨s.nextId, s.focus.eng, s.focus.sec, some x.tok.val, .comet l lp x.cls s.fs.pc [ha.oid, hb.oid]⟩]
      nextId := s.nextId + 1 }) ∧
  (∀ (p : PendOp) (l lp : Nat) (cls : BitVec 4) (pc : Word) (os : List Nat) (s : State), s.pends.find? (·.id == p.id) = some p →
    p.kind = .comet l lp cls pc os → s.ordered p.eng p.sec p.id cls = true → (∀ w ∈ s.pends, ∀ c o, w.kind ≠ .otinv c o) →
    let rd (a n : Nat) : List Byte := s.view p.eng p.sec p.id a n
    let c0 : Comet := ⟨(rangeFrom 0 8).map fun k => .ofNat 64 (leNat (rd (l + 8 * k) 8)), []⟩
    let c : Comet := { c0 with payload := rd lp (256 * min c0.plen 32) }
    let u := unlag (ends s p) p.eng p.sec p.id
    let r := c.route c.hop
    (∀ code rest, s.cometCodes c = code :: rest →
      exec (.cometPost p.id) s = .next (u.engTrap p.eng p.sec pc ⟨0x27, code, none, none, none⟩)) ∧
    (s.cometCodes c = [] →
      (rPort r = 31 → exec (.cometPost p.id) s = .next { u with loopComets := u.loopComets ++ [c] }) ∧
      (rPort r < 18 → (tget SupPort.reset s.dev.sup (rPort r)).en = true → (tget SupPort.reset s.dev.sup (rPort r)).st ≠ .down →
        (rMc r = false ∨ s.dev.released.contains (1024 * rPort r + rDev r) = false) →
        exec (.cometPost p.id) s = .next { u with comets := u.comets ++ [⟨rPort r, c, (tget SupPort.reset s.dev.sup (rPort r)).st == .train⟩] }) ∧
      (18 ≤ rPort r → rPort r < 26 → (tget EthPort.reset s.dev.eth (rPort r - 18)).en = true → (tget EthPort.reset s.dev.eth (rPort r - 18)).up = true →
        exec (.cometPost p.id) s = .next { u with comets := u.comets ++ [⟨rPort r, c, true⟩] }))) ∧
  (∀ (src : CometSrc) (c : Comet) (retry : Nat) (s s0 : State), s.cometQuiet c = true →
    ((src = .fabric c ∧ s0 = s ∧ retry = 0) ∨
      (∃ k, src = .loop k ∧ s.loopComets[k]? = some c ∧ s0 = { s with loopComets := s.loopComets.eraseIdx k } ∧ retry = 0) ∨
      (∃ k at_, src = .parked k ∧ s.parkedComets[k]? = some ⟨c, retry, at_⟩ ∧ at_ ≤ s.clk.toNat ∧
        s0 = { s with parkedComets := s.parkedComets.eraseIdx k })) →
    c.hop < c.hops → c.hdr.length = 8 → c.payload.length = 256 * c.plen → opCode (c.op c.hop) ≠ 7 →
    let k := c.cid % 4096
    let op := opCode (c.op c.hop)
    (s.entCid k ≠ c.cid → retry < 16 →
      exec (.cometArrival src) s = .next { s0 with parkedComets := s0.parkedComets ++ [⟨c, retry + 1, s.retryAt (retry + 1)⟩] }) ∧
    (s.entCid k = c.cid → c.cid / 4096 ≠ 0 → s.entArmed k = true → s0.entHandlesOk k = true →
      ∀ ld, s0.collPlace k (s.entHandle k 6) rW (s.entHandle k 6).cur 8192 false = .runs ld →
      let dmap := runAt ld (s.entHandle k 6).cur (c.seq / 8)
      ((s.rdNat dmap 1).testBit (c.seq % 8) = true → exec (.cometArrival src) s = .next s0) ∧
      ∀ ls, s0.cometBuf c k = .runs ls → (ls.map (·.2.2)).sum = 256 * c.plen → (s.rdNat dmap 1).testBit (c.seq % 8) = false →
        let c' : Comet := { c.setHop (c.hop + 1) with payload := c.payload }
        (∀ r ∈ ls, isExt r.1 = false ∧ s.guarded r.1 r.2.2 = false ∧ collTouched r.1 r.2.2 = []) →
        (op ≤ 4 → op ≠ 3 → efmtOk op (opFop (c.op c.hop)) c.efmt = true ∧ opFop (c.op c.hop) < 3) →
        (c.hop + 1 < c.hops → op ≠ 4 ∧ s.routeOk (c'.route c'.hop) (c'.localAfter c'.hop) = true ∧ rPort (c'.route c'.hop) = 31) →
        ∃ t u v, exec (.cometArrival src) s = .next t ∧
          (op ≤ 4 → Takes op (opFop (c.op c.hop)) c.efmt ls c.payload s u) ∧ (5 ≤ op → ∀ a, mget u.mem a = mget s.mem a) ∧
          Stored u v dmap [mget u.mem dmap ||| 1#8 <<< (c.seq % 8)] ∧
          (let w := v.entWord k 1
           if opDn (c.op c.hop) then Stored v t (collLoc + 64 * k + 8) (leBytes 8 (pack [(32, 32, fld w 32 32 + 1), (0, 32, fld w 0 32)]).toNat)
           else ∀ a, mget t.mem a = mget v.mem a) ∧
          t.loopComets = s0.loopComets ++ (if c.hop + 1 < c.hops then [c'] else []) ∧ t.parkedComets = s0.parkedComets ∧ t.comets = s.comets)) ∧
  (∀ (i : Nat) (lc : List (Nat × Nat × Nat)) (s : State), i < 4096 → s.entArmed i = true → fld (s.entWord i 1) 0 32 ≠ 0 →
    s.collPlace i (s.entHandle i 4) rW (s.entHandle i 4).cur 16 false = .runs lc →
    let l := runAt lc (s.entHandle i 4).cur 0
    let record (status : Nat) (u : State) : Prop := ∃ v,
      Stored s v l (leBytes 8 (pack [(32, 32, s.entCid i), (0, 32, fld (s.entWord i 1) 32 32)]).toNat ++
        leBytes 8 (pack [(60, 4, status), (0, 4, (tget 0 s.dev.cometFlags i).toNat)]).toNat) ∧
      Stored v u (collLoc + 64 * i) (leBytes 8 ((s.entWord i 0).toNat % 2 ^ 62 + 2 ^ 62))
    (fld (s.entWord i 1) 0 32 ≤ fld (s.entWord i 1) 32 32 → ∃ t, exec (.collectiveComplete i) s = .next t ∧ record 0 t ∧ t.gangs = s.gangs) ∧
    (fld (s.entWord i 1) 32 32 < fld (s.entWord i 1) 0 32 → exec (.collectiveComplete i) s = .next s) ∧
    ((if fld (s.entWord i 0) 32 16 = 0 then 2000 else fld (s.entWord i 0) 32 16) * 1000000 < s.runTime i →
      ((s.gangs.find? fun y => y.coll.contains (s.entCid i)) = none →
        ∃ t, exec (.collectiveTimeout i) s = .next t ∧ record 1 t ∧ t.gangs = s.gangs) ∧
      ∀ g, (s.gangs.find? fun y => y.coll.contains (s.entCid i)) = some g → s.gangOf g.gk = some g →
        ∃ t, exec (.collectiveTimeout i) s = .next t ∧ record 1 t ∧ (∀ y ∈ t.gangs, y.gk = g.gk → y.trapped = true) ∧
          ((s.ctx g.ctx).st.live = true → (t.ctx g.ctx).st = .stopping ∧ (t.ctx g.ctx).ending = some ⟨1, 0x54⟩))) ∧
  (∀ (k : Nat) (o : OutComet) (s : State), s.comets[k]? = some o → o.port < 18 → rMc (o.c.route o.c.hop) = true →
    exec (.switchMulticast k) s = .next { s with
      comets := s.comets.eraseIdx k
      loopComets := if s.dev.dev.toNat ∈ s.mirror o.port (rDev (o.c.route o.c.hop)) then s.loopComets ++ [o.c] else s.loopComets }) ∧
  (∀ (plane slot : Nat) (s : State), plane < 18 → slot < 1024 →
    let mine (o : OutComet) : Bool := o.port == plane && rMc (o.c.route o.c.hop) && rDev (o.c.route o.c.hop) == slot
    let direct : List (Nat × Comet) := (s.comets.filter mine).flatMap fun o => (s.mirror plane slot).map fun d => (d, o.c.direct o.c.hop d)
    ∃ t, exec (.slotRelease plane slot) s = .next t ∧ 1024 * plane + slot ∈ t.dev.released ∧ t.mem = s.mem ∧
      t.comets = s.comets.filter (fun o => !mine o) ++ (direct.filter fun q => q.1 ≠ s.dev.dev.toNat).map (fun q =>
        ⟨plane, q.2, (tget SupPort.reset s.dev.sup plane).st == .train⟩) ∧
      t.loopComets = s.loopComets ++ (direct.filter fun q => q.1 = s.dev.dev.toNat).map (·.2))

/-! ### Memory and Orrery -/

/-- R88, R398, R400 to R406, R410 to R412, R414, R420: a prefetch into an L2 changes nothing; the decay halves the counts; OTSYNC takes the window and export registers over; commands of the ring start, advance granule by granule and end with
their event, or are refused; a migration copies line by line; a request that it holds back is counted; a parked access goes on when its page is there and is given up at the sixteenth retry. -/
def Obligations.MemoryAndOrrery : Prop :=
  (∀ (c : Nat) (s : State), exec (.l2Prefetcher c) s = .next s) ∧
  (∀ (p : Fin 4) (s : State),
    let x := s.part p.val
    (x.rhDecay = 0 → exec (.remoteDecay p) s = .next s) ∧
    (x.rhDecay ≠ 0 →
      let y : Partition := { x with remote := x.remote.map fun (r : RemCnt) => { r with count := r.count / 2 } }
      exec (.remoteDecay p) s = .next { s with parts := tput .reset s.parts p.val y }) ∧
    ∀ (ctx : BitVec 10) (n : Nat) (rest : List (Nat × Nat)), x.otsQ = (ctx.toNat, n) :: rest → (∀ a ∈ s.accs, a.obj.1 = ctx.toNat → n ≤ a.id) →
      (∀ b ∈ s.banks, b.ctx = ctx.toNat → b.mailOid = none) → (∀ q ∈ s.pends, s.ctxOf q.eng ≠ ctx.toNat) →
      (∀ e ∈ s.engines, s.ctxOf e.1 = ctx.toNat → e.2.perms = []) →
      exec (.otsync p ctx) s = .next { s with
        parts := tput .reset s.parts p.val { x with otsQ := rest, otsDone := rest.isEmpty }
        ctxs := tput .reset s.ctxs ctx.toNat { s.ctx ctx.toNat with winbase := x.winbase, wincnt := x.wincnt, expbase := x.expbase, expcnt := x.expcnt } }) ∧
  (∀ (p : Fin 4) (w : List Word) (s : State), OrreryCalm s p.val → s.headCmd p.val = some w →
    let x := s.part p.val
    let opc := fld (w.getD 0 0) 0 8
    (cmdBad w = true → ∃ t, exec (.fetch p) s = .next t ∧ CommandEnds x s t p.val w 2 1) ∧
    (∀ n, cmdBad w = false → (opc = 1 ∨ opc = 2) → s.cmdAlloc p.val w = .error n →
      ∃ t, exec (if opc = 1 then .fetch p else .evict p) s = .next t ∧ CommandEnds x s t p.val w 2 n) ∧
    (∀ a : Alloc, cmdBad w = false → s.cmdAlloc p.val w = .ok a →
      (∀ n, opc = 1 → a.layer = some n →
        (s.resSet a.ctx n = true → ∃ t, exec (.fetch p) s = .next t ∧ CommandEnds x s t p.val w 1 0) ∧
        (s.resSet a.ctx n = false → ∃ t, exec (.fetch p) s = .next t ∧ (t.part p.val).job = .fetchLayer a.ctx n (s.fetchList a) 0 ∧
          Stored s t (s.resLoc a.ctx n) (leBytes 8 (pack [(62, 1, fld (s.resWord a.ctx n) 62 1), (32, 30, fld (s.resWord a.ctx n) 32 30)]).toNat))) ∧
      (∀ o es, opc = 1 → a.layer = none → s.objEnt a.ctx a.oid = some o → s.extsOf a.ctx a.oid o = some es →
        ∃ t todo, exec (.fetch p) s = .next t ∧ (t.part p.val).job = .fetchObj a.ctx a.oid todo ∧ t.mem = s.mem ∧
          ∀ g, g ∈ todo ↔ g < o.granules ∧ ∃ e, extAt es g = some e ∧ (e.st.val = 0 ∨ e.st.val = 3)) ∧
      (opc = 2 → (∀ c, match (s.ctx c).awaits with | .room _ _ _ => False | _ => True) → (a.layer = none → ∀ o, s.objEnt a.ctx a.oid = some o → o.layer = 0xFFFF) →
        ((s.allocInfo a).2.1 = true → fld (w.getD 0 0) 18 1 = 0 → ∃ t, exec (.evict p) s = .next t ∧ CommandEnds x s t p.val w 2 4) ∧
        ((s.allocInfo a).2.1 = false ∨ fld (w.getD 0 0) 18 1 = 1 →
          ∃ t, exec (.evict p) s = .next t ∧ (t.part p.val).job = .evict a.ctx a.layer (s.allocOids a) ∧ t.copies = s.copies ∧ t.accs = s.accs))) ∧
    (opc = 3 → cmdBad w = false →
      (∀ n, s.moveBad p.val w = some n → ∃ t, exec (.move p) s = .next t ∧ CommandEnds x s t p.val w 2 n) ∧
      (s.moveBad p.val w = none → ∃ t, exec (.move p) s = .next t ∧ t.mem = s.mem ∧ (t.part p.val).job =
        .moveObj (fld (w.getD 0 0) 8 10) (fld (w.getD 1 0) 0 20) (fld (w.getD 2 0) 0 32) (fld (w.getD 2 0) 32 24) (fld (w.getD 3 0) 0 23) 0))) ∧
  (∀ (p : Fin 4) (c n landed : Nat) (s : State), OrreryCalm s p.val →
    let x := s.part p.val
    let r := s.resWord c n
    (x.job = .fetchLayer c n [] landed → (s.fetchList ⟨c, some n, 0⟩).all (fun q => s.granHere c q.1 q.2) = true → ∃ t u, exec (.fetch p) s = .next t ∧
      Stored s u (s.resLoc c n) (leBytes 8 (pack [(63, 1, 1), (62, 1, fld r 62 1), (32, 30, fld r 32 30 + 1), (0, 32, s.layerBytes c n)]).toNat) ∧
      CommandEnds x u t p.val (ringCmd x p.val u) 1 0) ∧
    (∀ o g rest y es e, x.job = .fetchLayer c n ((o, g) :: rest) landed → s.objEnt c o = some y → s.extsOf c o y = some es → extAt es g = some e →
      let next (t u : State) : Prop :=
        (t.part p.val).job = .fetchLayer c n rest (landed + s.granBytes c o g) ∧
        Stored u t (s.resLoc c n) (leBytes 8 (pack [(62, 1, fld r 62 1), (32, 30, fld r 32 30), (0, 32, landed + s.granBytes c o g)]).toNat)
      (e.st.val = 1 ∨ e.st.val = 2 → ∃ t, exec (.fetch p) s = .next t ∧ next t s) ∧
      (e.st.val = 0 → (s.ctx c).part = p → runTotal (s.freeFast p.val) ≠ 0 → y.base = 0 → (s.ctx c).otdir.getLsbD 0 = false →
        ∃ t u fg, exec (.fetch p) s = .next t ∧ runHas (s.freeFast p.val) fg 1 = true ∧
          Stored s u (locFast p.val (fg * 65536)) (s.bytes (locCap ((e.bg + (g - e.og)) * 65536)) 65536) ∧
          next t u))) ∧
  (∀ (p : Fin 4) (c oid og ng fg k : Nat) (s : State), OrreryCalm s p.val → (s.part p.val).migr = none →
    let x := s.part p.val
    (∀ l os, x.job = .evict c l os → (∀ q, match (s.ctx q).awaits with | .room _ _ _ => False | _ => True) →
      ∃ t, exec (.evict p) s = .next t ∧ CommandEnds x s t p.val (ringCmd x p.val s) 1 0) ∧
    (x.job = .moveObj c oid og ng fg k →
      (ng ≤ k → ∃ t, exec (.move p) s = .next t ∧ CommandEnds x s t p.val (ringCmd x p.val s) 1 0) ∧
      (k < ng → ∀ y es e, s.objEnt c oid = some y → s.extsOf c oid y = some es → extAt es (og + k) = some e →
        (fg + k ∈ x.gone → ∃ t, exec (.move p) s = .next t ∧ (t.part p.val).job = .moveObj c oid og ng fg (k + 1) ∧ t.mem = s.mem) ∧
        (fg + k ∉ x.gone → e.st.val = 0 → ∃ t, exec (.move p) s = .next t ∧ (t.part p.val).job = .moveObj c oid og ng fg (k + 1) ∧ (t.part p.val).migr = none) ∧
        (fg + k ∉ x.gone → e.st.val = 1 → ∃ t, exec (.move p) s = .next t ∧ (t.part p.val).job = x.job ∧ (t.part p.val).migr = some ⟨c, oid, og + k, fg + k, 0⟩)))) ∧
  (∀ (p : Fin 4) (d : DFetch) (s : State), (s.part p.val).evicts = [] → (s.part p.val).djob = .idle → (s.part p.val).demands = [d] →
    (d.layer = none → ∃ t, exec (.demandFetch p) s = .next t ∧ (t.part p.val).djob = .fetchObj d.ctx d.oid [d.granule] ∧ (t.part p.val).demands = [] ∧ t.mem = s.mem) ∧
    (∀ n, d.layer = some n → s.resSet d.ctx n = false → (s.part p.val).job = .idle →
      ∃ t, exec (.demandFetch p) s = .next t ∧ (t.part p.val).djob = .fetchLayer d.ctx n (s.fetchList ⟨d.ctx, some n, 0⟩) 0 ∧ (t.part p.val).demands = [])) ∧
  (∀ (p : Fin 4) (m : Migr) (y : ObjEnt) (es : List Extent) (e : Extent) (s : State), (s.part p.val).migr = some m → s.objEnt m.ctx m.oid = some y →
    s.extsOf m.ctx m.oid y = some es → extAt es m.og = some e → m.line < 511 →
    let a := locFast p.val ((e.fg + m.og - e.og) * 65536 + 128 * m.line)
    s.allQuiet a 128 = true →
    ∃ t, exec (.migrationLineCopy p) s = .next t ∧ Stored s t (locFast p.val (m.fg * 65536 + 128 * m.line)) (s.bytes a 128) ∧
      (t.part p.val).migr = some { m with line := m.line + 1 } ∧ t.accs = s.accs) ∧
  (∀ (a : Access) (s : State), a ∈ s.accs → a.parked = false → (∃ q ∈ a.parts, s.migBlocked q.loc q.n = true) →
    exec (.waitHintRetry a.id) s = .next { s with dev := { s.dev with rtrycnt := s.dev.rtrycnt + 1 } }) ∧
  (∀ (b : BankCmd) (n : Nat) (s : State), s.banks.find? (·.id == b.id) = some b → b.retryAt = some n → n ≤ s.clk.toNat →
    (s.stillAbsent b.ctx b.oid b.addr b.op.len = none → b.op ≠ .rowcp → b.op ≠ .rowxf →
      exec (.yoYoRetry b.id) s = .next { s with banks := s.banks.map fun x => if x.id = b.id then { x with retryAt := none } else x }) ∧
    (∀ r gk g, s.stillAbsent b.ctx b.oid b.addr b.op.len = some r → 16 ≤ b.retry → (s.eng b.eng).gang = some gk → s.gangOf gk = some g →
      ∃ t, exec (.yoYoRetry b.id) s = .next t ∧ (∀ x ∈ t.banks, x.id ≠ b.id) ∧ (∀ y ∈ t.gangs, y.gk = gk → y.trapped = true) ∧
        ((s.ctx g.ctx).st.live = true → (t.ctx g.ctx).ending = some ⟨1, 0x28⟩)))

/-! ### Reliability -/

/-- R418, R423, R424, R426, R427: the trap-queue thread writes the next record with its RSEQ, or drops what a full ring may drop; a detected fault leaves its error record and its consequence for the engine or hart that used the data or for the
partition; patrol meets a fault that no engine used; a retired page leaves the pool; the life estimate becomes valid after 24 h and reports its fall below 12 months. -/
def Obligations.Reliability : Prop :=
  (∀ (p : Fin 4) (th : Nat) (s : State), s.thread? 2 p 0 = some th →
    let x := s.part p.val
    let n := 2 ^ (fld x.tqbase 0 4 + 4)
    (∀ r rest, ringRoom x.tqWidx x.tqCons n = true → x.traps = r :: rest →
      ∃ t, exec (.trapRecordWrite p) s = .next t ∧ (t.part p.val).traps = rest ∧ (t.part p.val).tqWidx = x.tqWidx + 1 ∧
        Stored s t (locFast p.val (fld x.tqbase 6 42 * 64 + 64 * (x.tqWidx.toNat % n)))
          ((r.words ++ [BitVec.ofNat 64 x.tqWidx.toNat]).flatMap fun (w : Word) => leBytes 8 w.toNat) ∧
        (r.kind = 1 → (t.ctx r.ctx).trapQueued = false)) ∧
    (ringRoom x.tqWidx x.tqCons n = false →
      let y : Partition := { x with
        traps := x.traps.filter fun r => r.kind == 1
        tqDrop := x.tqDrop + .ofNat 32 (x.traps.filter fun r => r.kind ≠ 1).length }
      exec (.trapRecordWrite p) s = .next { s with parts := tput .reset s.parts p.val y })) ∧
  (∀ (x : ErrorW) (s : State),
    let u := x.unit.toNat
    let pl := x.place.toNat
    let ob := x.obj.map fun o => (o.1.toNat, o.2.toNat)
    (x.sev = 1 → ∃ t, exec (.errorDetected x) s = .next t ∧ ErrorRecord s t u pl 1 x.loc ob ∧ t.gangs = s.gangs ∧ t.engines = s.engines ∧
      t.parts = s.parts) ∧
    (∀ h, x.sev = 2 → x.eng = none → x.hart = some h → ∃ t, exec (.errorDetected x) s = .next t ∧ ErrorRecord s t u pl 2 x.loc ob ∧
      t.dev.hartFaults = s.dev.hartFaults ++ [h.val] ∧ t.gangs = s.gangs ∧ t.engines = s.engines ∧ t.parts = s.parts) ∧
    (∀ e gk g, x.sev = 2 ∨ x.sev = 3 → x.eng = some e → e < 48 → (s.eng e).gang = some gk → s.gangOf gk = some g → (s.ctx g.ctx).st.live = true →
      ∃ t, exec (.errorDetected x) s = .next t ∧ ErrorRecord s t u pl x.sev.toNat x.loc ob ∧ (∀ y ∈ t.gangs, y.gk = gk → y.trapped = true) ∧
        (t.ctx g.ctx).st = .stopping ∧ (t.ctx g.ctx).ending = some ⟨1, if x.sev = 2 then 0x29 else 0x2A⟩ ∧
        ((t.part (s.ctx g.ctx).part.val).traps.length = (s.part (s.ctx g.ctx).part.val).traps.length + 1) ∧
        ∀ k, (x.sev = 3 → ∀ d : Fin 32, x.dst = some d → k ≠ d.val) → tget 0 (t.eng e).v k = tget 0 (s.eng e).v k) ∧
    (x.sev = 4 → x.eng = none → (∀ c q, (s.ctx c).seq = some q → (s.seq q.val).ctx = some c) →
      ∃ t, exec (.errorDetected x) s = .next t ∧ ErrorRecord s t u pl 4 x.loc ob ∧
        (∀ c, (s.ctx c).part = (s.clu pl).part → (s.ctx c).st.live = true → (t.ctx c).st = .stopping ∧ (t.ctx c).ending = some ⟨1, 0x60⟩) ∧
        ∀ g ∈ t.gangs, (s.ctx g.ctx).part = (s.clu pl).part → (s.ctx g.ctx).st.live = true → g.trapped = true) ∧
    (s.dev.patEn = false → exec (.patrol x) s = .next s) ∧
    (s.dev.patEn = true → exec (.patrol x) s = exec (.errorDetected { x with eng := none, hart := none }) s ∧
      (x.sev = 1 → ∃ t, exec (.patrol x) s = .next t ∧ ErrorRecord s t u pl 1 x.loc ob ∧ t.gangs = s.gangs))) ∧
  (∀ (p : Fin 4) (fg : Nat) (s : State),
    let x := s.part p.val
    (fg ∈ x.gone → exec (.pageRetirement p fg) s = .next s) ∧
    (∀ m y es e, fg ∉ x.gone → x.migr = some m → s.objEnt m.ctx m.oid = some y → s.extsOf m.ctx m.oid y = some es → extAt es m.og = some e →
      fg = m.fg ∨ fg = e.fg + m.og - e.og → (s.ctx m.ctx).part = p → ∃ t, exec (.pageRetirement p fg) s = .next t ∧ (t.part p.val).migr = none ∧
        (t.part p.val).gone = x.gone ++ [fg]) ∧
    (x.migr = none → fg ∉ x.gone → s.holderOf p.val fg = none →
      exec (.pageRetirement p fg) s = .next { s with parts := tput .reset s.parts p.val { x with gone := x.gone ++ [fg] } }) ∧
    (∀ a, x.migr = none → fg ∉ x.gone → s.holderOf p.val fg = some a → (s.ctx a.ctx).part = p →
      ∃ t oids, exec (.pageRetirement p fg) s = .next t ∧ (t.part p.val).gone = x.gone ++ [fg] ∧
        (t.part p.val).evicts = x.evicts ++ [⟨a.ctx, a.layer, oids⟩] ∧ (a.layer = none → oids = [a.oid]))) ∧
  (∀ (months : BitVec 16) (s : State),
    let old := if s.dev.eolValid then s.dev.eolMonths.toNat else 0xFFFF
    let valid := s.dev.eolValid = true ∨ 86400000000000 ≤ s.clk.toNat
    ∃ t, exec (.lifeEstimateUpdate months) s = .next t ∧ t.dev.eolMonths = months ∧ (t.dev.eolValid = true ↔ valid) ∧
      (valid ∧ 12 ≤ old ∧ months.toNat < 12 → ErrorRecord s t 9 0 7 (.ofNat 64 months.toNat) none) ∧
      (¬ (valid ∧ 12 ≤ old ∧ months.toNat < 12) → t.mem = s.mem ∧ t.dev.errWidx = s.dev.errWidx))

/-! ### Submission -/

/-- R357, R378 to R385: a record submitted whole goes into the ring or is to be retried, other writes are counted; QRESET skips or discards in ERROR alone; NCONS frees entries; a thread takes the head record: a malformed one puts the queue into ERROR,
a LAUNCH starts its context or is refused, FEED stores its bytes, SIGNAL adds, CANCEL stops, each with the notification asked for. -/
def Obligations.Submission : Prop :=
  (∀ (n : Nat) (s : State),
    let x := tget SpThread.reset s.dev.threads n
    (x.en = true → x.kind ≠ 0 →
      exec (.serviceThreadWake n) s = .next { s with dev := { s.dev with threads := tput .reset s.dev.threads n { x with awake := true } } }) ∧
    (x.en = false ∨ x.kind = 0 → exec (.serviceThreadWake n) s = .next s)) ∧
  (∀ (q : Fin 64) (rec : List Word) (s : State), rec.length = 16 →
    let x := s.queue q.val
    let loc := locFast x.part.val (fld x.ring 7 41 * 128 + 128 * (x.widx.toNat % 2 ^ x.ldep))
    let submits (i : Instr) (rec : List Word) : Prop :=
      (x.en = true → x.err = false → (x.widx - x.ridx).toNat < 2 ^ x.ldep → ∃ t, exec i s = .next t ∧
        Stored s t loc (rec.flatMap fun w => leBytes 8 w.toNat) ∧ t.queue q.val = { x with widx := x.widx + 1 } ∧ t.dev.replies = s.dev.replies ++ [[1]]) ∧
      (x.en = false ∨ x.err = true ∨ 2 ^ x.ldep ≤ (x.widx - x.ridx).toNat →
        exec i s = .next { s with dev := { s.dev with replies := s.dev.replies ++ [[2]] } })
    submits (.submit q true rec) rec ∧ submits (.go q) ((rangeFrom 0 16).map fun k => tget 0 x.stage k) ∧
    (s.dev.stage = 4 → exec (.submit q false rec) s = .next { s with queues := tput .reset s.queues q.val { x with drop := x.drop + 1 } }) ∧
    (x.err = false → exec (.qresetSkip q) s = .next s ∧ exec (.qresetDiscard q) s = .next s) ∧
    (x.err = true →
      exec (.qresetSkip q) s = .next { s with queues := tput .reset s.queues q.val { x with ridx := x.ridx + 1, err := false } } ∧
      exec (.qresetDiscard q) s = .next { s with queues := tput .reset s.queues q.val { x with ridx := x.widx, err := false } }) ∧
    ∀ v : Word,
      (x.held = [] → ∃ t, exec (.ncons q v) s = .next t ∧ t.queue q.val = { x with ncons := v.setWidth 16 } ∧ t.mem = s.mem) ∧
      (∀ note, x.held = [note] → (x.nwidx - v.setWidth 16).toNat < 2 ^ (x.lnent + 4) →
        ∃ t, exec (.ncons q v) s = .next t ∧ (t.queue q.val).held = [] ∧ Notifies x s t q.val note.w0 note.w1)) ∧
  (∀ (q : Fin 64) (th : Nat) (w : List Word) (s : State), s.headRec q.val = some (th, w) →
    let x := s.queue q.val
    let c := recCtx w
    let ty := recType w
    (∀ i r, (ty, i) ∈ [(1, Instr.launch q), (2, .feed q), (3, .signalRecord q), (4, .cancel q)] → s.recBad q.val w = some r →
      ∃ t, exec i s = .next t ∧ (t.queue q.val).err = true ∧ (t.queue q.val).reci = x.ridx ∧ (t.queue q.val).reason = .ofNat 8 r ∧
        (t.queue q.val).ridx = x.ridx ∧ Notifies x s t q.val (w.getD 1 0) (noteWord w 5 r)) ∧
    (s.recBad q.val w = none →
      (ty = 1 →
        (∀ d, s.launchBad c = some d → ∃ t, exec (.launch q) s = .next t ∧ (t.queue q.val).ridx = x.ridx + 1 ∧ t.ctxs.map (·.1) = s.ctxs.map (·.1) ∧
          (t.ctx c).st = (s.ctx c).st ∧ Notifies x s t q.val (w.getD 1 0) (noteWord w 3 d)) ∧
        (s.launchBad c = none → ∃ t, exec (.launch q) s = .next t ∧ (t.queue q.val).ridx = x.ridx + 1 ∧
          let y := t.ctx c
          y.st = .ready ∧ y.run = (s.ctx c).run + 1 ∧ y.bpc = s.rdNat (s.img c 8) 4 ∧ y.prio = s.launchPrio w ∧
          (∀ k, k < 13 → tget 0 y.z k = w.getD (3 + k) 0) ∧ tget 0 y.z 13 = y.run.setWidth 64 ∧ tget 0 y.z 14 = .ofNat 64 c ∧
          tget 0 y.z 15 = .ofNat 64 q.val ∧ (∀ k, 16 ≤ k → tget 0 y.z k = 0) ∧
          y.gloops = [] ∧ y.gcalls = [] ∧ y.scb = [] ∧ y.keep = false ∧ y.saved = none ∧ y.opstep = 0 ∧ y.firstRun = false)) ∧
      (ty = 2 → ∀ o off l d, s.objEnt c (fld (w.getD 2 0) 0 20) = some o → off = (w.getD 3 0).toNat → (o.space.val = 1 ∨ o.space.val = 2 ∨ o.space.val = 3) →
        let n := fld (w.getD 4 0) 0 32
        off + n ≤ o.size → (w.getD 5 0).getLsbD 63 = false → s.hartRuns (fld (w.getD 5 0) 0 63) n = some [(l, fld (w.getD 5 0) 0 63, n)] → isExt d = false →
        s.reach c (fld (w.getD 2 0) 0 20) off n = .runs [(d, off, n)] → s.allQuiet d n = true → s.migBlocked d n = false → s.allQuiet l n = true →
        s.guarded d n = false →
        ∃ t u, exec (.feed q) s = .next t ∧ Stored s u d (s.bytes l n) ∧ RecordEnds x u t q.val w 4) ∧
      (ty = 2 → ∀ o, s.objEnt c (fld (w.getD 2 0) 0 20) = some o → (o.space.val = 1 ∨ o.space.val = 2 ∨ o.space.val = 3) →
        (w.getD 3 0).toNat + fld (w.getD 4 0) 0 32 ≤ o.size → (w.getD 5 0).getLsbD 63 = true →
        (x.feed = none → s.dev.pciSpeed ≠ 0 → ∃ t, exec (.feed q) s = .next t ∧ t.mem = s.mem ∧ t.queue q.val = { x with feed := some (s.nextId, false) } ∧
          t.ext.length = s.ext.length + 1) ∧
        ((x.feed = none ∧ s.dev.pciSpeed = 0) ∨ (∃ n, x.feed = some (n, true)) → (w.getD 0 0).getLsbD 8 = true → ∃ t, exec (.feed q) s = .next t ∧
          (t.queue q.val).ridx = x.ridx + 1 ∧ Notifies x s t q.val (w.getD 1 0) (noteWord w 3 0x12))) ∧
      (ty = 3 → ∀ o off, s.objEnt c (fld (w.getD 2 0) 0 20) = some o → off = (w.getD 3 0).toNat → o.space.val = 1 → off % 8 = 0 → off + 8 ≤ o.size →
        let l := locSbm (o.base + off)
        s.owns (s.ctx c).part.val l = true → s.allQuiet l 8 = true →
        ∃ t u, exec (.signalRecord q) s = .next t ∧ Stored s u l (leBytes 8 (s.rd64 l + w.getD 4 0).toNat) ∧ RecordEnds x u t q.val w 4) ∧
      (ty = 4 →
        ((s.ctx c).st.live = true → ∃ t, exec (.cancel q) s = .next t ∧ (t.ctx c).st = .stopping ∧ (t.ctx c).ending = some ⟨2, 0⟩ ∧
          RecordEnds x s t q.val w 4) ∧
        ((s.ctx c).st = .free ∨ (s.ctx c).st = .loaded ∨ (s.ctx c).st = .stopped → ∃ t, exec (.cancel q) s = .next t ∧ (t.ctx c).st = (s.ctx c).st ∧
          RecordEnds x s t q.val w 6))))

/-! ### Privileged registers and microcode -/

/-- R327, R328, R361, R371, R373, R375, R430, R450, R457: CTXIMG loads or frees a context that does not run; PARTCFG changes the MODE of a quiescent device, whose memories then read zero; a write of the space takes effect with the right to it, and is counted
without; a signed patch waits at every sequencer of its partition and is adopted at an operator boundary; an XOP is bound the same way; WYRST is firmware's. -/
def Obligations.PrivilegedAndMicrocode : Prop :=
  (∀ (c : Nat) (v : Word) (s : State), c < 1024 →
    let x := s.ctx c
    let idle := x.st = .free ∨ x.st = .loaded ∨ x.st = .stopped
    let a := pack [(6, 42, fld v 6 42)]
    (¬ idle → exec (.ctximg c v) s = .next s) ∧
    (idle → a = 0 →
      exec (.ctximg c v) s = .next { s with
        ctxs := tput .reset s.ctxs c { x with st := .free, img := 0, imgok := false, imgerr := 0 }
        dev := { s.dev with epochs := tput 0 s.dev.epochs 3 (tget 0 s.dev.epochs 3 + 1) } }) ∧
    (idle → a ≠ 0 → ∃ e : BitVec 8, (s.rdNat (locFast x.part.val (fld v 6 42 * 64)) 4 ≠ 0x3149474B → e = 1) ∧
      exec (.ctximg c v) s = .next { s with ctxs := tput .reset s.ctxs c
                                              { x with st := .loaded, img := a, firstRun := true, imgok := e == 0, imgerr := e } })) ∧
  (∀ (v : Word) (s : State),
    exec (.partcfg .os v) s = .next { s with dev := { s.dev with ignored := s.dev.ignored + 1 } } ∧
    exec (.partcfg .host v) s = .next { s with dev := { s.dev with hostdrop := s.dev.hostdrop + 1 } } ∧
    (fld v 0 2 = 3 ∨ (fld s.dev.devid 32 16 = 0x9E40 ∧ fld v 0 2 ≠ 0) →
      exec (.partcfg .fw v) s = .next { s with dev := { s.dev with ignored := s.dev.ignored + 1 } }) ∧
    (fld v 0 2 < 3 → ¬ (fld s.dev.devid 32 16 = 0x9E40 ∧ fld v 0 2 ≠ 0) →
      (fld v 0 2 = s.dev.mode.val →
        exec (.partcfg .fw v) s = .next { s with dev := { s.dev with lock := s.dev.lock || v.getLsbD 8 } }) ∧
      (fld v 0 2 ≠ s.dev.mode.val → s.dev.lock = true ∨ s.quiescent = false → exec (.partcfg .fw v) s = .next s) ∧
      (fld v 0 2 ≠ s.dev.mode.val → s.dev.lock = false → s.quiescent = true → ∃ t, exec (.partcfg .fw v) s = .next t ∧
        t.dev.mode.val = fld v 0 2 ∧ t.dev.lock = v.getLsbD 8 ∧
        ((∀ q, q < 4 → ∀ x ∈ (s.seq q).patches, ∀ b ∈ x.bundles, b.1 < 32768 ∧ b.2.length = 8) → t.tags = [] ∧
          (∀ a, a < 2 ^ 52 → mget t.mem a = 0) ∧
          ∀ a, 2 ^ 52 ≤ a → (∀ q, q < 4 → a < locUc q 0 ∨ locUc q 0 + 2 ^ 21 ≤ a) → mget t.mem a = mget s.mem a) ∧
        (∀ q r, q < 4 → r < 4 → (t.seq q).part = (t.seq r).part → (t.seq q).patches = [] ∧ (t.seq q).opTable = (t.seq r).opTable) ∧
        (∀ c, c < 12 → (t.clu c).part.val = if fld v 0 2 = 0 then 0 else if fld v 0 2 = 1 then c / 6 else c / 3) ∧
        ∀ q, q < 4 → (t.seq q).part.val = if fld v 0 2 = 0 then 0 else if fld v 0 2 = 1 then q / 2 else q))) ∧
  (∀ (m : Master) (o : Nat) (v : Word) (s : State),
    (s.dev.stage < 4 ∨ o < 0x1000000 ∨ 0x5000000 ≤ o → exec (.privilegedRegisterWrite .host o v) s = .next s) ∧
    (m ≠ .host ∨ ¬ (s.dev.stage < 4 ∨ o < 0x1000000 ∨ 0x5000000 ≤ o) →
      (prsReg o = none → m ≠ .host → exec (.privilegedRegisterWrite m o v) s = .next s) ∧
      (∀ r, prsReg o = some r → (r.acc = .ro ∨ (r.acc = .fw ∧ m ≠ .fw) ∨ (r.acc = .os ∧ m = .host ∧ s.dev.hostos = false)) →
        exec (.privilegedRegisterWrite m o v) s = .next { s with dev :=
          if m = .host then { s.dev with hostdrop := s.dev.hostdrop + 1 } else { s.dev with ignored := s.dev.ignored + 1 } }) ∧
      (m ≠ .host ∨ s.dev.hostos = true →
        (∀ p, p < 4 → o = 0x1000000 + 8 * p → 0 < fld v 0 20 → fld v 0 20 ≤ 1000000 →
          ∃ t, exec (.privilegedRegisterWrite m o v) s = .next t ∧ t.readReg (.pdeadl p) = .ofNat 64 (fld v 0 20) ∧ t.mem = s.mem) ∧
        (∀ c, c < 1024 → o = 0x1100018 + 0x40 * c → s.ctxIdle c = true →
          ∃ t, exec (.privilegedRegisterWrite m o v) s = .next t ∧ t.readReg (.ctxlim c) = v ∧ t.mem = s.mem) ∧
        (∀ n k, n < 64 → k < 16 → o = 0x1300080 + 0x1000 * n + 8 * k →
          ∃ t, exec (.privilegedRegisterWrite m o v) s = .next t ∧ t.readReg (.stage n k) = v ∧ t.mem = s.mem)) ∧
      (m ≠ .host → ∀ q, q < 4 → o = 0x100000 + 0x10000 * q →
        ∃ t, exec (.privilegedRegisterWrite m o v) s = .next t ∧ (t.seq q).stop = v.getLsbD 8 ∧ (t.seq q).part = (s.seq q).part ∧ t.mem = s.mem))) ∧
  (∀ (p : Fin 4) (x : Patch) (s : State),
    let ok := (x.entries.all fun (k, w) => k < 0xC0 && opEntryOk w) && (x.bundles.all fun (k, ws) => k < 32768 && ws.length = 8) &&
      Config.mldsaVerify Config.patchKey (Config.sha3 (patchBytes x)) x.sig
    (ok = false → exec (.microcodePatch p x) s = .next s) ∧
    (ok = true → ∃ t, exec (.microcodePatch p x) s = .next t ∧ t.mem = s.mem ∧
      ∀ q, q < 4 → (t.seq q).patches = if (s.seq q).part = p then (s.seq q).patches ++ [x] else (s.seq q).patches)) ∧
  (∀ (q : Fin 4) (s : State),
    ((s.seq q.val).patches = [] ∨ s.atBoundary q.val = false → exec (.patchAdoption q) s = .next s) ∧
    ∀ (x : Patch) (rest : List Patch), (s.seq q.val).patches = x :: rest → s.atBoundary q.val = true →
      (x.entries.map (·.1)).Nodup → (x.bundles.map (·.1)).Nodup → (∀ b ∈ x.bundles, b.1 < 32768 ∧ b.2.length = 8) →
      ∃ t, exec (.patchAdoption q) s = .next t ∧ (t.seq q.val).patches = rest ∧
        (∀ k w, (k, w) ∈ x.entries → tget 0 (t.seq q.val).opTable k = if k < 0xC0 then w ||| pack [(32, 1, 1), (33, 1, 1)] else w) ∧
        (∀ k, k ∉ x.entries.map (·.1) → tget 0 (t.seq q.val).opTable k = tget 0 (s.seq q.val).opTable k) ∧
        (∀ k ws j, (k, ws) ∈ x.bundles → j < 8 → t.rd64 (locUc q.val (64 * k) + 8 * j) = ws.getD j 0) ∧
        ∀ a, (∀ k, k ∈ x.bundles.map (·.1) → a < locUc q.val (64 * k) ∨ locUc q.val (64 * k) + 64 ≤ a) → mget t.mem a = mget s.mem a) ∧
  (∀ (p : Fin 4) (opc : BitVec 8) (nw : BitVec 16) (image : List (List Word)) (s : State),
    let good := 0xC0 ≤ opc.toNat ∧ opc.toNat < 0xF0 ∧ image ≠ [] ∧ ∀ ws ∈ image, ws.length = 8
    (¬ good → exec (.xopRegister p opc nw image) s = .next s) ∧
    (good → runTotal (runStarts ((s.ucUsed p.val opc.toNat).foldl (fun l k => runTake l k 1) [(0, 32768)]) image.length) ≠ 0 →
      ∃ t base, exec (.xopRegister p opc nw image) s = .next t ∧ base + image.length ≤ 32768 ∧ t.mem = s.mem ∧
        ∀ q, q < 4 → (t.seq q).patches = if (s.seq q).part = p then
          (s.seq q).patches ++ [⟨image.zipIdx.map fun (ws, k) => (base + k, ws), [(opc.toNat, pack [(48, 16, nw.toNat), (32, 1, 1), (0, 15, base)])], []⟩]
          else (s.seq q).patches)) ∧
  (∀ (v : Word) (s : State),
    exec (.wyrst .fw v) s = .next { s with dev := { s.dev with wyReq := s.dev.wyReq || v.getLsbD 0 } } ∧
    exec (.wyrst .os v) s = .next { s with dev := { s.dev with ignored := s.dev.ignored + 1 } } ∧
    exec (.wyrst .host v) s = .next { s with dev := { s.dev with hostdrop := s.dev.hostdrop + 1 } })

/-! ### Other masters and links -/

/-- R360, R361, R370, R429, R430, R434 to R436, R442, R444, R450: an inbound request is refused, or reads and writes what its entry exports; a control core reaches memory in any mode,
registers as firmware, as the device OS or through the pages mapped for U-mode, or takes an access fault, and places what its map leaves to it (the operations that
do so are the model's form, log 103); requests of a failed link return all-ones with a record; ports train, fall and drop what they
held; the debug service writes the frame of a task whose context is on no sequencer. -/
def Obligations.LinksAndMasters : Prop :=
  (∀ (s : State) (op : InOp),
    (∀ (a : Nat), (match s.inReach (s.busEntry a (inSize op)) op with | .runs _ _ => False | _ => True) →
      exec (.inboundRequest (.bar2 a) op) s = .next (match op with
        | .write _ => { s with dev := { s.dev with indrop := s.dev.indrop + 1 } }
        | _ => { s with dev := { s.dev with replies := s.dev.replies ++ [[]] } })) ∧
    (∀ a n e l, op = .read n → s.inReach (s.busEntry a n) op = .runs e l →
      exec (.inboundRequest (.bar2 a) op) s = .next { s with dev := { s.dev with
        replies := s.dev.replies ++ [l.flatMap fun q => s.bytes q.1 q.2.2] } }) ∧
    (∀ a bs e d o, op = .write bs → s.inReach (s.busEntry a bs.length) op = .runs e [(d, o, bs.length)] → isExt d = false → s.allQuiet d bs.length = true →
      s.migBlocked d bs.length = false → s.guarded d bs.length = false →
      ∃ t, exec (.inboundRequest (.bar2 a) op) s = .next t ∧ Stored s t d bs ∧ t.dev.replies = s.dev.replies) ∧
    (∀ (part : Fin 4) (ent off : Nat) dev pod n e l, op = .read n → s.inReach (s.peerEntry part.val ent off n) op = .runs e l →
      (dev = s.dev.dev ∧ pod = s.dev.pod ∨ ∀ k, (s.part k).rhEn = false) →
      exec (.inboundRequest (.peer part ent off dev pod none) op) s = .next { s with dev := { s.dev with
        replies := s.dev.replies ++ [l.flatMap fun q => s.bytes q.1 q.2.2] } }) ∧
    (∀ off n, op = .read n → s.dev.stage < 4 →
      exec (.inboundRequest (.bar0 off) op) s = .next { s with dev := { s.dev with replies := s.dev.replies ++ [List.replicate n 0] } }) ∧
    (∀ off r, op = .read 8 → s.dev.stage = 4 → off < 0x4000000 → prsReg (0x1000000 + off) = some r → (∀ n, r ≠ .go n) →
      exec (.inboundRequest (.bar0 off) op) s = .next { s with dev := { s.dev with
        replies := s.dev.replies ++ [leBytes 8 (s.readReg r).toNat] } }) ∧
    (∀ off bs, op = .write bs → bs.length = 8 → s.dev.stage = 4 → off < 0x4000000 →
      exec (.inboundRequest (.bar0 off) op) s = exec (.privilegedRegisterWrite .host (0x1000000 + off) (.ofNat 64 (leNat bs))) s) ∧
    (∀ off n, op = .read n → off + n ≤ 0x8000 →
      exec (.inboundRequest (.bar4 off) op) s = .next { s with dev := { s.dev with replies := s.dev.replies ++ [mgets s.dev.msixTab off n] } }) ∧
    (∀ off bs, op = .write bs → off + bs.length ≤ 0x8000 →
      exec (.inboundRequest (.bar4 off) op) s = .next { s with dev := { s.dev with msixTab := mputs s.dev.msixTab off bs } })) ∧
  (∀ (hart : Fin 8) (mode : HartMode) (a l o n : Nat) (s : State), s.hartRuns a n = some [(l, o, n)] →
    let gives (v : Nat) (t : State) : Prop := tget 0 t.dev.hartVals hart.val = .ofNat 64 v
    (s.inTransit l n = false → ∃ t, exec (.controlCoreAccess ⟨hart, mode⟩ a (.load n)) s = .next t ∧ gives (s.rdNat l n) t ∧ t.mem = s.mem) ∧
    (s.inTransit l n = false → s.migBlocked l n = false → s.allQuiet l n = true → s.guarded l n = false ∨ mode = .m →
      (∀ bs : List Byte, bs.length = n → ∃ t, exec (.controlCoreAccess ⟨hart, mode⟩ a (.store bs)) s = .next t ∧ Stored s t l bs) ∧
      ∀ (op : Fin 8) (ty : ElemType) (c : Word), op ≠ 7 → n = ty.width / 8 → ∃ t, exec (.controlCoreAccess ⟨hart, mode⟩ a (.atom op ty c)) s = .next t ∧
        Stored s t l (leBytes n (atomNew op ty (s.rdNat l n) 0 c.toNat)) ∧ gives (ext64 ty (s.rdNat l n)).toNat t)) ∧
  (∀ (hart : Fin 8) (mode : HartMode) (a : Nat) (op : HartOp) (s : State),
    let faults (i : Instr) : Prop := exec i s = .next { s with dev := { s.dev with hartFaults := s.dev.hartFaults ++ [hart.val] } }
    exec (.controlCoreAccess ⟨hart, mode⟩ a .fence) s = .next s ∧
    ((match op with | .load _ | .store _ | .atom _ _ _ => True | _ => False) → s.hartRuns a (hartSize op) = none →
      ¬ (0xF000000000 ≤ a ∧ a + hartSize op ≤ 0xF100000000) → faults (.controlCoreAccess ⟨hart, mode⟩ a op)) ∧
    (s.dev.carve ≤ 2 ^ 36 → 0xF000000000 ≤ a → a + 8 ≤ 0xF100000000 →
      (mode = .u → (a - 0xF000000000) / 4096 ∉ s.dev.uPages →
        faults (.controlCoreAccess ⟨hart, mode⟩ a (.load 8)) ∧ ∀ bs : List Byte, bs.length = 8 → faults (.controlCoreAccess ⟨hart, mode⟩ a (.store bs))) ∧
      (mode ≠ .u ∨ (a - 0xF000000000) / 4096 ∈ s.dev.uPages →
        (∀ r, prsReg (a - 0xF000000000) = some r → (∀ n, r ≠ .go n) → ∃ t, exec (.controlCoreAccess ⟨hart, mode⟩ a (.load 8)) s = .next t ∧
          tget 0 t.dev.hartVals hart.val = s.readReg r ∧ t.mem = s.mem) ∧
        ∀ bs : List Byte, bs.length = 8 → exec (.controlCoreAccess ⟨hart, mode⟩ a (.store bs)) s =
          exec (.privilegedRegisterWrite (if mode = .m then .fw else .os) (a - 0xF000000000) (.ofNat 64 (leNat bs))) s)) ∧
    (∀ n, n ≤ 2 ^ 36 → exec (.controlCoreAccess ⟨hart, .m⟩ a (.carve n)) s = .next { s with dev := { s.dev with carve := n } }) ∧
    (∀ k (p : Fin 4) g, k < 2 ^ 20 → s.hasPart p.val = true → (g + 1) * 65536 ≤ s.stacks * 0xC00000000 → mode ≠ .u →
      exec (.controlCoreAccess ⟨hart, mode⟩ a (.place k p g)) s = .next { s with dev := { s.dev with
        aperture := tput none s.dev.aperture k (some (p.val * 2 ^ 24 + g)) } }) ∧
    (∀ page on, mode ≠ .u → page < 2 ^ 20 → ∃ t, exec (.controlCoreAccess ⟨hart, mode⟩ a (.grant page on)) s = .next t ∧ (page ∈ t.dev.uPages ↔ on = true) ∧
      ∀ k, k ≠ page → (k ∈ t.dev.uPages ↔ k ∈ s.dev.uPages)) ∧
    (mode ≠ .m → ∀ n, faults (.controlCoreAccess ⟨hart, mode⟩ a (.carve n))) ∧
    ∀ k p g page on, faults (.controlCoreAccess ⟨hart, .u⟩ a (.place k p g)) ∧ faults (.controlCoreAccess ⟨hart, .u⟩ a (.grant page on))) ∧
  (∀ (r : ExtReq) (s : State), (s.ext.find? fun y => y.id == r.id && y.kind == 0 && y.wr.isNone) = some r →
    ∃ t, exec (.completionTimeout r.id) s = .next t ∧ r ∉ t.ext ∧ ErrorRecord s t 8 0 2 (.ofNat 64 (r.addr - 2 ^ 64)) none ∧
      t.accs.length = s.accs.length ∧ ∀ (k : Nat) (a b : Access), s.accs[k]? = some a → t.accs[k]? = some b →
        (a.id ≠ r.id → b = a) ∧ ∀ v, a.id = r.id → a.taken = some v → ∃ z, b.taken = some z ∧
          ∀ q ∈ a.parts, isExt q.loc = true → ∀ i, i < 8 * q.n → 8 * q.lane + i < 2048 → z.getLsbD (8 * q.lane + i) = true) ∧
  (∀ (speed : BitVec 4) (width : BitVec 5) (flit : Bool) (s : State), speed.toNat ≤ 7 →
    (speed ≠ 0 → exec (.pcieLinkChange speed width flit) s = .next { s with dev := { s.dev with pciSpeed := speed, pciWidth := width, pciFlit := flit } }) ∧
    (speed = 0 → ∃ t, exec (.pcieLinkChange speed width flit) s = .next t ∧ t.dev.pciSpeed = 0 ∧ t.dev.pciWidth = 0 ∧ t.dev.pciFlit = false ∧
      ∀ y ∈ t.ext, y.kind ≠ 0)) ∧
  (∀ (k : Fin 18) (s : State),
    let x := tget SupPort.reset s.dev.sup k.val
    let mine (o : OutComet) : Bool := o.port == k.val && o.held
    (s.portUp k.val = false → exec (.replayLimit k) s = .next s) ∧
    (s.portUp k.val = true → ∃ t, exec (.replayLimit k) s = .next t ∧ (tget SupPort.reset t.dev.sup k.val).st = .train ∧
      (tget SupPort.reset t.dev.sup k.val).retr = x.retr + 1 ∧ ErrorRecord s t 8 k.val 6 0 none ∧ t.ext.length = s.ext.length) ∧
    (∀ r, x.st ≠ .train → exec (.trainEnd k r) s = .next s) ∧
    (x.st = .train →
      (x.narrow = false → ∀ q ∈ [(TrainResult.all, PortSt.up8, x.half), (.low, .up4, false), (.high, .up4, true)],
        ∃ t, exec (.trainEnd k q.1) s = .next t ∧
          tget SupPort.reset t.dev.sup k.val = { x with st := q.2.1, half := q.2.2, fails := 0, narrow := q.2.1 == .up4 } ∧
          t.comets = s.comets.map (fun (o : OutComet) => if o.port = k.val then { o with held := false } else o) ∧ t.mem = s.mem) ∧
      (x.narrow = true → ∀ r ∈ [TrainResult.all, if x.half then .high else .low], ∃ t, exec (.trainEnd k r) s = .next t ∧
        tget SupPort.reset t.dev.sup k.val = { x with st := .up4, fails := 0 } ∧
        t.comets = s.comets.map (fun (o : OutComet) => if o.port = k.val then { o with held := false } else o) ∧ t.mem = s.mem) ∧
      ∀ r, r = .fail ∨ (x.narrow = true ∧ r = if x.half then .low else .high) →
        (x.fails < 2 → exec (.trainEnd k r) s = .next { s with dev := { s.dev with
          sup := tput SupPort.reset s.dev.sup k.val { x with fails := x.fails + 1 } } }) ∧
        (2 ≤ x.fails → ∃ t, exec (.trainEnd k r) s = .next t ∧ (tget SupPort.reset t.dev.sup k.val).st = .down ∧
          t.comets = s.comets.filter (fun o => !mine o) ∧ t.dev.cometReports = s.dev.cometReports + (s.comets.filter mine).length))) ∧
  (∀ (e : Fin 8) (up : Bool) (s : State),
    let x := tget EthPort.reset s.dev.eth e.val
    let mine (o : OutComet) : Bool := o.port == 18 + e.val && o.held
    let drops (t : State) : Prop :=
      t.comets = s.comets.filter (fun o => !mine o) ∧ t.dev.cometReports = s.dev.cometReports + (s.comets.filter mine).length ∧ t.mem = s.mem
    (∃ t, exec (.connectionFailure e) s = .next t ∧ drops t) ∧
    ∃ t, exec (.ethernetLinkChange e up) s = .next t ∧ tget EthPort.reset t.dev.eth e.val = { x with up := up && x.en } ∧
      ((up && x.en) = true → t.comets = s.comets) ∧ ((up && x.en) = false → drops t)) ∧
  (∀ (clu frame off : Nat) (bs : List Byte) (g : Gang) (i : Nat) (m : Member) (s : State), clu < 12 → frame < 32 → off + bs.length ≤ 0x104000 →
    s.frameOwner clu frame = some (g, i, m) →
    ((s.ctx g.ctx).seq = none → ∃ t, exec (.debugFrameWrite clu frame off bs) s = .next t ∧ Stored s t (s.frameLoc clu frame + off) bs) ∧
    ((s.ctx g.ctx).seq ≠ none → exec (.debugFrameWrite clu frame off bs) s = .next s))

/-! ### Bring-up, firmware, management -/

/-- R425, R450, R453 to R461: a main-side reset or a power loss puts every register at its reset value and runs the boot ROM; stage 2 scrubs memory and places the frame pools; the later stages follow in turn; an update writes the other slot, verifies it and
writes its marker; keys are installed; measurements and sensors are read. -/
def Obligations.BootAndManagement : Prop :=
  (∀ (i : Instr) (s : State), i = .mainSideReset ∨ i = .powerLoss →
    let m := s.activeMarker
    let first := match m with | some (_, x) => x.slotB | none => false
    let ok1 := s.slotOk first (m.map fun q => q.2.idig)
    let ok2 := s.slotOk (!first) none
    ∃ d : Device, exec i s = .next { State.reset with
        agenda := s.agenda, free := s.free, nextId := s.nextId, mem := s.mem, tags := s.tags, dev := d } ∧
      d.stage = 1 ∧ d.mode = 0 ∧ d.lock = false ∧ d.devid = s.dev.devid ∧ d.patchChain = s.dev.patchChain ∧ d.rpcLive = s.dev.rpcmap ∧
      d.accepted = (ok1 || ok2) ∧ d.fallback = (!ok1 && ok2) ∧ d.nomark = m.isNone ∧ d.slotB = (if !ok1 && ok2 then !first else first) ∧
      (∀ k x, m = some (k, x) → d.bootseq = .ofNat 64 x.seq) ∧ (m = none → d.bootseq = 0) ∧
      s.dev.svnmin.toNat ≤ d.svnmin.toNat ∧ (s.dev.activated = false → d.svnmin = s.dev.svnmin)) ∧
  (∀ s : State,
    (s.dev.stage ≠ 1 ∨ s.dev.accepted = false → exec .bootStage2 s = .next s) ∧
    (s.dev.stage = 1 → s.dev.accepted = true → ∃ t, exec .bootStage2 s = .next t ∧ t.dev = { s.dev with stage := 2 } ∧ t.tags = [] ∧
      (∀ a, mget t.mem a = if a < norBase then 0 else mget s.mem a) ∧
      ∀ c, c < 12 → if s.cluOn c then (t.clu c).frcnt = 32 ∧ (t.clu c).frfree = BitVec.allOnes 32 ∧ (t.clu c).frbase.toNat % 65536 = 0
        else t.clu c = s.clu c) ∧
    (s.dev.stage = 2 → exec .bootStage3 s = .next { s with dev := { s.dev with stage := 3 } }) ∧
    (s.dev.stage ≠ 2 → exec .bootStage3 s = .next s) ∧
    (s.dev.stage ≠ 3 → exec .bootStage4 s = .next s) ∧
    (s.dev.stage = 3 → ∃ t, exec .bootStage4 s = .next t ∧ t.dev.stage = 4 ∧ ∀ k, k < 18 →
      let x := tget SupPort.reset s.dev.sup k
      if x.en then (tget SupPort.reset t.dev.sup k).st = .train ∧ (tget SupPort.reset t.dev.sup k).retr = x.retr + 1
      else tget SupPort.reset t.dev.sup k = x)) ∧
  (∀ s : State,
    let answers (i : Instr) (d : Device) (n : Nat) : Prop := exec i s = .next { s with dev := { d with pldm := d.pldm ++ [n] } }
    (s.dev.upd ≠ .idle → answers .requestUpdate s.dev 0x81) ∧
    (s.dev.upd = .idle → answers .requestUpdate { s.dev with upd := .writing, updLen := 0 } 0) ∧
    (s.dev.upd ≠ .writing → answers .transferComplete s.dev 0x80) ∧
    (s.dev.upd = .writing → answers .transferComplete { s.dev with upd := .written } 0) ∧
    (s.dev.upd ≠ .written → answers .verifyComplete s.dev 0x80) ∧
    (s.dev.upd = .written → s.slotOk (!s.dev.slotB) none = false → answers .verifyComplete { s.dev with upd := .idle } 1) ∧
    (s.dev.upd = .written → s.slotOk (!s.dev.slotB) none = true →
      let l := markerLoc s.markerToWrite
      ∃ t, exec .verifyComplete s = .next t ∧ t.dev = { s.dev with upd := .verified, pldm := s.dev.pldm ++ [0] } ∧
        ∀ a, mget t.mem a = if l ≤ a ∧ a < l + 0x1000 then 0xFF else mget s.mem a) ∧
    (s.dev.upd ≠ .verified → answers .applyComplete s.dev 0x80) ∧
    (s.dev.upd = .verified →
      let b := !s.dev.slotB
      let body := leBytes 4 0x314B4D41 ++ leBytes 2 1 ++ [if b then 1 else 0, 0] ++ leBytes 8 s.nextSeq ++ leBytes 4 (s.slotHdr b).svn.toNat ++
        leBytes 4 0 ++ leBytes 32 (s.hdrDigest b).toNat ++ leBytes 8 0
      ∃ t, exec .applyComplete s = .next t ∧ t.dev = { s.dev with upd := .idle, pendReset := true, pldm := s.dev.pldm ++ [0] } ∧
        Stored s t (markerLoc s.markerToWrite) (body ++ Config.markerSign (Config.sha3 body))) ∧
    (∀ raise : Bool, (s.dev.pendReset = false → answers (.activateFirmware raise) s.dev 0x80) ∧
      (s.dev.pendReset = true → answers (.activateFirmware raise) { s.dev with activated := true, raiseReq := raise } 0)) ∧
    ∀ (off : Nat) (bs : List Byte),
      let l := slotLoc (!s.dev.slotB)
      (s.dev.upd ≠ .writing ∨ 1024 < bs.length ∨ 0x1800000 < off + bs.length → exec (.firmwareData off bs) s = .next s) ∧
      (s.dev.upd = .writing → bs.length ≤ 1024 → off + bs.length ≤ 0x1800000 → ∃ t, exec (.firmwareData off bs) s = .next t ∧
        t.dev = { s.dev with updLen := max s.dev.updLen (off + bs.length) } ∧
        ∀ a, mget t.mem a = if l + off ≤ a ∧ a < l + off + bs.length then bs.getD (a - (l + off)) 0
          else if s.dev.updLen = 0 ∧ l ≤ a ∧ a < l + 0x1800000 then 0xFF else mget s.mem a)) ∧
  (∀ (i : Fin 8) (key : Option (List Byte)) (s : State),
    ∃ t, exec (.imageKeyInstall i key) s = .next t ∧ t.dev = s.dev ∧
      ∀ a, mget t.mem a = if keyLoc i.val ≤ a ∧ a < keyLoc i.val + 8192 then
        (match key with
          | some k => if k.length = 1312 then (if a = keyLoc i.val then 1 else if keyLoc i.val + 16 ≤ a ∧ a < keyLoc i.val + 1328 then
              k.getD (a - (keyLoc i.val + 16)) 0 else 0xFF) else 0xFF
          | none => 0xFF) else mget s.mem a) ∧
  (∀ (i : Nat) (s : State),
    (i = 0 ∨ 10 < i → exec (.spdmRequest i) s = .next { s with dev := { s.dev with spdm := s.dev.spdm ++ [[]] } }) ∧
    (2 ≤ i → i ≤ 7 →
      let m := leBytes 32 (tget 0 s.dev.meas i).toNat
      exec (.spdmRequest i) s = .next { s with dev := { s.dev with spdm := s.dev.spdm ++ [m ++ Config.identitySign (Config.sha3 m)] } })) ∧
  (∀ (x : Sensor) (s : State),
    let reads (v : Option Word) : Prop :=
      exec (.getSensorReading x) s = .next { s with free := s.free + 1, dev := { s.dev with sensorOut := s.dev.sensorOut ++ [v] } }
    (s.dev.stage ≠ 4 → x ≠ .ioTemp → x ≠ .power → x ≠ .boot → reads none) ∧
    (s.dev.stage = 4 ∨ x = .ioTemp ∨ x = .power ∨ x = .boot → ∃ v, reads (some v) ∧
      (x = .life → v = s.dev.eolMonths.setWidth 64) ∧ (x = .cecnt → v = s.dev.cecnt.setWidth 64) ∧ (x = .uecnt → v = s.dev.uecnt.setWidth 64)))

/-! ### Predicates, traps, steps, encodings and invariants -/

/-- R134: a slot whose scalar predicate is false has no effect: it changes no register, queue, token or byte, whatever the instruction is. -/
def Obligations.PredicatedOff : Prop :=
  ∀ (i : Instr) (s : State) (pr : Pred), scalarPred i = some pr → s.enabled pr = false → exec i s = .next (same s)

/-- R21, R376, R416 to R418: a trap of a core's task whose context is live leaves one record of the trap on the trap list of the context's partition,
puts the context into STOPPING with that end, and stops every member of the gang; nothing else changes, memory least of all. Where the context is
already stopping only the gang stops. On a sequencer the record names the running context and no gang, and of the descriptor and the OID what the trap does not name comes
from tdsc. -/
def Obligations.TrapEntry : Prop :=
  (∀ (s : State) (x : TrapInfo) (gk : Nat) (g : Gang),
    isSeq s.focus.eng = false → s.fe.gang = some gk → s.gangOf gk = some g →
    let c := s.ctx g.ctx
    let stopped := s.engines.map fun (q : Nat × Engine) => if q.2.gang = some gk then (q.1, { q.2 with stopped := true }) else q
    let trapped := s.gangs.map fun (y : Gang) => if y.gk = gk then { y with trapped := true } else y
    (c.st.live = true → ∃ w, TrapRecordOf s g s.fe.member s.focus.sec s.focus.eng x w ∧
      s.takeTrap x =
        { s with
          slot := .trap x
          parts := tput .reset s.parts c.part.val { s.part c.part.val with traps := (s.part c.part.val).traps ++ [⟨1, g.ctx, w⟩] }
          ctxs := tput .reset s.ctxs g.ctx { c with st := .stopping, ending := some ⟨1, .ofNat 16 x.cause⟩, awaits := .none, trapQueued := true }
          gangs := trapped
          engines := stopped }) ∧
    (c.st.live = false → s.takeTrap x = { s with slot := .trap x, gangs := trapped, engines := stopped })) ∧
  (∀ (s : State) (x : TrapInfo) (q c : Nat), OnSequencer s q c → (s.ctx c).st.live = true →
    ∃ w : List Word, w.length = 7 ∧ fld (w.getD 0 0) 48 16 = x.cause % 2 ^ 16 ∧ fld (w.getD 0 0) 32 16 = x.detail % 2 ^ 16 ∧
      fld (w.getD 0 0) 22 2 = q ∧ fld (w.getD 0 0) 20 2 = 0 ∧ fld (w.getD 0 0) 16 3 = 1 ∧ fld (w.getD 0 0) 0 10 = c ∧
      fld (w.getD 1 0) 0 24 = (s.ctx c).bpc % 2 ^ 24 ∧ w.getD 6 0 = s.clk ∧
      (let n := (s.eng (48 + q)).tdsc.toNat
       fld (w.getD 0 0) 19 1 = (x.oid.isSome || x.desc.isSome || n ≠ 0).toNat ∧ fld (w.getD 2 0) 32 20 = x.oid.getD (n / 2 ^ 16) % 2 ^ 20 ∧
       fld (w.getD 3 0) 48 16 = x.desc.getD (n % 2 ^ 16) % 2 ^ 16) ∧
      s.takeTrap x =
        { s with
          slot := .trap x
          parts := tput .reset s.parts (s.ctx c).part.val
            { s.part (s.ctx c).part.val with traps := (s.part (s.ctx c).part.val).traps ++ [⟨1, c, w⟩] }
          ctxs := tput .reset s.ctxs c
            { s.ctx c with st := .stopping, ending := some ⟨1, .ofNat 16 x.cause⟩, awaits := .none, trapQueued := true } })

/-- R13, R362, R374, R415, R427, R445, R450: what each register of the privileged space reads right after reset, that no task runs, that every context is FREE,
that nothing is in flight, and that memory has its canonical form. The values of DEVID's identity bits and of registers without a stated reset value are the model's choice (log entries 6, 9 and 10). -/
def Obligations.ResetState : Prop :=
  (∀ (o : Nat) (r : PReg), prsReg o = some r → State.reset.readReg r = match r with
    | .devid => 0xB3A79E4800000FFF
    | .clctl _ | .bootst | .supctl _ | .ethctl _ => 1
    | .ctxst _ => 2 ^ 41
    | .qcfg _ => 0x40
    | .pdeadl _ => 200
    | .retrymax => 1000
    | .patctl => 0x801
    | .pcictl => 0x3200
    | .otsync _ => 2 ^ 63
    | .hscfg _ => 0x800
    | .rhcfg _ => 0xFFFF0000
    | _ => 0) ∧
  (∀ e, State.reset.eng e = .reset) ∧ (∀ c, (State.reset.ctx c).st = .free) ∧ (∀ q, (State.reset.seq q).ctx = none) ∧
  State.reset.gangs = [] ∧ State.reset.accs = [] ∧ State.reset.pends = [] ∧ State.reset.banks = [] ∧ State.reset.copies = [] ∧
  State.reset.clk = 0 ∧ MemInv State.reset

/-- R126, R127, R144, R146, R164, R246, R277, R281, R327, R417: a step at a turn of a sequencer that is at an operator boundary first adopts the patches that it has been given. Where the
graph words decode to i, with no routine in the operator table, the step is exec of i with those words latched; with a routine it enters that routine, an operand outside its
range trapping first; a bound XOP enters its own. A step at a turn of a core's stream, or of a sequencer in a routine, whose bundle decodes runs its
slots in ascending position on the state with due results committed, and the PC, loop stack and cycle move on; where one stalls nothing has changed, and where a slot traps,
and no slot after it stalls, the state is the one before the bundle with the trap taken; a plane set may not be live at an IB bundle, at which a task to be saved stops. A step
whose agenda names a step of the device itself is exec of that step, after what its time has ended. -/
def Obligations.StepRunsTheDecodedInstruction : Prop :=
  (∀ (s s' : State) (q c : Nat), q < 4 → Turn s s' (48 + q) false → (s'.seq q).ctx = some c →
    (s'.ctx c).st = .running → s'.fs.ended = false → s'.fs.lastClk ≠ some s'.clk.toNat → s'.switchDue q = false → (s'.seq q).routine ≠ .micro →
    let u := if s'.atBoundary q then s'.adoptAll q else s'
    let ws := u.codeWords c (u.ctx c).bpc 16
    let g := GWord.ofNat (ws.getD 0 0)
    let entry := tget 0 (u.seq q).opTable g.opc
    let z : Seq := { u.seq q with words := (ws.take (1 + g.nw)).map (BitVec.ofNat 32), fresh := false }
    let v : State := { u with seqs := tput .reset u.seqs q z }
    let enters : Prop := ∃ t, step s = .next t ∧ (t.eng (48 + q)).prim.pc = .ofNat 64 (fld entry 0 15 * 64) ∧
      (t.seq q).routine = .micro ∧ (t.seq q).words = z.words ∧ t.mem = u.mem ∧ t.ctxs = u.ctxs ∧ t.gangs = u.gangs
    (∀ i rest, decodeGraph ws = .ok (i, rest) →
      (entry.getLsbD 32 = false → step s = exec i v) ∧
      (entry.getLsbD 32 = true → v.operandsIn c ((ws.drop 1).take g.nw) = true → enters) ∧
      (entry.getLsbD 32 = true → v.operandsIn c ((ws.drop 1).take g.nw) = false → step s = .next (v.takeTrap (trapOf 0x42 0)))) ∧
    (0xC0 ≤ g.opc → g.opc < 0xF0 → entry.getLsbD 32 = true → 1 + g.nw ≤ ws.length → (fld entry 48 16).testBit g.nw = true → enters)) ∧
  (∀ (s s' : State) (e : Nat) (sec : Bool) (ws : List Nat) (b : Bundle), Turn s s' e sec → s'.fetchBundle e s'.fs.pc.toNat = .ok ws →
    decodeBundle s'.kind s'.fs.depth ws = .ok b → Issues s' b →
    let t0 := s'.beginBundle
    (t0.loopFault b = true → step s = .next (s'.takeTrap (trapOf 0x09 0))) ∧
    (t0.loopFault b = false → t0.fs.mayIssue b.waitm = false → step s = .next { s' with slot := .stall }) ∧
    (t0.loopFault b = false → t0.fs.mayIssue b.waitm = true →
      (∀ t1 t2, SlotsRun b.tags b.slots t0 t1 → (if b.lend then exec .lend t1 = .next t2 ∧ t2.slot = .ok else t2 = t1) → t2.slot = .ok →
        let saves := isSeq e = false ∧ b.ib = true ∧ (t2.fe.ps0.isSome || t2.fe.ps1.isSome) = true
        (saves → step s = .next (s'.takeTrap (trapOf 0x15 6))) ∧
        (¬saves → let t := t2.endBundle b
          step s = .next (if b.ib = true ∧ t.fe.saveReq = true ∧ t.fe.stat = .running then
            { t with engines := tput .reset t.engines t.focus.eng { t.fe with stat := .saving } } else t))) ∧
      (∀ (l1 l2 : List (Nat × Instr)) (p : Nat) (i : Instr) (u v : State), b.slots = l1 ++ (p, i) :: l2 → SlotsRun b.tags l1 t0 u →
        u.fs.stageOn (b.tags.getD p 0) = true → exec i { u with pos := p } = .next v →
        (v.slot = .stall → step s = .next { s' with slot := .stall }) ∧
        (∀ x w, v.slot = .trap x → runSlots b.tags l2 u = .next w →
          (w.slot = .stall → step s = .next { s' with slot := .stall }) ∧
          (w.slot = .ok ∨ (∃ y, w.slot = .trap y) → step s = .next (s'.takeTrap (hazardDetail s' b x))))))) ∧
  (∀ (s : State) (dt : Nat) (i : Instr) (rest : List Move), s.agenda = ⟨dt, .event i⟩ :: rest →
    let s' := ({ s with agenda := rest, clk := s.clk + .ofNat 64 dt } : State).expire
    step s = if encode i = .none ∧ i ≠ .lend then exec i s' else .next s')

/-- Every step answers a next state but one whose turn is that of an engine that the device does not have or that is disabled (R1): that one stops by
name, and no step is refused. -/
def Obligations.StepStopsOnlyWithoutAnEngine : Prop :=
  (∀ s r, step s ≠ .refused r) ∧
  ∀ s e, step s = .fault (.noSuchEngine e) ↔
    s.engineOn e = false ∧ ((s.agenda = [] ∧ s.focus.eng = e) ∨ ∃ dt rest sec, s.agenda = ⟨dt, .issue e sec⟩ :: rest)

/-- The words that the spec writes out for its examples decode to the instructions that they stand for: R149's bundle, the LOOP of R172's example, LD, VFMA, VSEL, MMA, XBOP and XCOMET words, and graph words of SHOP, TSETD and HALT. -/
def Obligations.WordsDecode : Prop :=
  decodeBundle .prim 0 [0x0000000000400211, 0x01300605C0000000, 0x3E8, 0, 0x01C0080410000000, 0, 0, 0] =
    .ok { sec := false, ib := false, lend := false, waitm := 4, tags := [0, 0, 0, 0, 0, 0, 0], used := [0, 1, 3],
          slots := [(0, .add ⟨.i64, false, .reg 3, .reg 1, .long 1000, .always⟩),
            (3, .vadd ⟨.f32, .rne, false, .reg 4, .reg 1, .reg 2, .always⟩)] } ∧
  decodeSlot .prim .s 0x2500001400000002 none = .ok (.loop (.reg 5) 2) ∧
  decodeSlot .prim .a 0x0463080828002C80 none = .ok (.ld ⟨.n32, 3, .reg 4, 2, .reg 5, .aq, .dev, 1, 0, .always⟩) ∧
  decodeSlot .prim .v 0x04C1280500390000 none = .ok (.vfma ⟨.f32, .rz, false, .reg 20, .reg 1, .que 0, .reg 3, .on false 2⟩) ∧
  decodeSlot .prim .v 0x1120139D080A0000 none = .ok (.vsel ⟨.i32, .reg 9, .const 39, .que 1, false, 4⟩) ∧
  decodeSlot .prim .m 0x0180060828700000 none = .ok (.mma ⟨.f8e4, false, 3, 2, 5, .reg 7, .always⟩) ∧
  decodeSlot .prim .x 0x0330001030200000 none = .ok (.badd ⟨.f32, 0, 4, .reg 6, 2, 0, .always⟩) ∧
  decodeSlot .prim .x 0x0D0000203C000080 none = .ok (.xcomet ⟨0, 8, 7, .const 0, 1, .always⟩) ∧
  decodeGraph [0x11300000, 0x40000001, 0x40000001, 0x80000001] = .ok (.shop .add 1 (.z 1) (.imm 1), []) ∧
  decodeGraph [0x1A310000, 4, 0x80000008, 0x40000001] = .ok (.tsetd true 4 [.imm 8, .z 1], []) ∧
  decodeGraph [0x01000000] = .ok (.halt 0, [])

/-- R126 to R152, R173 to R197, R205, R230, R250, R267, R280 to R282, R301: decoding the encoding of a well-formed instruction gives the instruction, with
every operand at every value that it admits. A slot instruction fits its word where at most one operand is a long immediate (R131); graph instructions
always fit; LEND and the device's own steps have no encoding. -/
def Obligations.DecodeEncode : Prop :=
  ∀ (k : Kind) (i : Instr), i.wf k = true → (encode i).fits = true → decodeEnc k (encode i) = some i

/-- Every step keeps memory and the capability tags in their canonical form: bytes strictly rising with none equal to what an unlisted location reads as, so that
equal memories are equal data. -/
def Obligations.StepsKeepMemoryCanonical : Prop :=
  ∀ s t : State, MemInv s → step s = .next t → MemInv t
end

