-- ==== Sys2Proof/Laws/Slots.lean ====
section
/-!
SUPPORT. What the shared operations of the slot instructions do: one lemma each, which the proofs about instructions cite.
-/
namespace Sys2Proof.Machine

open Sys2Proof.Safety

/-! ### Reads do not see the slot status -/

@[simp] theorem State.enabled_slot (s : State) (x : SlotSt) (p : Pred) : ({ s with slot := x } : State).enabled p = s.enabled p := rfl
@[simp] theorem State.active_slot (s : State) (x : SlotSt) (p : Pred) : ({ s with slot := x } : State).active p = s.active p := rfl
@[simp] theorem State.g?_slot (s : State) (x : SlotSt) (t : ElemType) (p : GSrc) :
    ({ s with slot := x } : State).g? t p = s.g? t p := rfl
@[simp] theorem State.pred_slot (s : State) (x : SlotSt) (k : Nat) : ({ s with slot := x } : State).pred k = s.pred k := rfl
@[simp] theorem State.h_slot (s : State) (x : SlotSt) (n : Fin 16) : ({ s with slot := x } : State).h n = s.h n := rfl
@[simp] theorem State.fs_slot (s : State) (x : SlotSt) : ({ s with slot := x } : State).fs = s.fs := rfl
@[simp] theorem State.fe_slot (s : State) (x : SlotSt) : ({ s with slot := x } : State).fe = s.fe := rfl
@[simp] theorem State.bind_slot (s : State) (x : SlotSt) (k : Nat) : ({ s with slot := x } : State).bind k = s.bind k := rfl

/-! ### Running a slot -/

theorem slotRun_congr {f g : State → State} {s : State} (h : f { s with slot := .ok } = g { s with slot := .ok }) :
    slotRun f s = slotRun g s := by
  unfold slotRun
  rw [h]

/-- A slot that neither stalls nor traps has its effect. -/
theorem slotRun_ok {f : State → State} {s : State} (h : (f { s with slot := .ok }).slot = .ok) :
    slotRun f s = f { s with slot := .ok } := by
  unfold slotRun
  simp only [h]

/-- A slot that stalls leaves nothing but its status. -/
theorem slotRun_stall {f : State → State} {s : State} (h : (f { s with slot := .ok }).slot = .stall) : slotRun f s = s.stall := by
  unfold slotRun
  simp only [h]

/-- A slot that traps has no effect of its own: the trap is taken. -/
theorem slotRun_trap {f : State → State} {s : State} {x : TrapInfo} (h : (f { s with slot := .ok }).slot = .trap x) :
    slotRun f s = s.takeTrap x := by
  unfold slotRun
  simp only [h]

/-- A predicated slot whose predicate is set. -/
theorem slotP_on {pr : Pred} {f : State → State} {s : State} (he : s.enabled pr = true) :
    slotP pr f s = .next (slotRun f s) := by
  unfold slotP
  congr 1
  exact slotRun_congr (by simp [he])

/-- A predicated slot whose predicate is clear does nothing. -/
theorem slotP_off {pr : Pred} {f : State → State} {s : State} (he : s.enabled pr = false) :
    slotP pr f s = .next (same s) := by
  unfold slotP
  rw [slotRun_ok (by simp [he])]
  simp [he, same]

/-! ### Reading a g source -/

theorem withG_some {s : State} {t : ElemType} {a : GSrc} {v : Word} {k : Word → State} (h : s.g? t a = some v) :
    withG s t a k = k v := by simp [withG, h]

theorem withG_none {s : State} {t : ElemType} {a : GSrc} {k : Word → State} (h : s.g? t a = none) :
    withG s t a k = s.stall := by simp [withG, h]

/-! ### Changes of the stream in focus -/

theorem modFe_ok (s : State) (f : Engine → Engine) : ({ s with slot := .ok } : State).modFe f = onEngine s f := rfl
theorem modFs_ok (s : State) (f : Stream → Stream) : ({ s with slot := .ok } : State).modFs f = onStream s f := rfl

@[simp] theorem onStream_slot (s : State) (f : Stream → Stream) : (onStream s f).slot = .ok := rfl
@[simp] theorem onEngine_slot (s : State) (f : Engine → Engine) : (onEngine s f).slot = .ok := rfl

/-- A change of the stream in focus runs as a slot. -/
theorem slotRun_modFs (s : State) (f : Stream → Stream) : slotRun (fun s => s.modFs f) s = onStream s f := by
  rw [slotRun_ok (by rfl)]
  rfl

theorem putG_ok (s : State) (d : GDst) (L : Nat) (v : Word) (fl : Flags) :
    putG { s with slot := .ok } d L v fl = gResult s d L v fl := by
  simp only [putG, State.reserve, State.commit, State.modFs_modFs]
  rw [modFs_ok]
  cases d <;> rfl

/-- A g result runs as a slot. -/
theorem slotRun_putG (s : State) (d : GDst) (L : Nat) (v : Word) (fl : Flags) :
    slotRun (fun s => putG s d L v fl) s = gResult s d L v fl := by
  rw [slotRun_ok (by rw [putG_ok]; rfl), putG_ok]

theorem slotRun_putH (s : State) (d : Fin 16) (L : Nat) (h : Handle) : slotRun (fun s => putH s d L h) s = hResult s d L h :=
  slotRun_modFs ..

theorem slotRun_putP (s : State) (d : Fin 8) (L : Nat) (v : PredBits) (fl : Flags) :
    slotRun (fun s => putP s d L v fl) s = pResult s d L v fl := slotRun_modFs ..

/-! ### The S slot's shared forms -/

/-- A two-source operation: its result, latency and flags. -/
theorem sbin_next {x : SBin} {tb : ElemType} {L : Nat} {f : Nat → Nat → Nat × Flags} {s : State} {a b : Word}
    (he : s.enabled x.pr = true) (ha : s.g? x.t x.a = some a) (hb : s.g? tb x.b = some b) :
    sbin x tb L f s = .next (gResult s x.d L (ext64 x.t (f a.toNat b.toNat).1) (f a.toNat b.toNat).2) := by
  unfold sbin
  rw [slotP_on he, ← slotRun_putG]
  congr 1
  exact slotRun_congr (by simp [withG, ha, hb])

/-- A one-source operation. -/
theorem sun_next {x : SUn} {f : Nat → Nat} {s : State} {a : Word} (he : s.enabled x.pr = true) (ha : s.g? x.t x.a = some a) :
    sun x f s = .next (gResult s x.d 1 (ext64 x.t (f (a.toNat % 2 ^ x.t.width))) 0) := by
  unfold sun
  rw [slotP_on he, ← slotRun_putG]
  congr 1
  exact slotRun_congr (by simp [withG, ha])

/-- A predicate operation. -/
theorem pbin_next (x : PBin) (f : PredBits → PredBits → PredBits) (s : State) :
    pbin x f s = .next (pResult s x.d 1 (f (s.pred x.a.val) (s.pred x.b.val)) 0) := by
  unfold pbin
  rw [← slotRun_putP]
  congr 1

/-! ### Integer results (R38, R151) -/

theorem rdInt_eq (t : ElemType) (v : Nat) :
    rdInt t v = if t.isSigned = true ∧ 2 ^ (t.width - 1) ≤ v % 2 ^ t.width then ((v % 2 ^ t.width : Nat) : Int) - 2 ^ t.width
      else (v % 2 ^ t.width : Nat) := by simp [rdInt]

/-- The W bits of a wrapped value read back as the value of t's range that is congruent to it. -/
theorem rdInt_wrapInt (t : ElemType) (ht : t.isInt = true) (v : Int) :
    minInt t ≤ rdInt t (wrapInt t v) ∧ rdInt t (wrapInt t v) ≤ maxInt t ∧ (v - rdInt t (wrapInt t v)) % 2 ^ t.width = 0 := by
  rw [rdInt_eq]
  cases t <;> first | (simp [ElemType.isInt] at ht; done) | skip
  all_goals
    simp only [wrapInt, minInt, maxInt, ElemType.width, ElemType.isSigned, true_and, false_and, if_true, if_false,
      Bool.false_eq_true, Nat.reduceSub, Nat.reducePow, Int.reducePow]
    try split
  all_goals refine ⟨?_, ?_, ?_⟩ <;> omega

/-- A value read in an integer type lies in its range. -/
theorem rdInt_range (t : ElemType) (ht : t.isInt = true) (v : Nat) : minInt t ≤ rdInt t v ∧ rdInt t v ≤ maxInt t := by
  rw [rdInt_eq]
  cases t <;> first | (simp [ElemType.isInt] at ht; done) | skip
  all_goals
    simp only [minInt, maxInt, ElemType.width, ElemType.isSigned, true_and, false_and, if_true, if_false,
      Bool.false_eq_true, Nat.reduceSub, Nat.reducePow, Int.reducePow]
    try split
  all_goals refine ⟨?_, ?_⟩ <;> omega

theorem eq_of_range {t : ElemType} {r v : Int} (h1 : minInt t ≤ r) (h2 : r ≤ maxInt t) (h3 : (v - r) % 2 ^ t.width = 0)
    (h4 : minInt t ≤ v) (h5 : v ≤ maxInt t) : r = v := by
  cases t <;> simp only [minInt, maxInt, ElemType.width, ElemType.isSigned] at * <;> simp at * <;> omega

end Sys2Proof.Machine
end

