-- ==== Sys2Proof/Laws/Access.lean ====
section
/-!
SUPPORT. Translation reads memory and the contexts alone, so that changes elsewhere leave it; what the checks of a handle say.
-/
namespace Sys2Proof.Machine

open Sys2Proof.Safety

/-! ### Translation depends on memory, the contexts and the context in hand -/

variable {s t : State}

theorem State.rd64_congr (hm : s.mem = t.mem) (l : Nat) : s.rd64 l = t.rd64 l := by
  simp only [State.rd64, State.rdNat, State.bytes, hm]

theorem State.ctx_congr (hc : s.ctxs = t.ctxs) (c : Nat) : s.ctx c = t.ctx c := by simp only [State.ctx, hc]

theorem State.objEnt_congr (hm : s.mem = t.mem) (hc : s.ctxs = t.ctxs) (c oid : Nat) : s.objEnt c oid = t.objEnt c oid := by
  have h1 : s.leafLoc c oid = t.leafLoc c oid := by
    simp only [State.leafLoc, State.rd64_congr hm, State.ctx_congr hc]
  simp only [State.objEnt, h1, State.rd64_congr hm, State.ctx_congr hc]

theorem State.readExts_congr (hm : s.mem = t.mem) : ∀ (n l : Nat), s.readExts l n = t.readExts l n
  | 0, _ => rfl
  | n + 1, l => by simp only [State.readExts, State.rd64_congr hm, State.readExts_congr hm n]

theorem State.extsOf_congr (hm : s.mem = t.mem) (hc : s.ctxs = t.ctxs) (c oid : Nat) (x : ObjEnt) :
    s.extsOf c oid x = t.extsOf c oid x := by
  simp only [State.extsOf, State.ctx_congr hc, State.readExts_congr hm]

theorem State.placed_congr (hd : s.dev = t.dev) (p l : Nat) : s.placed p l = t.placed p l := by
  unfold State.placed State.owns State.stacks State.sbmPart
  rw [hd]

theorem State.placeIn_congr (hm : s.mem = t.mem) (hc : s.ctxs = t.ctxs) (hd : s.dev = t.dev) (c oid : Nat) (x : ObjEnt) (o : Nat) :
    s.placeIn c oid x o = t.placeIn c oid x o := by
  have h1 : s.resSet c x.layer = t.resSet c x.layer := by
    simp only [State.resSet, State.resWord, State.resLoc, State.rd64_congr hm, State.ctx_congr hc]
  unfold State.placeIn
  simp only [State.extsOf_congr hm hc, h1, State.ctx_congr hc, State.placed_congr hd]

theorem State.place_congr (hm : s.mem = t.mem) (hc : s.ctxs = t.ctxs) (hd : s.dev = t.dev) (c oid : Nat) (x : ObjEnt) (o : Nat) :
    s.place c oid x o = t.place c oid x o := by
  have h1 : s.winEnt c x.base = t.winEnt c x.base := by
    simp only [State.winEnt, State.rd64_congr hm, State.ctx_congr hc]
  have h2 : ∀ p k, s.export? p k = t.export? p k := by
    intro p k
    have : ∀ c, s.expEnt c k = t.expEnt c k := by
      intro c; simp only [State.expEnt, State.rd64_congr hm, State.ctx_congr hc]
    simp only [State.export?, hc, State.ctx_congr hc, this]
  simp only [State.place, State.placeIn_congr hm hc hd, h1, h2, State.objEnt_congr hm hc]

theorem State.placeParts_congr (hm : s.mem = t.mem) (hc : s.ctxs = t.ctxs) (hd : s.dev = t.dev) (c oid : Nat) (x : ObjEnt) :
    ∀ ps : List Part, s.placeParts c oid x ps = t.placeParts c oid x ps
  | [] => rfl
  | p :: ps => by simp only [State.placeParts, State.place_congr hm hc hd, State.placeParts_congr hm hc hd c oid x ps]

/-! ### Handle checks (R74, R175) -/

theorem Handle.check_none_iff (h : Handle) (k : Nat) (a : Int) (n : Nat) : h.check k a n = none ↔ Permits h k a n := by
  unfold Handle.check Permits
  cases h.tag <;> cases h.has k <;> simp

theorem elemsCheck_none_iff (h : Handle) (k : Nat) (al : Bool) (l : List (Int × Nat)) :
    elemsCheck h k al l = none ↔ (∀ q ∈ l, Permits h k q.1 q.2) ∧ (al = true → ∀ q ∈ l, q.1 % q.2 = 0) := by
  have h1 : (l.findSome? fun q => h.check k q.1 q.2) = none ↔ ∀ q ∈ l, Permits h k q.1 q.2 := by
    simp only [List.findSome?_eq_none_iff, Handle.check_none_iff]
  unfold elemsCheck
  cases h2 : l.findSome? (fun q => h.check k q.1 q.2) with
  | some c =>
    simp only [reduceCtorEq, false_iff]
    intro hh
    rw [h1.2 hh.1] at h2
    cases h2
  | none =>
    have h3 := h1.1 h2
    cases al
    · simpa using fun a b hq => h3 (a, b) hq
    · by_cases h4 : ∀ q ∈ l, q.1 % q.2 = 0
      · simp only [Bool.true_and]
        rw [if_neg (by simpa using fun a b hq => h4 (a, b) hq)]
        exact ⟨fun _ => ⟨h3, fun _ => h4⟩, fun _ => rfl⟩
      · simp only [Bool.true_and]
        have h5 : l.any (fun q => decide (q.1 % q.2 ≠ 0)) = true := by
          simp only [List.any_eq_true, decide_eq_true_eq]
          exact Classical.byContradiction fun h => h4 fun q hq => Classical.byContradiction fun h' => h ⟨q, hq, h'⟩
        rw [if_pos h5]
        exact ⟨fun h => by simp at h, fun h => absurd (h.2 trivial) h4⟩

/-! ### Admission of an access whose pieces are all resident -/

theorem firstFault_at (l : List (Part × Nat)) : firstFault (l.map fun q => (q.1, Place.at_ q.2)) = none := by
  simp only [firstFault, List.findSome?_eq_none_iff, List.mem_map]
  rintro _ ⟨q, -, rfl⟩
  rfl

theorem firstAbsent_at (l : List (Part × Nat)) : firstAbsent (l.map fun q => (q.1, Place.at_ q.2)) = none := by
  simp only [firstAbsent, List.findSome?_eq_none_iff, List.mem_map]
  rintro _ ⟨q, -, rfl⟩
  rfl

/-- A port whose sampling is off samples nothing. -/
theorem State.sample_off {s : State} {c : Nat} (h : (s.clu c).hscfg.getLsbD 0 = false) (typ : Nat) (sec : Bool) (core ctx oid : Nat) :
    ∀ (l : List (Nat × Nat)) (seen : List Nat), s.sample c typ sec core ctx oid seen l = s
  | [], _ => rfl
  | (o, a) :: l, seen => by
    have h1 : s.sampleLine c typ sec core ctx oid o a = s := by
      simp only [State.sampleLine, h, Bool.not_false, if_true]
    simp only [State.sample, h1, State.sample_off h typ sec core ctx oid l, ite_self]

/-- Where the tag of an LDH or STH lies. -/
def tagPlace (s : State) (r : Req) (x : ObjEnt) : Option (Nat × Bool) :=
  match r.tagQ with
  | none => none
  | some (a, t) => match s.place s.fctx r.h.oid x a with | .at_ q => some (q, t) | _ => none

/-- An admitted access is in flight and changes nothing else. -/
theorem State.access_admitted {s : State} {id : Nat} {r : Req} {x : ObjEnt} {ps : List Part} (hA : Admits s r.h r.parts x ps)
    (hs : spaceFault s.focus.eng r x = none)
    (hb : (s.exportBars s.fctx r.h.oid (!r.kind.isAtom) && (r.kind.isAtom || r.kind == .store)) = false) :
    s.access id r =
      { s with accs := s.accs ++ [{ sent s r.kind r.cls r.ann r.scope r.t r.h x ps (tagPlace s r x) r.dst r.tok r.far with id := id }] } := by
  obtain ⟨h0, h1, h2, -, locs, h4, rfl⟩ := hA
  have hc : ¬ (r.h.oid = cqOid ∧ (!isSeq s.focus.eng) = true) := by
    rcases h2 with h2 | h2
    · simp [h2]
    · simp [h2.1]
  unfold State.access
  rw [if_neg h0, if_neg hc]
  unfold State.admitReq
  simp only [h1, hs, hb, h4, firstFault_at, firstAbsent_at, Bool.false_eq_true, if_false]
  rcases h2 with h2 | h2
  · simp only [h2, if_true]
    simp only [List.map_map]
    rfl
  · by_cases hq : isSeq s.focus.eng = true
    · simp only [hq, if_true]
      simp only [List.map_map]
      rfl
    · simp only [if_neg hq, State.sample_off h2.2.1]
      simp only [List.map_map]
      rfl

/-- Admission sees memory, contexts, clusters, the focus and the context of the stream alone. -/
theorem Admits.congr {s t : State} {h : Handle} {parts : List Part} {x : ObjEnt} {ps : List Part} (hA : Admits s h parts x ps)
    (hm : s.mem = t.mem) (hc : s.ctxs = t.ctxs) (hd : s.dev = t.dev) (hk : s.clusters = t.clusters) (hf : s.focus = t.focus) (hx : s.fctx = t.fctx) :
    Admits t h parts x ps := by
  obtain ⟨h0, h1, h2, h3, locs, h4, h5⟩ := hA
  have hclu : ∀ c, s.clu c = t.clu c := fun c => by simp only [State.clu, hk]
  refine ⟨h0, ?_, ?_, ?_, locs, ?_, h5⟩
  · rw [← hx, ← State.objEnt_congr hm hc]; exact h1
  · rw [← hf, ← hclu]; exact h2
  · rw [← hf]; exact h3
  · rw [← hx, ← State.placeParts_congr hm hc hd]; exact h4

/-- A change of an engine that leaves its gang leaves the context of every stream. -/
theorem State.ctxOf_modEng (s : State) (e j : Nat) (f : Engine → Engine) (h : (f (s.eng e)).gang = (s.eng e).gang) :
    (s.modEng e f).ctxOf j = s.ctxOf j := by
  have h1 : ((s.modEng e f).eng j).gang = (s.eng j).gang := by
    rw [State.eng_modEng]
    split
    · subst j; exact h
    · rfl
  unfold State.ctxOf
  rw [h1]
  rfl

end Sys2Proof.Machine
end

