-- ==== Sys2Proof/Tests/Slice0.lean ====
section
/-!
SUPPORT. The author's own tests: ill-formed terms that WellFormed refuses, words written out from the spec's encodings, single steps on small
states, and for every statement with hypotheses a witness that meets them.
-/
namespace Sys2Proof.Tests

open Sys2Proof Sys2Proof.Machine Sys2Proof.Safety

set_option Elab.async false

/-! ### WellFormed: an ill-formed term for each check (R147) -/

theorem test_wf_scalar_types : (Instr.add ⟨.f32, false, .reg 1, .reg 2, .reg 3, .always⟩).wf .prim = false ∧
    (Instr.clz ⟨.dx8, .reg 1, .reg 2, .always⟩).wf .prim = false ∧ (Instr.cmp ⟨.eq, .f16, .reg 1, .reg 2, .reg 3, .always⟩).wf .prim = false ∧
    (Instr.sel ⟨.f64, .reg 1, .reg 2, .reg 3, .reg 4, .always⟩).wf .prim = false ∧ (Instr.brc ⟨.eq, .bf16, .reg 1, .reg 2, 0, .always⟩).wf .prim = false ∧
    (Instr.add ⟨.i32, true, .reg 1, .reg 2, .reg 3, .always⟩).wf .prim = true := by decide

theorem test_wf_sat : (Instr.and ⟨.i32, true, .reg 1, .reg 2, .reg 3, .always⟩).wf .prim = false ∧
    (Instr.shr ⟨.i32, true, .reg 1, .reg 2, .reg 3, .always⟩).wf .prim = false ∧ (Instr.shl ⟨.i32, true, .reg 1, .reg 2, .reg 3, .always⟩).wf .prim = true ∧
    (Instr.vand ⟨.i32, .rne, true, .reg 1, .reg 2, .reg 3, .always⟩).wf .prim = false ∧
    (Instr.vabs ⟨.f32, .rne, true, .reg 1, .reg 2, .always⟩).wf .prim = false := by decide

theorem test_wf_secondary : (Instr.mov ⟨.i64, .reg 16, .reg 1, .always⟩).wf .sec = false ∧ (Instr.mov ⟨.i64, .reg 1, .reg 16, .always⟩).wf .sec = false ∧
    (Instr.mov ⟨.i64, .reg 1, .que 8, .always⟩).wf .sec = false ∧ (Instr.mov ⟨.i64, .reg 1, .reg 2, .on false 0⟩).wf .sec = false ∧
    (Instr.xtokSet 4 (.reg 1) .always).wf .sec = false ∧ (Instr.loopp (.reg 1) 1 1).wf .sec = false ∧
    (Instr.pmaskAnd ⟨0, 1, 2⟩).wf .sec = false ∧ (Instr.pmaskGet .que 0 0).wf .sec = false ∧ (Instr.pmaskIns 0 (.reg 1) 0).wf .sec = false ∧
    (Instr.pmaskFirst .i8 0 (.reg 1)).wf .sec = false ∧ (Instr.csrr (.reg 1) 4 .always).wf .sec = false ∧
    (Instr.mov ⟨.i64, .reg 15, .que 7, .always⟩).wf .sec = true := by decide

theorem test_wf_streams : (Instr.vmov ⟨.i32, .rne, false, .reg 1, .reg 2, .always⟩).wf .sec = false ∧ (Instr.mzero 0 .always).wf .seq = false ∧
    (Instr.xbar 0).wf .sec = false ∧ (Instr.send 0 (.reg 1) (.reg 2) (.reg 3)).wf .seq = false ∧ (Instr.recv .que 0).wf .seq = false ∧
    (Instr.xcway 0 (.reg 0) 0 .always).wf .sec = false ∧ (Instr.qctxKeep).wf .prim = false ∧ (Instr.qyldEnd .always).wf .prim = false ∧
    (Instr.sbind ⟨false, 0, 0, .reg 0, 0, 0⟩).wf .sec = false ∧ (Instr.sflush none false 0).wf .seq = false ∧
    (Instr.ldres ⟨.reg 1, 0, .reg 0, 0, 0, .always⟩).wf .seq = false ∧ (Instr.probe ⟨0, .reg 1, 0, .reg 0, 0, .always⟩).wf .seq = false ∧
    (Instr.rowz ⟨.f32, 0, 0, .reg 0, 0, 0, .always⟩).wf .seq = false ∧ (Instr.xcomet ⟨0, 0, 0, .reg 0, 0, .always⟩).wf .seq = false := by decide

theorem test_wf_constants : (Instr.mov ⟨.i64, .reg 1, .const 56, .always⟩).wf .prim = false ∧
    (Instr.mov ⟨.i8, .reg 1, .const 55, .always⟩).wf .prim = false ∧ (Instr.mov ⟨.i64, .reg 1, .const 55, .always⟩).wf .prim = true ∧
    (Instr.vmov ⟨.dx8, .rne, false, .reg 1, .const 0, .always⟩).wf .prim = false := by decide

theorem test_wf_rounding : (Instr.vadd ⟨.i32, .rz, false, .reg 1, .reg 2, .reg 3, .always⟩).wf .prim = false ∧
    (Instr.vadd ⟨.f32, .sr, false, .reg 1, .reg 2, .reg 3, .always⟩).wf .prim = false ∧
    (Instr.vmin ⟨.f32, .rz, false, .reg 1, .reg 2, .reg 3, .always⟩).wf .prim = false ∧
    (Instr.vcvt ⟨.f32, .bf16, 0, .sr, false, .reg 1, .reg 2, none, .always⟩).wf .prim = false ∧
    (Instr.vcvt ⟨.bf16, .f32, 0, .sr, false, .reg 1, .reg 2, some (.reg 3), .always⟩).wf .prim = true ∧
    (Instr.vred ⟨.max, .f32, .rz, false, .reg 1, .reg 2, .always⟩).wf .prim = false ∧
    (Instr.vdxu ⟨.f32, .dx8, 0, .sr, false, .reg 1, .reg 2, .reg 3⟩).wf .prim = false := by decide

theorem test_wf_annotations : (Instr.ld ⟨.n32, 0, .reg 1, 0, .reg 2, .rl, .dev, 0, 0, .always⟩).wf .prim = false ∧
    (Instr.ld ⟨.n32, 0, .reg 1, 0, .reg 2, .plain, .dev, 0, 0, .always⟩).wf .prim = false ∧
    (Instr.st ⟨.n32, 0, 0, .reg 1, .reg 2, .aq, .dev, 0, .always⟩).wf .prim = false ∧
    (Instr.st ⟨.n32, 0, 0, .reg 1, .reg 2, .ar, .dev, 0, .always⟩).wf .prim = false ∧
    (Instr.ldh ⟨0, 1, 0, .reg 2, .ar, .dev, 0, 0, .always⟩).wf .prim = false ∧ (Instr.sth ⟨0, 1, .reg 2, 0, .aq, .dev, 0, .always⟩).wf .prim = false ∧
    (Instr.atomAdd ⟨.n64, 0, .reg 1, 0, .reg 2, .reg 3, .ar, .dev, 0, true, .always⟩).wf .prim = true := by decide

theorem test_wf_ranges : (Instr.bfx ⟨.i32, .reg 1, .reg 2, 20, 12, .always⟩).wf .prim = false ∧
    (Instr.bfi ⟨.i32, .reg 1, .reg 2, .reg 3, 0, 32, .always⟩).wf .prim = false ∧ (Instr.bfx ⟨.i32, .reg 1, .reg 2, 20, 11, .always⟩).wf .prim = true ∧
    (Instr.loop (.reg 1) 0).wf .prim = false ∧ (Instr.loopp (.reg 1) 0 1).wf .prim = false ∧ (Instr.pmaskFirst .dx4 0 (.reg 1)).wf .prim = false ∧
    (Instr.csrr (.reg 1) 5 .always).wf .prim = false ∧ (Instr.csrw (.reg 1) 3 .always).wf .prim = false ∧
    (Instr.csrr (.reg 1) 32 .always).wf .prim = false ∧ (Instr.csrr (.reg 1) 32 .always).wf .seq = true := by decide

theorem test_wf_memory : (Instr.ld ⟨.f32, 0, .reg 1, 0, .reg 2, .plain, .stream, 0, 0, .always⟩).wf .prim = false ∧
    (Instr.vld ⟨.dx4, 0, .reg 1, 0, .reg 2, 0, 0, .always⟩).wf .prim = false ∧ (Instr.vld ⟨.f32, 0, .strm 1, 0, .reg 2, 0, 0, .always⟩).wf .prim = false ∧
    (Instr.vlds ⟨.f32, 0, .reg 1, 0, .reg 2, 0, 1, .always⟩).wf .prim = false ∧ (Instr.vsts ⟨.f32, 0, 0, .reg 2, .reg 1, 1, .always⟩).wf .prim = false ∧
    (Instr.vst ⟨.dx4, 0, 0, .reg 2, .reg 1, 0, .always⟩).wf .prim = false ∧ (Instr.vgth ⟨.dx4, 0, .reg 1, 0, .reg 2, 0, 0, .always⟩).wf .prim = false ∧
    (Instr.vsct ⟨.dx4, 0, 0, .reg 2, .reg 1, 0, .always⟩).wf .prim = false ∧
    (Instr.atomAdd ⟨.n8, 0, .reg 1, 0, .reg 2, .reg 3, .plain, .stream, 0, false, .always⟩).wf .prim = false ∧
    (Instr.atomAnd ⟨.f32, 0, .reg 1, 0, .reg 2, .reg 3, .plain, .stream, 0, false, .always⟩).wf .prim = false := by decide

theorem test_wf_vector_types : (Instr.vfma ⟨.i32, .rne, false, .reg 1, .reg 2, .reg 3, .reg 4, .always⟩).wf .prim = false ∧
    (Instr.vand ⟨.f32, .rne, false, .reg 1, .reg 2, .reg 3, .always⟩).wf .prim = false ∧
    (Instr.vdot ⟨.f32, .rne, false, .reg 1, .reg 2, .reg 3, .reg 4, .always⟩).wf .prim = false ∧
    (Instr.vrcp ⟨.f64, .rne, false, .reg 1, .reg 2, .always⟩).wf .prim = false ∧ (Instr.vrsq ⟨.f32, .rne, true, .reg 1, .reg 2, .always⟩).wf .prim = false ∧
    (Instr.vrint ⟨.i32, .rne, false, .reg 1, .reg 2, .always⟩).wf .prim = false ∧ (Instr.vmov ⟨.dx4, .rne, false, .reg 1, .reg 2, .always⟩).wf .prim = false ∧
    (Instr.vpcnt ⟨.f32, .rne, false, .reg 1, .reg 2, .always⟩).wf .prim = false ∧ (Instr.vexpd ⟨.dx4, .rne, false, .reg 1, .reg 2, .always⟩).wf .prim = false ∧
    (Instr.vcmp ⟨.f32, .tst, 0, .reg 1, .reg 2, .always⟩).wf .prim = false ∧ (Instr.vcmp ⟨.i32, .un, 0, .reg 1, .reg 2, .always⟩).wf .prim = false ∧
    (Instr.vred ⟨.add, .f8e4, .rne, false, .reg 1, .reg 2, .always⟩).wf .prim = false ∧
    (Instr.vscan ⟨.max, false, .f8e4, .rne, false, .reg 1, .reg 2, .always⟩).wf .prim = false := by decide

theorem test_wf_convert_and_shuffle : (Instr.vcvt ⟨.f32, .f32, 0, .rne, false, .reg 1, .reg 2, none, .always⟩).wf .prim = false ∧
    (Instr.vcvt ⟨.f32, .f16, 2, .rne, false, .reg 1, .reg 2, none, .always⟩).wf .prim = false ∧
    (Instr.vcvt ⟨.f16, .f32, 0, .rne, false, .reg 1, .reg 2, none, .always⟩).wf .prim = false ∧
    (Instr.vcvt ⟨.f32, .f16, 0, .rne, false, .reg 1, .reg 2, some (.reg 3), .always⟩).wf .prim = false ∧
    (Instr.vshuf ⟨.i64, .rot, 32, .reg 1, .reg 2, some (.reg 3), .always⟩).wf .prim = false ∧
    (Instr.vshuf ⟨.i64, .rev, 1, .reg 1, .reg 2, none, .always⟩).wf .prim = false ∧
    (Instr.vshuf ⟨.i64, .rev, 0, .reg 1, .reg 2, some (.reg 3), .always⟩).wf .prim = false ∧
    (Instr.vshuf ⟨.i64, .rot, 0, .reg 1, .reg 2, none, .always⟩).wf .prim = false ∧
    (Instr.vdxp ⟨.f32, .f32, 0, .rne, .reg 1, .reg 2, .reg 3⟩).wf .prim = false ∧ (Instr.vdxp ⟨.dx8, .f32, 4, .rne, .reg 1, .reg 2, .reg 3⟩).wf .prim = false ∧
    (Instr.vdxu ⟨.f32, .dx8, 4, .rne, false, .reg 1, .reg 2, .reg 3⟩).wf .prim = false := by decide

theorem test_wf_matrix : (Instr.mma ⟨.i32, false, 0, 0, 1, .reg 1, .always⟩).wf .prim = false ∧ (Instr.mma ⟨.f16, true, 0, 0, 1, .reg 1, .always⟩).wf .prim = false ∧
    (Instr.mma ⟨.f64, false, 1, 0, 1, .reg 1, .always⟩).wf .prim = false ∧ (Instr.mmas ⟨.f16, false, false, 0, 1, 1, .reg 1, .always⟩).wf .prim = false ∧
    (Instr.mmas ⟨.i8, false, false, 1, 1, 1, .reg 1, .always⟩).wf .prim = false ∧ (Instr.mmas ⟨.i8, true, false, 0, 1, 1, .reg 1, .always⟩).wf .prim = false ∧
    (Instr.msca ⟨false, false, 0, .reg 1, .reg 2, .reg 3, .always⟩).wf .prim = false ∧
    (Instr.mdrain ⟨.i8, .f32, .rne, false, 0, 0, .reg 1, .always⟩).wf .prim = false ∧
    (Instr.mdrain ⟨.f32, .f32, .rz, false, 0, 0, .reg 1, .always⟩).wf .prim = false ∧
    (Instr.mdrain ⟨.f64, .f64, .rne, false, 1, 0, .reg 1, .always⟩).wf .prim = false := by decide

theorem test_wf_transfer : (Instr.baxpy ⟨.i32, 0, 0, .reg 0, 1, 0, .always⟩).wf .prim = false ∧ (Instr.bcnt ⟨.f32, 0, 0, .reg 0, 1, 0, .always⟩).wf .prim = false ∧
    (Instr.rowz ⟨.f32, 0, 0, .reg 0, 1, 0, .always⟩).wf .prim = false ∧ (Instr.rowcp ⟨.f32, 0, 0, .reg 0, 1, 1, .always⟩).wf .prim = false ∧
    (Instr.xtrn ⟨0, 0, 0, 0, .reg 1, .reg 2, 0, 1, .always⟩).wf .prim = false ∧ (Instr.xevpPoll ⟨0, .reg 0, 0, 0, .always⟩).wf .prim = false ∧
    (Instr.xevpPoll ⟨0, .reg 1, 0, 1, .always⟩).wf .prim = false ∧ (Instr.xevpPoll ⟨0, .reg 1, 0, 1, .always⟩).wf .seq = true ∧
    (Instr.xpref ⟨1, 0, .reg 1, .reg 2, 0, .always⟩).wf .prim = false ∧ (Instr.xpref ⟨0, 0, .reg 1, .reg 2, 1, .always⟩).wf .prim = false ∧
    (Instr.hmint 0 31 0 .always).wf .seq = false ∧ (Instr.hmint 0 0 0 .always).wf .seq = false := by decide

theorem test_wf_graph : (Instr.loopb 0 (.imm 1) none).wf .prim = false ∧ (Instr.fuse false 9).wf .prim = false ∧ (Instr.fuse false 1).wf .prim = false ∧
    (Instr.tview 0 1 (List.replicate 14 (.imm 0))).wf .prim = false ∧ (Instr.tsetd true 0 (List.replicate 15 (.imm 0))).wf .prim = false ∧
    (Instr.shop .mov 0 (.imm 1) (.imm 1)).wf .prim = false ∧ (Instr.topk false 0 0 1 2).wf .prim = false ∧
    (Instr.convert .dyn false 0 1 (.imm 0)).wf .prim = false ∧ (Instr.matmul false .dyn 0 1 2).wf .prim = false ∧
    (Instr.eltw false .add 0 1 .none).wf .prim = false ∧ (Instr.eltw false .neg 0 1 (.desc 2)).wf .prim = false := by decide

/-! ### Decoding: words written out from the encoding tables -/

/-- A slot word from its fields OP, MOD, CLS, D, A, B, C and IMM15 (R133), with PE, PN and PIX zero. -/
def slotWord (op mod cls d a b c imm : Nat) : Nat :=
  op * 2 ^ 56 + mod * 2 ^ 52 + cls * 2 ^ 48 + d * 2 ^ 41 + a * 2 ^ 34 + b * 2 ^ 27 + c * 2 ^ 20 + imm

/-- Word 0 of a graph instruction from OPC, NW, FL and IMM16 (R280). -/
def graphWord (opc nw fl imm : Nat) : Nat := opc * 2 ^ 24 + nw * 2 ^ 20 + fl * 2 ^ 16 + imm

/-- R152: the S-slot arithmetic rows, types in MOD and SAT in CLS [48]. -/
theorem test_decode_scalar :
    let l : List (Nat × Instr) := [
      (slotWord 0x01 3 0 3 1 2 0 0, .add ⟨.i64, false, .reg 3, .reg 1, .reg 2, .always⟩),
      (slotWord 0x02 2 1 3 0x20 0x41 0 0, .sub ⟨.i32, true, .reg 3, .que 0, .const 1, .always⟩),
      (slotWord 0x03 7 1 0x20 0x30 0x36 0 0, .mul ⟨.n64, true, .que, .li 0, .lc, .always⟩),
      (slotWord 0x04 6 0 3 1 0x37 0 0, .mulh ⟨.n32, false, .reg 3, .reg 1, .pcb, .always⟩),
      (slotWord 0x05 0 1 3 1 2 0 0, .div ⟨.i8, true, .reg 3, .reg 1, .reg 2, .always⟩),
      (slotWord 0x06 5 0 3 1 2 0 0, .rem ⟨.n16, false, .reg 3, .reg 1, .reg 2, .always⟩),
      (slotWord 0x07 3 0 3 1 2 0 0, .and ⟨.i64, false, .reg 3, .reg 1, .reg 2, .always⟩),
      (slotWord 0x08 3 0 3 1 2 0 0, .or ⟨.i64, false, .reg 3, .reg 1, .reg 2, .always⟩),
      (slotWord 0x09 3 0 3 1 2 0 0, .xor ⟨.i64, false, .reg 3, .reg 1, .reg 2, .always⟩),
      (slotWord 0x0A 3 0 3 1 2 0 0, .andn ⟨.i64, false, .reg 3, .reg 1, .reg 2, .always⟩),
      (slotWord 0x0B 3 1 3 1 2 0 0, .shl ⟨.i64, true, .reg 3, .reg 1, .reg 2, .always⟩),
      (slotWord 0x0C 3 0 3 1 2 0 0, .shr ⟨.i64, false, .reg 3, .reg 1, .reg 2, .always⟩),
      (slotWord 0x0D 3 0 3 1 2 0 0, .sar ⟨.i64, false, .reg 3, .reg 1, .reg 2, .always⟩),
      (slotWord 0x0E 1 0 3 1 0 0 0, .clz ⟨.i16, .reg 3, .reg 1, .always⟩), (slotWord 0x0F 4 0 3 1 0 0 0, .popc ⟨.n8, .reg 3, .reg 1, .always⟩),
      (slotWord 0x10 3 0 3 1 2 0 0, .min ⟨.i64, false, .reg 3, .reg 1, .reg 2, .always⟩),
      (slotWord 0x11 3 0 3 1 2 0 0, .max ⟨.i64, false, .reg 3, .reg 1, .reg 2, .always⟩),
      (slotWord 0x12 2 6 3 1 2 0 0, .cmp ⟨.lt, .n32, .reg 3, .reg 1, .reg 2, .always⟩),
      (slotWord 0x13 3 0 3 1 2 4 0, .sel ⟨.i64, .reg 3, .reg 1, .reg 2, .reg 4, .always⟩),
      (slotWord 0x14 3 0 3 1 0 0 0x00088000, .mov ⟨.i64, .reg 3, .reg 1, .on false 1⟩)]
    l.map (fun q => decodeSlot .prim .s q.1 none) = l.map (fun q => .ok q.2) := by rfl

/-- R152, R158: control, predicates and services. -/
theorem test_decode_control :
    let l : List (Nat × Instr) := [
      (slotWord 0x15 2 0 3 1 0 0 (4 * 64 + 7), .bfx ⟨.i32, .reg 3, .reg 1, 4, 7, .always⟩),
      (slotWord 0x16 2 0 3 1 2 0 (4 * 64 + 7), .bfi ⟨.i32, .reg 3, .reg 1, .reg 2, 4, 7, .always⟩),
      (slotWord 0x20 0 0 0 0 0 0 0x7FFF, .br (-1) .always), (slotWord 0x21 1 3 0 1 2 0 5, .brc ⟨.ne, .i64, .reg 1, .reg 2, 5, .always⟩),
      (slotWord 0x22 0 0 0 1 0 0 0, .jmp (.reg 1) .always), (slotWord 0x23 0 0 3 0 0 0 2, .callRelative (.reg 3) 2 .always),
      (slotWord 0x23 1 0 3 1 0 0 0, .callAbsolute (.reg 3) (.reg 1) .always), (slotWord 0x24 0 0 0 0 0 0 0, .ret (.reg 0) .always),
      (slotWord 0x25 0 0 0 5 0 0 2, .loop (.reg 5) 2), (slotWord 0x26 0 0 0 5 0 0 (3 * 4096 + 2), .loopp (.reg 5) 3 2),
      (slotWord 0x27 0 0 0 0 0 0 0x000C8000, .lbrk (.on true 1)), (slotWord 0x28 0 2 1 5 0 0 0, .pmaskFirst .i32 1 (.reg 5)),
      (slotWord 0x28 1 0 1 2 3 0 0, .pmaskAnd ⟨1, 2, 3⟩), (slotWord 0x28 2 0 1 2 3 0 0, .pmaskOr ⟨1, 2, 3⟩),
      (slotWord 0x28 3 0 1 2 3 0 0, .pmaskAndn ⟨1, 2, 3⟩), (slotWord 0x28 4 0 1 2 3 0 0, .pmaskXor ⟨1, 2, 3⟩),
      (slotWord 0x28 5 0 1 2 0 0 0, .pmaskNot 1 2), (slotWord 0x28 6 0 1 5 0 0 3, .pmaskIns 1 (.reg 5) 3), (slotWord 0x28 7 0 5 1 0 0 2, .pmaskGet (.reg 5) 1 2),
      (slotWord 0x29 0 0 0 0 0 0 9, .slack 9), (slotWord 0x2A 0 0 0 1 2 3 7, .send 7 (.reg 1) (.reg 2) (.reg 3)), (slotWord 0x2B 0 0 4 0 0 0 7, .recv (.reg 4) 7),
      (slotWord 0x2C 0 0 0 0 0 0 77, .trapi 77 .always), (slotWord 0x2D 0 0 4 0 0 0 10, .csrr (.reg 4) 10 .always), (slotWord 0x2E 0 0 0 4 0 0 1, .csrw (.reg 4) 1 .always)]
    l.map (fun q => decodeSlot .prim .s q.1 none) = l.map (fun q => .ok q.2) := by rfl

/-- R178 to R197: the A-slot rows, IMM15 in layouts M, T, P and F. -/
theorem test_decode_address :
    let l : List (Nat × Instr) := [
      (slotWord 0x01 0 0 3 1 2 0 0, .hoff ⟨3, 1, .reg 2, .always⟩), (slotWord 0x02 0 0 3 1 2 0 0, .hnarRights ⟨3, 1, .reg 2, .always⟩),
      (slotWord 0x02 1 0 3 1 2 0 0, .hnarLow ⟨3, 1, .reg 2, .always⟩), (slotWord 0x02 2 0 3 1 2 0 0, .hnarHigh ⟨3, 1, .reg 2, .always⟩),
      (slotWord 0x03 5 0 3 1 0 0 0, .hget .oid (.reg 3) 1 .always),
      (slotWord 0x04 6 3 4 2 5 0 0x2C80, .ld ⟨.n32, 3, .reg 4, 2, .reg 5, .aq, .dev, 1, 0, .always⟩),
      (slotWord 0x05 7 0 0 4 0x40 0x41 0x4C00, .st ⟨.n64, 0, 4, .const 0, .const 1, .rl, .dev, 0, .always⟩),
      (slotWord 0x06 0 1 3 2 5 0 0x80, .ldh ⟨1, 3, 2, .reg 5, .plain, .stream, 1, 0, .always⟩),
      (slotWord 0x07 0 1 0 2 5 3 0x10, .sth ⟨1, 2, .reg 5, 3, .plain, .stream, 1, .always⟩),
      (slotWord 0x08 0xC 0 3 2 5 0 0x80, .vld ⟨.f32, 0, .reg 3, 2, .reg 5, 1, 0, .always⟩), (slotWord 0x09 0xC 0 0 2 5 3 0x10, .vst ⟨.f32, 0, 2, .reg 5, .reg 3, 1, .always⟩),
      (slotWord 0x0A 0xC 0 3 2 5 0 0x80, .vlds ⟨.f32, 0, .reg 3, 2, .reg 5, 1, 0, .always⟩), (slotWord 0x0B 0xC 0 0 2 5 3 0, .vsts ⟨.f32, 0, 2, .reg 5, .reg 3, 0, .always⟩),
      (slotWord 0x0C 0xC 0 3 2 7 0 0x90, .vgth ⟨.f32, 0, .reg 3, 2, .reg 7, 1, 1, .always⟩),
      (0x0D20001038888020, .vsct ⟨.i32, 0, 4, .reg 7, .reg 8, 2, .on false 1⟩),
      (slotWord 0x0E 0 2 3 4 5 6 0x00C7, .atomAdd ⟨.n64, 2, .reg 3, 4, .reg 5, .reg 6, .plain, .stream, 1, true, .always⟩),
      (slotWord 0x0E 1 0 3 4 5 6 2, .atomMin ⟨.i32, 0, .reg 3, 4, .reg 5, .reg 6, .plain, .stream, 0, false, .always⟩),
      (slotWord 0x0E 2 0 3 4 5 6 2, .atomMax ⟨.i32, 0, .reg 3, 4, .reg 5, .reg 6, .plain, .stream, 0, false, .always⟩),
      (slotWord 0x0E 3 0 3 4 5 6 2, .atomAnd ⟨.i32, 0, .reg 3, 4, .reg 5, .reg 6, .plain, .stream, 0, false, .always⟩),
      (slotWord 0x0E 4 0 3 4 5 6 2, .atomOr ⟨.i32, 0, .reg 3, 4, .reg 5, .reg 6, .plain, .stream, 0, false, .always⟩),
      (slotWord 0x0E 5 0 3 4 5 6 2, .atomXor ⟨.i32, 0, .reg 3, 4, .reg 5, .reg 6, .plain, .stream, 0, false, .always⟩),
      (slotWord 0x0E 6 0 3 4 5 6 0xC, .atomXchg ⟨.f32, 0, .reg 3, 4, .reg 5, .reg 6, .plain, .stream, 0, false, .always⟩),
      (slotWord 0x0E 7 0 3 4 5 6 0x6C03, .atomCas ⟨.i64, 0, .reg 3, 4, .reg 5, .reg 6, .ar, .dev, 0, false, .always⟩),
      (slotWord 0x0F 3 1 0 0 0 0 0x7FFF, .fence 0xFFFF .dev .always),
      (slotWord 0x10 0 2 3 4 5 0 0x3000, .probe ⟨2, .reg 3, 4, .reg 5, 3, .always⟩), (slotWord 0x10 1 2 3 4 5 0 0x3FFF, .probeMissTarget ⟨2, .reg 3, 4, .reg 5, 3, .always⟩ (-1)),
      (slotWord 0x11 1 2 0x33 4 5 6 0, .sbind ⟨true, 3, 4, .reg 5, 6, 2⟩), (slotWord 0x12 2 0 0x33 0 0 0 0x100, .sflush (some 3) true 2), (slotWord 0x12 1 0 0 0 0 0 0x80, .sflush none false 1),
      (slotWord 0x13 0 0 3 4 5 0 0x80, .ldres ⟨.reg 3, 4, .reg 5, 1, 0, .always⟩), (slotWord 0x13 1 0 3 4 5 0 0x80, .ldresW ⟨.reg 3, 4, .reg 5, 1, 0, .always⟩)]
    l.map (fun q => decodeSlot .prim .a q.1 none) = l.map (fun q => .ok q.2) := by rfl

/-- R205: the V-slot rows. -/
theorem test_decode_vector :
    let b (mk : VBin → Instr) (op mod : Nat) (t : ElemType) : Nat × Instr := (slotWord op mod 0 3 1 2 0 0, mk ⟨t, .rne, false, .reg 3, .reg 1, .reg 2, .always⟩)
    let u (mk : VUn → Instr) (op mod : Nat) (t : ElemType) : Nat × Instr := (slotWord op mod 0 3 1 0 0 0, mk ⟨t, .rne, false, .reg 3, .reg 1, .always⟩)
    let l : List (Nat × Instr) := [b .vadd 1 0xC .f32, b .vsub 2 2 .i32, b .vmul 3 0xA .f16, b .vmin 6 0xD .f64, b .vmax 7 7 .n64, u .vabs 8 0xB .bf16, u .vneg 9 0 .i8,
      b .vand 0xA 4 .n8, b .vor 0xB 4 .n8, b .vxor 0xC 4 .n8, b .vshl 0xD 5 .n16, b .vshr 0xE 5 .n16, b .vsar 0xF 1 .i16, u .vmov 0x12 0xE .dx8, u .vrint 0x17 0xC .f32,
      u .vrcp 0x20 0xC .f32, u .vrsq 0x21 0xC .f32, u .vexp2 0x22 0xA .f16, u .vlog2 0x23 0xB .bf16, u .vtanh 0x24 0xC .f32, u .vsigm 0x25 0xC .f32,
      u .vexpd 0x2B 6 .n32, b .vperm 0x2C 9 .f8e5, u .vpcnt 0x30 7 .n64,
      (0x04C1280500390000, .vfma ⟨.f32, .rz, false, .reg 20, .reg 1, .que 0, .reg 3, .on false 2⟩),
      (slotWord 0x05 0xC 0xB 0x20 1 2 3 0, .vfms ⟨.f32, .rd, true, .que, .reg 1, .reg 2, .reg 3, .always⟩)]
    l.map (fun q => decodeSlot .prim .v q.1 none) = l.map (fun q => .ok q.2) := by rfl

theorem test_decode_vector_others :
    let l : List (Nat × Instr) := [
      (slotWord 0x10 0xC 0 4 1 2 0 8, .vcmp ⟨.f32, .un, 4, .reg 1, .reg 2, .always⟩), (0x1120139D080A0000, .vsel ⟨.i32, .reg 9, .const 39, .que 1, false, 4⟩),
      (slotWord 0x13 2 0 3 5 0 0 0, .vbcast ⟨.i32, .reg 3, .reg 5, .always⟩), (slotWord 0x14 2 0 3 1 5 0 0, .vext ⟨.i32, .reg 3, .reg 1, .reg 5⟩),
      (slotWord 0x15 2 0 3 1 5 6 0, .vins ⟨.i32, .reg 3, .reg 1, .reg 5, .reg 6⟩), (0x1620168400000004, .vcvt ⟨.i32, .n8, 0, .rne, false, .reg 11, .que 1, none, .always⟩),
      (slotWord 0x18 0xA 0 3 1 2 4 0, .vdot ⟨.f16, .rne, false, .reg 3, .reg 1, .reg 2, .reg 4, .always⟩),
      (slotWord 0x19 7 0 3 1 2 0 1, .vclmul ⟨true, .reg 3, .reg 1, .reg 2, .always⟩), (slotWord 0x28 0xC 2 3 1 0 0 0, .vred ⟨.add, .f32, .ru, false, .reg 3, .reg 1, .always⟩),
      (slotWord 0x29 2 8 3 1 0 0 4, .vscan ⟨.add, true, .i32, .rne, true, .reg 3, .reg 1, .always⟩), (slotWord 0x2A 2 0 3 1 0 5 0, .vcmpr ⟨.i32, .reg 3, .reg 1, .reg 5, .always⟩),
      (slotWord 0x2D 2 0 3 1 2 0 (4 * 4096 + 5), .vshuf ⟨.i32, .rot, 5, .reg 3, .reg 1, some (.reg 2), .always⟩),
      (slotWord 0x2E 0xE 0 3 1 0 4 (2 * 16 + 0xC), .vdxp ⟨.dx8, .f32, 2, .rne, .reg 3, .reg 1, .reg 4⟩),
      (slotWord 0x2E 0xF 0 3 1 0 4 (1024 + 2 * 16 + 0xC), .vdxpScale ⟨.dx4, .f32, 2, .rne, .reg 3, .reg 1, .reg 4⟩),
      (slotWord 0x2F 0xB 1 3 1 2 0 (1 * 16 + 0xE), .vdxu ⟨.bf16, .dx8, 1, .rz, false, .reg 3, .reg 1, .reg 2⟩)]
    l.map (fun q => decodeSlot .prim .v q.1 none) = l.map (fun q => .ok q.2) := by rfl

/-- R230: the M-slot rows. -/
theorem test_decode_matrix :
    let l : List (Nat × Instr) := [
      (0x0180060828700000, .mma ⟨.f8e4, false, 3, 2, 5, .reg 7, .always⟩), (0x0181060828700000, .mma ⟨.f8e4, true, 3, 2, 5, .reg 7, .always⟩),
      (slotWord 0x02 0 2 3 4 5 7 0, .mmas ⟨.i8, false, true, 3, 4, 5, .reg 7, .always⟩), (slotWord 0x03 0xF 0 0 2 5 7 1, .mmdx ⟨true, true, 2, 5, .reg 7, .always⟩),
      (0x04E000102A000001, .msca ⟨false, true, 0, .reg 4, .reg 5, .que 0, .always⟩), (slotWord 0x05 0 0 6 0 0 0 0, .mzero 6 .always),
      (slotWord 0x06 0xA 1 3 2 0 7 0, .mdrain ⟨.f16, .f32, .rz, false, 3, 2, .reg 7, .always⟩), (slotWord 0x07 0 0 3 2 0 7 0, .mldacc ⟨3, 2, .reg 7, .always⟩),
      (slotWord 0x08 0 0 3 2 0 7 0, .mstacc ⟨3, 2, .reg 7, .always⟩), (slotWord 0x09 0 0 5 0 0 0 10, .mstat (.reg 5) 2 true .always)]
    l.map (fun q => decodeSlot .prim .m q.1 none) = l.map (fun q => .ok q.2) := by rfl

/-- R250, R253: the X-slot rows open to kernels. -/
theorem test_decode_transfer :
    let l : List (Nat × Instr) := [
      (slotWord 0x01 2 1 3 4 5 6 0x80, .xtrn ⟨2, 1, 3, 4, .reg 5, .reg 6, 1, 0, .always⟩), (slotWord 0x02 1 0 3 4 5 6 0x83, .xprm ⟨1, 0, 3, 4, .reg 5, .reg 6, 1, 3, .always⟩),
      (0x0300000028000000, .rowz ⟨.f32, 0, 0, .reg 5, 0, 0, .always⟩), (0x0310000828600000, .rowcp ⟨.f32, 0, 2, .reg 5, 6, 0, .always⟩),
      (0x0320000C28600000, .rowxf ⟨.f32, 0, 3, .reg 5, 6, 0, .always⟩), (0x0330001030200000, .badd ⟨.f32, 0, 4, .reg 6, 2, 0, .always⟩),
      (slotWord 0x03 4 0 0 4 6 2 0x1000, .bmax ⟨.i32, 0, 4, .reg 6, 2, 0, .always⟩), (slotWord 0x03 5 0 0 4 6 2 0x2000, .bmin ⟨.f16, 0, 4, .reg 6, 2, 0, .always⟩),
      (slotWord 0x03 6 0 0 4 6 2 0x3000, .baxpy ⟨.bf16, 0, 4, .reg 6, 2, 0, .always⟩), (slotWord 0x03 7 0 0 4 6 2 0x5080, .bcnt ⟨.n64, 0, 4, .reg 6, 2, 1, .always⟩),
      (0x04000A1000001880, .xbfen ⟨.reg 5, some 4, 1, .always⟩), (0x04100E0000001880, .xbfen ⟨.reg 7, none, 1, .always⟩), (slotWord 0x05 0 0 0 0 0 0 11, .xbar 11),
      (slotWord 0x06 0 0 0 1 2 0 0, .xevt (.reg 1) (.reg 2) .always), (slotWord 0x07 0 0 3 0 0 0 0x85, .xevpPoll ⟨3, .reg 0, 1, 5, .always⟩),
      (slotWord 0x07 1 0 3 0 0 0 0x85, .xevpWait ⟨3, .reg 0, 1, 5, .always⟩), (slotWord 0x08 0 0 0 1 0 0 0x100, .xtokSet 2 (.reg 1) .always),
      (slotWord 0x08 1 0 0 1 0 0 0x100, .xtokAdd 2 (.reg 1) .always), (slotWord 0x09 0 0 0 0 0 0 0x108, .xcway 8 (.reg 0) 2 .always),
      (slotWord 0x0A 0 1 0 4 5 6 0x80, .xinv ⟨1, 4, .reg 5, .reg 6, 1, .always⟩), (slotWord 0x0B 0 1 0 4 5 6 0x80, .xwb ⟨1, 4, .reg 5, .reg 6, 1, .always⟩),
      (slotWord 0x0C 0 0 0 4 5 6 0, .xpref ⟨0, 4, .reg 5, .reg 6, 0, .always⟩), (0x0D0000203C000080, .xcomet ⟨0, 8, 7, .const 0, 1, .always⟩)]
    l.map (fun q => decodeSlot .prim .x q.1 none) = l.map (fun q => .ok q.2) := by rfl

/-- R267: the sequencer's rows. -/
theorem test_decode_sequencer :
    let l : List (Nat × Instr) := [
      (slotWord 0xC0 0 0 3 1 0 0 0x83, .qdld (.reg 3) (.reg 1) 3 1 .always), (slotWord 0xC0 1 0 3 1 0 0 0x82, .qdldHandle 3 (.reg 1) 2 1 .always),
      (slotWord 0xC1 0 0 0 1 2 0 3, .qdst (.reg 1) (.reg 2) 3 .always), (slotWord 0xC1 1 0 0 1 2 0 2, .qdstHandle (.reg 1) 2 2 .always),
      (slotWord 0xC2 0 0 3 0 0 0 63, .qdimRd (.reg 3) 63 .always), (slotWord 0xC2 1 0 3 0 2 0 7, .qdimTiles (.reg 3) 7 (.reg 2) .always),
      (slotWord 0xC2 2 0 0 1 0 0 7, .qdimWr 7 (.reg 1) .always), (slotWord 0xC3 0 0 3 1 2 0 0x85, .ralc (.reg 3) (.reg 1) (.reg 2) 5 1 .always),
      (slotWord 0xC4 0 0 0 1 0 0 0x85, .rfre (.reg 1) 5 1 .always), (slotWord 0xC5 0 2 3 4 5 0 0x80, .gang 2 (.reg 3) 4 (.reg 5) 1 .always),
      (slotWord 0xC6 0 0 0 1 2 0 0, .hscbReader (.reg 1) (.reg 2) .always), (slotWord 0xC6 1 0 0 1 2 0 0, .hscbWriter (.reg 1) (.reg 2) .always),
      (slotWord 0xC7 0 0 0 1 0 0 0x80, .hwaitRd (.reg 1) 1 .always), (slotWord 0xC7 1 0 0 1 0 0 0x80, .hwaitWr (.reg 1) 1 .always),
      (slotWord 0xC8 0 0 3 0 0 0 0x82, .bcnx (.reg 3) 2 1 .always), (slotWord 0xC8 1 0 0 1 0 0 0, .bcnxJmp (.reg 1) .always),
      (slotWord 0xC9 0 0 0 1 2 3 0x123, .utrap 0x123 (.reg 1) (.reg 2) (.reg 3) .always), (slotWord 0xCA 0 0 0 0 0 0 0, .qyldEnd .always),
      (slotWord 0xCA 1 0 0 0 0 0 0, .qyldYield .always), (slotWord 0xCA 2 0 0 0 0 0 0, .qyldRepeat .always), (slotWord 0xCB 0 0 3 4 0 0 0x80, .hmint 3 4 1 .always),
      (slotWord 0xCC 0 0 0 1 0 0 0x80, .otinv (.reg 1) 1 .always), (slotWord 0xCD 0 0 0 0 0 0 0, .qctxKeep), (slotWord 0xCD 1 0 0 0 0 0 0, .qctxDrop)]
    l.map (fun q => decodeSlot .seq .x q.1 none) = l.map (fun q => .ok q.2) := by rfl

/-- R282: control, shape and descriptor instructions; shape registers have KIND 1, immediates KIND 2 and attributes KIND 3. -/
theorem test_decode_graph_control :
    let z (k : Nat) : Nat := 0x40000000 + k
    let n (v : Nat) : Nat := 0x80000000 + v
    let l : List (List Nat × Instr) := [
      ([graphWord 0x00 0 0 0], .graphNop), ([graphWord 0x01 0 0 7], .halt 7), ([graphWord 0x02 0 0 0xFFFF], .graphJmp (-1)),
      ([graphWord 0x03 2 4 3, z 1, n 5], .jif .gt 3 (.z 1) (.imm 5)), ([0x0420000C, 0x80000003, 0x40000002], .loopb 12 (.imm 3) (some 2)),
      ([graphWord 0x04 1 0 1, z 3], .loopb 1 (.z 3) none), ([0x05000000], .loope), ([graphWord 0x06 0 0 2], .callg 2), ([graphWord 0x07 0 0 0], .retg),
      ([graphWord 0x08 0 0 0], .yield), ([graphWord 0x09 2 0 0, 4, n 1], .signal 4 (.imm 1)), ([graphWord 0x0A 2 0 0, 4, z 1], .waite 4 (.z 1)),
      ([graphWord 0x10 3 0 0, z 1, 4, n 0], .shld 1 4 (.imm 0)), ([0x112D0000, 0x40000001, 0x80000003], .shop .mov 1 (.imm 3) (.imm 0)),
      ([0x11300000, 0x40000001, 0x40000001, 0x80000001], .shop .add 1 (.z 1) (.imm 1)), ([graphWord 0x12 3 3 0, z 1, 4, n 0], .shrd 3 1 4 (.imm 0)),
      ([graphWord 0x18 2 0 0, 4, 0xC0000020], .tdef 4 0x20), ([0x19500000, 2, 0, 0x80000000, 0x80000000, 0x40000001], .tview 2 0 [.imm 0, .imm 0, .z 1]),
      ([0x1A310000, 4, 0x80000008, 0x40000001], .tsetd true 4 [.imm 8, .z 1]), ([graphWord 0x1B 1 2 0, 4], .talloc .bank 4), ([graphWord 0x1C 1 0 0, 4], .tfree 4),
      ([graphWord 0x1D 3 1 0, 4, n 16, n 0], .tpin true 4 (.imm 16) (.imm 0)), ([graphWord 0x1E 2 1 0, z 1, n 3], .tres true 1 (.imm 3))]
    l.map (fun q => decodeGraph q.1) = l.map (fun q => .ok (q.2, [])) := by rfl

/-- R301: compute, collective and fusion instructions. -/
theorem test_decode_graph_operators :
    let l : List (List Nat × Instr) := [
      ([graphWord 0x20 0 1 3], .fuse true 3), ([graphWord 0x28 2 0 0, 1, 2], .copy 1 2), ([graphWord 0x29 3 9 0, 1, 2, 0x80000000], .convert .rz true 1 2 (.imm 0)),
      ([graphWord 0x2A 3 0 0, 1, 2, 0xC0000000], .permute 1 2 0), ([0x30300000, 7, 5, 6], .matmul false .rne 7 5 6),
      ([0x31500000, 5, 4, 2, 3, 0xC0000000], .attn ⟨false, 5, 4, 2, 3, 0, none⟩), ([graphWord 0x31 6 3 0, 5, 4, 2, 3, 0xC0000000, 9], .attn ⟨true, 5, 4, 2, 3, 0, some 9⟩),
      ([graphWord 0x32 2 0 1, 1, 2], .softmax 1 1 2), ([graphWord 0x33 4 3 1, 1, 2, 0xC0000000, 3], .norm ⟨true, 1, 1, 2, 0, some 3, none⟩),
      ([graphWord 0x34 3 1 2, 1, 2, 0xC0000004], .eltw true .mul 1 2 (.attr 4)), ([graphWord 0x34 2 0 26, 1, 2], .eltw false .gelu 1 2 .none),
      ([graphWord 0x34 3 0 0, 1, 2, 3], .eltw false .add 1 2 (.desc 3)), ([graphWord 0x35 2 5 3, 1, 2], .reduce .max true 3 1 2),
      ([graphWord 0x36 3 1 2, 1, 2, 3], .gather true 2 1 2 3), ([graphWord 0x37 3 5 2, 1, 2, 3], .scatter .add true 2 1 2 3),
      ([graphWord 0x38 4 0 0, 1, 2, 3, 4], .routeDispatch 1 2 3 4), ([graphWord 0x38 4 1 0, 1, 2, 3, 4], .routeCombine 1 2 3 4), ([graphWord 0x39 3 1 5, 1, 2, 3], .topk true 5 1 2 3),
      ([graphWord 0x3A 2 3 0, 1, 2], .fft true true 1 2), ([graphWord 0x40 2 8 1, 1, 2], .allreduce ⟨true, .max, 0, 1, 2⟩), ([graphWord 0x40 2 1 0, 1, 2], .reducescatter ⟨false, .add, 0, 1, 2⟩),
      ([graphWord 0x40 2 2 0, 1, 2], .allgather ⟨false, .add, 0, 1, 2⟩), ([graphWord 0x40 2 3 0, 1, 2], .alltoall ⟨false, .add, 0, 1, 2⟩),
      ([graphWord 0x40 2 4 0x50, 1, 2], .broadcast ⟨false, .add, 5, 1, 2⟩), ([graphWord 0x41 2 0 0, 1, 2], .reshard 1 2)]
    l.map (fun q => decodeGraph q.1) = l.map (fun q => .ok (q.2, [])) := by rfl

/-- R147: reasons of illegal bundles, those of R149's example among them, and R281's order of checks. -/
theorem test_decode_refuses :
    decodeBundle .prim 0 [0x0000000000400101, 0x01300605C0000000, 0x3E8, 0, 0x01C0080410000000, 0, 0, 0] = .error 4 ∧
    decodeBundle .prim 0 [0x0000000000400211, 0x01300605C0000000, 0x3E8, 0, 0x01C00805C0000000, 0, 0, 0] = .error 3 ∧
    decodeBundle .prim 0 [15, 0, 0, 0, 0, 0, 0, 0] = .error 2 ∧ decodeBundle .prim 0 [2 ^ 31, 0, 0, 0, 0, 0, 0, 0] = .error 1 ∧
    decodeBundle .prim 0 [0, 1, 0, 0, 0, 0, 0, 0] = .error 7 ∧ decodeBundle .sec 0 [2 ^ 30, 0, 0, 0, 0, 0, 0, 0] = .error 12 ∧
    decodeBundle .prim 0 [2 ^ 29, 0, 0, 0, 0, 0, 0, 0] = .error 9 ∧ decodeBundle .prim 0 [2 ^ 32, 0, 0, 0, 0, 0, 0, 0] = .error 10 ∧
    decodeBundle .prim 0 [2 ^ 28, slotWord 0x20 0 0 0 0 0 0 1, 0, 0, 0, 0, 0, 0] = .error 8 ∧ decodeSlot .prim .s (slotWord 0x2F 0 0 0 0 0 0 0) none = .error 5 ∧
    decodeSlot .prim .s (slotWord 0x24 0 0 0 0x39 0 0 0) none = .error 6 ∧ decodeSlot .prim .s (slotWord 0x25 0 0 0 5 0 0 0x80002) none = .error 13 ∧
    decodeGraph [0x0B000000] = .error .unknown ∧ decodeGraph [0x11300000, 0] = .error .structure ∧ decodeGraph [0x11300000, 1, 1, 1] = .error .malformed := by
  refine ⟨?_, ?_, ?_, ?_, ?_, ?_, ?_, ?_, ?_, ?_, ?_, ?_, ?_, ?_, ?_⟩ <;> rfl

/-! ### Small states

`core`: core 0 of cluster 0 runs member 0 of gang 1 of context 0; `seqr`: sequencer 0 runs context 0. Object 1 lies in scratchpad, 2 in shared
bank memory, 3 in the fast tier, 4 in capacity memory. -/

def obj (sp : Fin 5) (base : Nat) : ObjEnt := ⟨sp, 0, 0x40000, 0xFFFF, 0, true, 0, base, 0⟩
def hnd (oid : Nat) : Handle := Handle.make oid 0xFA 0 0 0x1000 0
def memb : Member :=
  { pep := 0, sep := none, tiles := [], phase := 0, claim := none, st := .running 0, sends := [], lent := 0, drain := none, barrier := none, held := [], retry := 0, retryAt := 0 }
def gang1 : Gang :=
  { gk := 1, ctx := 0, clu := 0, st := .resident, trapped := false, arrival := 0, admitted := 0, code := hnd 3, dem := 0, engs := [], wlp := false,
    cohort := none, members := [memb], jobs := [], gargs := [], hargs := [], oids := [], tix := 0, bpc := 0, opc := 0, sq := 0, lib := [],
    descs := [], coll := [], deadline := none, waiter := none, ackd := false }
def ctx0 : Context :=
  { Context.reset with
    st := .running, clset := 1, quota := 0x100000, bpc := 100
    objs := [(1, some (obj 0 0)), (2, some (obj 1 0)), (3, some (obj 2 0)), (4, some (obj 3 0))]
    exts := [(3, [⟨1, false, 4, 0, 0, 16⟩])] }
def prim0 : Stream := { Stream.reset with pc := 128, npc := 192, g := [(1, 5), (2, 64), (3, 0xFFFFFFFFFFFFFFFF)] }
def eng0 : Engine :=
  { Engine.reset with prim := prim0, gang := some 1, holder := some 1, stat := .running, h := [(1, hnd 1), (2, hnd 2), (3, hnd 3), (4, hnd 4)] }
def core : State :=
  { State.reset with focus := ⟨0, false⟩, clk := 1000, nextId := 10, ctxs := [(0, ctx0)], gangs := [gang1], engines := [(0, eng0)] }
def withCore (f : Engine → Engine) : State := { core with engines := [(0, f eng0)] }
def withPrim (f : Stream → Stream) : State := withCore fun x => { x with prim := f x.prim }

/-! ### Witnesses: the S slot -/

theorem witness_ScalarArithmetic : (∃ (x : SBin) (a b : Word), x.t.isInt = true ∧ core.enabled x.pr = true ∧ core.g? x.t x.a = some a ∧
    core.g? x.t x.b = some b ∧ rdInt x.t b.toNat = 0) ∧
    ∃ (x : SBin) (a b : Word), x.t.isInt = true ∧ core.enabled x.pr = true ∧ core.g? x.t x.a = some a ∧
      core.g? x.t x.b = some b ∧ rdInt x.t b.toNat ≠ 0 ∧ x.sat = true :=
  ⟨⟨⟨.i32, false, .reg 3, .reg 1, .reg 0, .always⟩, 5, 0, by decide⟩, ⟨.n8, true, .que, .reg 3, .reg 2, .always⟩, 0xFFFFFFFFFFFFFFFF, 64, by decide⟩

theorem witness_ScalarBits : ∃ (x : SBin) (a b : Word), x.t.isInt = true ∧ core.enabled x.pr = true ∧ core.g? x.t x.a = some a ∧
    core.g? x.t x.b = some b ∧ core.g? .n64 x.b = some b ∧ x.t.width ≤ b.toNat :=
  ⟨⟨.i32, true, .reg 3, .reg 1, .reg 2, .always⟩, 5, 64, by decide⟩

theorem witness_ScalarUnaryAndSelect : core.enabled .always = true ∧ core.g? .i64 (.reg 1) = some 5 ∧ core.g? .i64 (.reg 2) = some 64 ∧
    core.g? .i64 (.reg 3) = some 0xFFFFFFFFFFFFFFFF ∧ ElemType.i64.isInt = true ∧ (0 : BitVec 6).toNat + (63 : BitVec 6).toNat + 1 ≤ ElemType.i64.width := by
  decide

theorem witness_PredicateMasks : ElemType.i8 ≠ .dx4 ∧ core.g? .n64 (.reg 1) = some 5 := by decide

theorem witness_ControlTransfers : core.enabled .always = true ∧ (core.fs.pc + 64 * (2 : BitVec 15).signExtend 64).toNat % 64 = 0 ∧
    core.g? .n64 (.reg 0) = some 0 ∧ core.g? .n64 (.reg 2) = some 64 ∧ (64 : Word).toNat % 64 = 0 ∧
    condHolds .lt .i64 0 64 = true ∧ condHolds .eq .i64 0 64 = false := by decide

/-- The loop stack empty, with room inside an outer entry, and with an innermost entry that ends at this bundle. -/
theorem witness_Loops :
    let e : LoopEnt := ⟨64, 1024, 3, 2, true, 1⟩
    let s := withPrim fun y => { y with loops := [e], nloops := [{ e with stop := 128 }] }
    (core.g? .n64 (.reg 0) = some 0 ∧ core.fs.loops.length < 6 ∧ ∀ e ∈ core.fs.loops.head?, core.fs.pc.toNat + 64 * (4095 : BitVec 12).toNat < e.stop.toNat) ∧
    (s.g? .n64 (.reg 1) = some 5 ∧ s.fs.loops.length < 6 ∧ ∀ e ∈ s.fs.loops.head?, s.fs.pc.toNat + 64 * (13 : BitVec 12).toNat < e.stop.toNat) ∧
    (s.fs.nloops = [{ e with stop := 128 }] ∧ ({ e with stop := 128 } : LoopEnt).stop = s.fs.pc) ∧ s.enabled .always = true ∧ s.fs.loops = [e] := by
  decide

theorem witness_SlackAndCsrs : core.enabled .always = true ∧ core.g? .n64 (.reg 1) = some 5 ∧ core.focus.eng < 48 ∧ core.fe.gang = some 1 ∧
    core.g? .n64 (.reg 3) = some 0xFFFFFFFFFFFFFFFF ∧ 6 ≤ (0xFFFFFFFFFFFFFFFF : Word).toNat % 8 ∧ State.reset.enabled .always = true ∧
    48 ≤ State.reset.focus.eng := by decide

theorem witness_ServiceCallsAndUserTrap :
    let s := withCore fun x => { x with sends := [⟨3, false, some 9⟩] }
    (core.fe.sends.any fun y => y.port == 3) = false ∧ (tget [] (core.ctx core.fctx).ports 3).length < 64 ∧ core.windowOpen = false ∧
    releaseOk core.accs core.focus.eng core.focus.sec core.nextId .dev 0xFFFF = true ∧ (s.fe.sends.any fun y => y.port == 3) = true ∧
    (s.fe.sends.find? fun y => y.port == 3) = some ⟨3, false, some 9⟩ ∧ (core.fe.sends.find? fun y => y.port == 3) = none ∧
    core.g? .n64 (.reg 1) = some 5 ∧ core.enabled .always = true := by decide

/-! ### Witnesses: the A slots -/

theorem witness_HandleArithmetic : core.enabled .always = true ∧ core.g? .i64 (.reg 1) = some 5 ∧ core.g? .n64 (.reg 3) = some 0xFFFFFFFFFFFFFFFF := by decide

theorem admits_parts (s : State) (h : Handle) (parts : List Part) (x : ObjEnt) (locs : List (Part × Nat)) (h0 : parts ≠ [])
    (h1 : s.objEnt s.fctx h.oid = some x)
    (h2 : isSeq s.focus.eng = true ∨ (h.oid ≠ cqOid ∧ (s.clu (cluOf s.focus.eng)).hscfg.getLsbD 0 = false ∧ (x.space.val = 0 → x.clu = cluOf s.focus.eng)))
    (h3 : isSeq s.focus.eng = true → x.space.val ≠ 0) (h4 : s.placeParts s.fctx h.oid x parts = locs.map (fun q => (q.1, .at_ q.2))) :
    ∃ ps, Admits s h parts x ps := ⟨_, h0, h1, h2, h3, locs, h4, rfl⟩

/-- Objects of every tier that a core's port admits, up to the last aligned word of the bounds. -/
theorem witness_LoadsAndAtomicsAreSent :
    (∀ q ∈ [((1 : Fin 16), 0, locSp 0 0), (2, 1, locSbm 0), (3, 2, locFast 0 0x100000), (4, 3, locCap 0)], ∃ o,
      Permits (core.h q.1) rR 0 16 ∧ Permits (core.h q.1) rA 0 8 ∧ o.space.val = q.2.1 ∧ core.place core.fctx (core.h q.1).oid o 0 = .at_ q.2.2 ∧
      core.exportBars core.fctx (core.h q.1).oid false = false ∧ (∃ ps, Admits core (core.h q.1) [⟨0, 0, 8, 0⟩] o ps) ∧ ∃ ps, Admits core (core.h q.1) [⟨0, 0, 16, 0⟩] o ps) ∧
    Permits (core.h 2) rR 0x3FFF8 8 ∧ core.g? .i64 (.reg 0) = some 0 ∧ core.windowOpen = false ∧ (core.fs.tok 0).toNat + 1 < 2 ^ 32 := by
  refine ⟨?_, by unfold Permits; decide, by decide, by decide, by decide⟩
  intro q hq
  simp only [List.mem_cons, List.not_mem_nil, or_false] at hq
  rcases hq with rfl | rfl | rfl | rfl
  · exact ⟨obj 0 0, by unfold Permits; decide, by unfold Permits; decide, rfl, by decide +kernel, by decide,
      admits_parts _ _ _ _ [(⟨0, 0, 8, 0⟩, locSp 0 0)] (by decide) rfl (by decide) (by decide) (by decide +kernel),
      admits_parts _ _ _ _ [(⟨0, 0, 16, 0⟩, locSp 0 0)] (by decide) rfl (by decide) (by decide) (by decide +kernel)⟩
  · exact ⟨obj 1 0, by unfold Permits; decide, by unfold Permits; decide, rfl, by decide +kernel, by decide,
      admits_parts _ _ _ _ [(⟨0, 0, 8, 0⟩, locSbm 0)] (by decide) rfl (by decide) (by decide) (by decide +kernel),
      admits_parts _ _ _ _ [(⟨0, 0, 16, 0⟩, locSbm 0)] (by decide) rfl (by decide) (by decide) (by decide +kernel)⟩
  · exact ⟨obj 2 0, by unfold Permits; decide, by unfold Permits; decide, rfl, by decide +kernel, by decide,
      admits_parts _ _ _ _ [(⟨0, 0, 8, 0⟩, locFast 0 0x100000)] (by decide) rfl (by decide) (by decide) (by decide +kernel),
      admits_parts _ _ _ _ [(⟨0, 0, 16, 0⟩, locFast 0 0x100000)] (by decide) rfl (by decide) (by decide) (by decide +kernel)⟩
  · exact ⟨obj 3 0, by unfold Permits; decide, by unfold Permits; decide, rfl, by decide +kernel, by decide,
      admits_parts _ _ _ _ [(⟨0, 0, 8, 0⟩, locCap 0)] (by decide) rfl (by decide) (by decide) (by decide +kernel),
      admits_parts _ _ _ _ [(⟨0, 0, 16, 0⟩, locCap 0)] (by decide) rfl (by decide) (by decide) rfl⟩

/-! ### Witnesses: vector results exist, whatever the elements are -/

theorem bits_exist {w : Nat} (f : Nat → Bool) : ∃ v : BitVec w, ∀ i, i < w → v.getLsbD i = f i :=
  ⟨(BitVec.iunfoldr (fun (i : Fin w) (_ : Unit) => ((), f i.val)) ()).2, fun i h =>
    BitVec.iunfoldr_getLsbD (f := fun (i : Fin w) (_ : Unit) => ((), f i.val)) (fun _ => ()) ⟨i, h⟩ (fun _ => rfl)⟩

theorem lanes_exist (t : ElemType) (f : Nat → Nat) : ∃ v : Vec, ∀ i, i < t.lanes → lane t v i = f i % 2 ^ t.width := by
  obtain ⟨v, hv⟩ := bits_exist (w := 2048) fun j => (f (j / t.width)).testBit (j % t.width)
  refine ⟨v, fun i hi => Nat.eq_of_testBit_eq fun k => ?_⟩
  have hw : t.lanes * t.width = 2048 ∧ 0 < t.width := by cases t <;> decide
  unfold lane
  rw [Nat.testBit_mod_two_pow, Nat.testBit_mod_two_pow, Nat.testBit_div_two_pow]
  by_cases hk : k < t.width
  · have hj : i * t.width + k < 2048 := by
      have := Nat.mul_le_mul_right t.width (Nat.succ_le_of_lt hi)
      rw [hw.1, Nat.succ_mul] at this; omega
    have h := hv _ hj
    rw [show (i * t.width + k) / t.width = i by
      rw [Nat.mul_comm, Nat.mul_add_div hw.2, Nat.div_eq_of_lt hk, Nat.add_zero],
      show (i * t.width + k) % t.width = k by rw [Nat.mul_comm, Nat.mul_add_mod, Nat.mod_eq_of_lt hk]] at h
    simp only [hk, decide_true, Bool.true_and]
    rw [← h, BitVec.getLsbD, Nat.add_comm]
  · simp [hk]

theorem writes_exist (L : Nat) (m : PredBits) (v : Vec) (fl : Flags) (s : State) : ∃ u, WritesV L m v fl .que s u := ⟨_, .que s⟩

theorem results_exist (s : State) (L : Nat) (t : ElemType) (act : PredBits) (f : Nat → Nat × Flags) :
    ∃ d u, VGives s d L t act f u := by
  obtain ⟨v, hv⟩ := lanes_exist t fun i => (f i).1
  obtain ⟨m, hm⟩ := bits_exist (w := 256) fun j => act.getLsbD (j * 8 / t.width * t.width / 8)
  obtain ⟨fl, hf⟩ := bits_exist (w := 4) fun k => decide (∃ i, i < t.lanes ∧ act.getLsbD (i * t.width / 8) = true ∧ (f i).2.getLsbD k = true)
  obtain ⟨u, hu⟩ := writes_exist L m v fl s
  exact ⟨.que, u, m, v, fl, hv, hm, fun k hk => by rw [hf k hk]; simp, hu⟩

/-- A bound read stream with one element fetched, and a write stream with room. -/
def geo0 : List Word := [0x400003, 0, 0, 0]
def streams : State :=
  withCore fun x => { x with binds := [(0, some ⟨1, false, hnd 1, geo0, 0, 3, [7]⟩), (1, some ⟨2, true, hnd 1, geo0, 0, 3, []⟩)], vq := [⟨9, .ready⟩, ⟨8, .at 5000⟩] }

/-- Each kind of v source can be read, and each kind of v destination written, at the last element of a stream. -/
theorem witness_ReadsV (t : ElemType) :
    ReadsV t (.reg 3) streams streams 0 ∧ ReadsV t (.que 0) streams streams 9 ∧ ReadsV t (.que 5) streams streams 0 ∧
    (∃ s', ReadsV t (.strm 0) streams s' 7) ∧ (∃ u, WritesV 1 everyByte 5 0 (.reg 3) streams u) ∧ ∃ u, WritesV 1 everyByte 5 0 (.strm 1) streams u :=
  ⟨.reg 3 streams, .queFilled 0 streams ⟨9, .ready⟩ [⟨8, .at 5000⟩] rfl rfl, .queEmpty 5 streams rfl,
    ⟨_, .strm 0 streams ⟨1, false, hnd 1, geo0, 0, 3, [7]⟩ 7 [] rfl rfl (by decide) rfl⟩, ⟨_, .reg 3 streams⟩,
    ⟨_, .strm 1 streams ⟨2, true, hnd 1, geo0, 0, 3, []⟩ rfl rfl (by decide)⟩⟩

/-- A load of elements up to the last one of the bounds, and one of no element. -/
theorem witness_VectorLoadsAreSent :
    let at_ : Nat → Int := fun k => ((core.h 2).cur : Int) + (0 : Word).toInt * 2 ^ (0 : BitVec 3).toNat + (k : Int) * (ElemType.f64.width / 8 : Nat)
    (∀ k ∈ activeLanes core .f64 .always, Permits (core.h 2) rR (at_ k) 8 ∧ at_ k % 8 = 0) ∧ (core.fs.tok 0).toNat + 1 < 2 ^ 32 ∧
    core.g? .i64 (.reg 0) = some 0 ∧ activeLanes core .f64 .always ≠ [] ∧ activeLanes core .f64 (.on false 0) = [] ∧
    (∃ ps, Admits core (core.h 2) ((activeLanes core .f64 .always).map fun k => ⟨k * 8, (at_ k).toNat, 8, 0⟩) (obj 1 0) ps) ∧
    Permits (core.h 2) rR (0x40000 - 8) 8 ∧ ReadsV ElemType.i64 (.reg 3) core core 0 := by
  refine ⟨by unfold Permits; decide, by decide, by decide, by decide, by decide, ?_, by unfold Permits; decide, .reg 3 core⟩
  exact admits_parts _ _ _ _ ((activeLanes core .f64 .always).map fun k => (⟨k * 8, k * 8, 8, 0⟩, locSbm (k * 8)))
    (by decide) rfl (by decide) (by decide) rfl

theorem witness_VectorStoresAreSent :
    let at_ : Nat → Int := fun k => ((core.h 2).cur : Int) + (0 : Word).toInt * 2 ^ (0 : BitVec 3).toNat + (k : Int) * (ElemType.f64.width / 8 : Nat)
    (∀ k ∈ activeLanes core .f64 .always, Permits (core.h 2) rW (at_ k) 8 ∧ at_ k % 8 = 0) ∧ core.g? .i64 (.reg 0) = some 0 ∧
    activeLanes core .f64 .always ≠ [] ∧ activeLanes core .f64 (.on false 0) = [] ∧ ReadsV ElemType.f64 (.reg 3) core core 0 ∧
    ∃ ps, Admits core (core.h 2) ((activeLanes core .f64 .always).map fun k => ⟨k * 8, (at_ k).toNat, 8, lane .f64 0 k⟩) (obj 1 0) ps := by
  refine ⟨by unfold Permits; decide, by decide, by decide, by decide, .reg 3 core, ?_⟩
  exact admits_parts _ _ _ _ ((activeLanes core .f64 .always).map fun k => (⟨k * 8, k * 8, 8, 0⟩, locSbm (k * 8)))
    (by decide) (by decide +kernel) (by decide) (by decide) (by decide +kernel)

/-- Stores of a word and of a handle, at the first and at the last place of the bounds. -/
theorem witness_StoresAreSent :
    Permits (core.h 2) rW 0 8 ∧ Permits (core.h 2) rW (0x40000 - 16) 16 ∧ (Ann.rl.isRl && core.windowOpen) = false ∧
    core.g? .i64 (.reg 0) = some 0 ∧ core.g? .n64 (.reg 1) = some 5 ∧ (∃ ps, Admits core (core.h 2) [⟨0, 0, 8, 5⟩] (obj 1 0) ps) ∧
    (∃ ps, Admits core (core.h 2) [⟨0, 0x3FFF0, 16, (core.h 1).bits.toNat⟩] (obj 1 0) ps) ∧
    core.place core.fctx (core.h 2).oid (obj 1 0) 0x3FFF0 = .at_ (locSbm 0x3FFF0) ∧ core.exportBars core.fctx (core.h 2).oid true = false := by
  refine ⟨by unfold Permits; decide, by unfold Permits; decide, by decide, by decide, by decide,
    admits_parts _ _ _ _ [(⟨0, 0, 8, 5⟩, locSbm 0)] (by decide) rfl (by decide) (by decide) (by decide +kernel),
    admits_parts _ _ _ _ [(⟨0, 0x3FFF0, 16, (core.h 1).bits.toNat⟩, locSbm 0x3FFF0)] (by decide) rfl (by decide) (by decide) (by decide +kernel), by decide +kernel, by decide⟩

/-- A cache with an invalid way, and one whose ways are all taken. -/
def cache : Cluster := { Cluster.reset with cacheK := 7, cacheB := 64 }
def cacheFull : Cluster := { cache with tagTable := [(0, .valid 9 1), (1, .valid 9 2), (2, .valid 9 3), (3, .valid 9 4)], rot := [(0, 3)] }
def cached : State := { core with clusters := [(0, cache)] }

theorem witness_FenceAndProbe :
    core.enabled .always = true ∧ (Scope.dev != .stream && core.windowOpen) = false ∧ core.g? .i64 (.reg 0) = some 0 ∧
    Permits (cached.h 2) rR 0 1 ∧ (cached.h 2).has rS = false ∧ (cached.clu 0).cacheB ≠ 0 ∧ cache.probe 0 2 0 = .victim 0 false ∧
    cacheFull.probe 0 2 0 = .victim 3 true ∧ cacheFull.probe 0 9 4 = .hit 3 ∧ (core.fs.tok 0).toNat + 2 ^ cache.cacheK < 2 ^ 32 := by
  unfold Permits; decide

theorem geo0_aligned : ∀ w ∈ geo0, geoStride w % 64 = 0 := by
  intro w hw
  simp only [geo0, List.mem_cons, List.not_mem_nil, or_false] at hw
  rcases hw with rfl | rfl | rfl | rfl
  · rw [show geoStride 0x400003 = 64 from by decide]; rfl
  all_goals decide

theorem witness_Streams :
    Permits (core.h 1) rR (0 + (geoSpan geo0).1) 256 ∧ Permits (core.h 1) rR (0 + (geoSpan geo0).2) 256 ∧ (0 : Word).toInt % 64 = 0 ∧
    (∀ w ∈ geo0, geoStride w % 64 = 0) ∧ (core.h 1).has rS = false ∧ core.objEnt core.fctx (core.h 1).oid = some (obj 0 0) ∧
    (obj 0 0).space.val = 0 ∧ (obj 0 0).clu = cluOf core.focus.eng ∧ (core.fs.tok 7).toNat + 1 < 2 ^ 32 ∧
    (withPrim fun y => { y with lags := List.replicate 15 ⟨3, 0, .strm none⟩ }).fe.strmBuf < 16 ∧
    16 ≤ (withPrim fun y => { y with lags := List.replicate 16 ⟨3, 0, .strm (some 2)⟩ }).fe.strmBuf :=
  ⟨by unfold Permits; decide, by unfold Permits; decide, by decide, geo0_aligned, by decide⟩

/-! ### Witnesses: the V slots (`results_exist` and `writes_exist` give the next state of every form) -/

theorem witness_VectorIntegers : ∃ (x : VBin) (y : VUn), x.t.isInt = true ∧ y.t.isInt = true ∧ x.t.isSigned = true ∧ y.t.isSigned = false ∧
    ReadsV x.t x.a core core 0 ∧ ReadsV x.t x.b core core 0 ∧ ReadsV x.t.unsignedOf x.b core core 0 ∧ ReadsV y.t y.a core core 0 :=
  ⟨⟨.i32, .rne, true, .que, .reg 1, .reg 2, .always⟩, ⟨.n8, .rne, false, .que, .reg 1, .always⟩, rfl, rfl, rfl, rfl, .reg 1 core, .reg 2 core,
    .reg 2 core, .reg 1 core⟩

theorem witness_VectorFloats : ∃ (x : VBin) (y : VUn) (z : VTri), isFloat x.t = true ∧ isFloat y.t = true ∧ isFloat z.t = true ∧
    ReadsV x.t x.a core core 0 ∧ ReadsV x.t x.b core core 0 ∧ ReadsV y.t y.a core core 0 ∧ ReadsV z.t z.a core core 0 ∧
    ReadsV z.t z.b core core 0 ∧ ReadsV z.t z.c core core 0 :=
  ⟨⟨.f64, .rne, true, .que, .reg 1, .reg 2, .always⟩, ⟨.bf16, .rne, false, .que, .reg 1, .always⟩, ⟨.f16, .rne, false, .que, .reg 1, .reg 2, .reg 3, .always⟩,
    rfl, rfl, rfl, .reg 1 core, .reg 2 core, .reg 1 core, .reg 1 core, .reg 2 core, .reg 3 core⟩

/-- The types that the forms ask for, and an index at the last element and beyond. -/
theorem witness_VectorCompareAndMove : ElemType.f32 ≠ .dx4 ∧ core.g? .f32 (.reg 1) = some 5 ∧ core.g? .n64 (.reg 1) = some 5 ∧
    (5 : Word).toNat < ElemType.f32.lanes ∧ ¬ (64 : Word).toNat < ElemType.f32.lanes ∧ core.g? .n64 (.reg 2) = some 64 := by decide

/-- A widening and a narrowing conversion, without and with draws. -/
theorem witness_VectorConvertDotAndSpecial : ElemType.f32.width ≥ ElemType.i8.width ∧ ElemType.f16.width < ElemType.f32.width ∧
    dotAcc .i8 = some (.i32, 4) ∧ Draws .rne 64 core core (fun _ => 0) ∧
    (∃ r t, Draws .sr 4 core t r) ∧ ReadsV ElemType.f32 (.reg 1) core core 0 := by
  refine ⟨by decide, by decide, by decide, ⟨rfl, fun _ => rfl⟩, ⟨fun i => ((drawsFrom 4 core.fe.rseed).1.getD i 0), _, rfl, ?_⟩, .reg 1 core⟩
  intro i hi
  have : (drawsFrom 4 core.fe.rseed).1.length = 4 := by decide
  simp only [List.getD_eq_getElem?_getD, List.getElem?_eq_getElem (show i < (drawsFrom 4 core.fe.rseed).1.length by omega), Option.getD_some]

theorem witness_VectorReducePermuteAndPack : ElemType.f32 ≠ .dx4 ∧ ElemType.i32.isInt = true ∧ ReadsV ElemType.i32 (.reg 1) core core 0 ∧
    (∃ v : Vec, ∀ i, i < ElemType.i32.lanes → lane .i32 v i = ((rangeFrom 0 (i + 1)).map fun k =>
      if (core.active .always).getLsbD (k * ElemType.i32.width / 8) then lane .i32 0 k else 0).sum % 2 ^ ElemType.i32.width) ∧
    (∃ v : Vec, ∀ i, i < ElemType.i32.lanes → lane .i32 v i = ((activeLanes core .i32 .always).map (lane .i32 0)).getD i 0) ∧
    (none : Option VSrc) = none ∧ Draws .rne 64 core core (fun _ => 0) := by
  refine ⟨by decide, by decide, .reg 1 core, ?_, ⟨0, by decide +kernel⟩, rfl, rfl, fun _ => rfl⟩
  exact lanes_exist .i32 _

/-! ### Witnesses: the M slot -/

theorem tile_core (k : Nat) (hk : (Handle.make 1 0xFA 0 0 0x1000 0).has k = true) (a : Int) (rows bytes stride : Nat)
    (h : 0 ≤ a ∧ a + bytes ≤ 0x40000 ∧ 0 ≤ a + (rows - 1) * stride ∧ a + (rows - 1) * stride + bytes ≤ 0x40000 ∧ a % 64 = 0 ∧ stride % 64 = 0 ∧
      a.toNat + (rows - 1) * stride + bytes ≤ 0x40000) :
    Tile core (core.h 1) k a rows bytes stride (locSp 0 a.toNat) :=
  ⟨⟨rfl, hk, h.1, h.2.1⟩, ⟨rfl, hk, h.2.2.1, h.2.2.2.1⟩, h.2.2.2.2.1, h.2.2.2.2.2.1, fun _ => rfl, obj 0 0, rfl, rfl, rfl, h.2.2.2.2.2.2,
    by simp [obj]⟩

def planed : State := withCore fun x => { x with ps1 := some ⟨true, [], 500, false⟩, lastMsca := some 996 }

/-- A window of an operation that is open until a clk, MZERO of accumulator 5 waiting for it, with the operand bytes of its issue. -/
def openWindow (op : ChanOp) (close : Nat) : State := withCore fun x => { x with
  ps0 := some ⟨true, [], 500, false⟩, chan := some ⟨op, close, core.operands 0 op, 0, [.zero 5]⟩ }

theorem view_plain (s : State) (e id : Nat) (h : s.accs = []) : ∀ n l, s.view e false id l n = (rangeFrom l n).map (mget s.mem)
  | 0, _ => rfl
  | n + 1, l => by
    rw [State.view, view_plain s e id h n (l + 1)]
    simp only [State.viewByte, State.seenBy, newest, h, List.foldl_nil, rangeFrom, List.map_cons]

theorem operands_plain (s : State) (e : Nat) (op : ChanOp) (h : s.accs = []) :
    s.operands e op = op.reads.flatMap fun q => (rangeFrom q.1 q.2.1).map (mget s.mem) := by
  simp only [State.operands, State.primBytes, view_plain s _ _ h]

theorem rangeFrom_length : ∀ n l, (rangeFrom l n).length = n
  | 0, _ => rfl
  | n + 1, l => by simp only [rangeFrom, List.length_cons, rangeFrom_length n (l + 1)]

/-- A window of every operation that has closed with its operand bytes as they stood, and one that is open with a row to write. -/
theorem witness_MatrixWindows (op : ChanOp) (close : Nat) :
    let s := openWindow op close
    let c := s.commitDue 0 false
    (c.eng 0).chan = some ⟨op, close, core.operands 0 op, 0, [.zero 5]⟩ ∧ c.operands 0 op = core.operands 0 op ∧
    (core.operands 0 op).length = (op.reads.map (·.2.1)).sum ∧ (c.eng 0).planeSet false = some ⟨true, [], 500, false⟩ ∧ (900 : Nat) ≤ s.clk.toNat ∧
    s.clk.toNat < 1500 ∧ 0 < 128 := by
  refine ⟨rfl, ?_, ?_, rfl, by show (900 : Nat) ≤ 1000; decide, by show (1000 : Nat) < 1500; decide, by decide⟩
  · rw [operands_plain _ _ _ rfl, operands_plain core _ _ rfl]; rfl
  · rw [operands_plain core _ _ rfl, List.length_flatMap]
    simp only [List.length_map, rangeFrom_length]

/-- Tiles of every operation on core 0, the last ending at the bound of the object. -/
theorem witness_MatrixProducts : core.enabled .always = true ∧ core.g? .n64 (.reg 0) = some 0 ∧ core.fe.chanFree ≤ core.clk.toNat ∧
    Tile core (core.h 1) rR ((core.h 1).cur + sfld 0 0 32) 128 256 256 (locSp 0 0) ∧
    Tile core (core.h 1) rR ((core.h 1).cur + sfld 0 32 32) 128 512 512 (locSp 0 0) ∧
    Tile core (core.h 1) rR (0x40000 - 98304) 1 98304 0 (locSp 0 (0x40000 - 98304)) ∧
    Tile core (core.h 1) rR ((core.h 1).cur + sfld 0 0 32) 1 (512 * 8) 0 (locSp 0 0) ∧
    core.fe.planeSet false = none ∧ ReadsV .n16 (.reg 1) core core 0 ∧
    (planed.closeDue planed.focus.eng).fe.planeSet true = some ⟨true, [], 500, false⟩ ∧ 500 ≤ planed.clk.toNat ∧
    (∀ c, planed.fe.lastMsca = some c → c + 4 ≤ planed.clk.toNat) ∧ Untouched (planed.closeDue planed.focus.eng).fe 3 ∧
    ∃ j, ((openWindow (.mldacc 3 (locSp 0 0) 1024) 1500).closeDue 0).fe.chan = some j ∧ j.op.touches 3 = true ∧ j.op.touches 4 = false := by
  refine ⟨by decide, by decide, by decide, tile_core rR rfl 0 128 256 256 (by decide), tile_core rR rfl 0 128 512 512 (by decide),
    tile_core rR rfl (0x40000 - 98304) 1 98304 0 (by decide), tile_core rR rfl 0 1 4096 0 (by decide), by decide, .reg 1 core, by decide, by decide, ?_, ?_,
    ⟨_, rfl, by decide, by decide⟩⟩
  · intro c hc
    have : (some 996 : Option Nat) = some c := hc
    injection this; subst c; decide
  · intro j hj
    exact absurd (show (none : Option ChanJob) = some j from hj) (by simp)

theorem badMask_replicate (n m : Nat) (h : popNat 128 m = n) : ∀ k i, badMask n i (List.replicate k m) = none
  | 0, _ => rfl
  | k + 1, i => by simp only [List.replicate_succ, badMask, h, ne_eq, not_true_eq_false, if_false]; exact badMask_replicate n m h k (i + 1)

theorem chunks_replicate {α : Type} (x : α) (n : Nat) (hn : 0 < n) : ∀ k, chunks n k (List.replicate (n * k) x) = List.replicate k (List.replicate n x)
  | 0 => rfl
  | k + 1 => by
    have h : (List.replicate (n * (k + 1)) x).isEmpty = false := by
      rw [show n * (k + 1) = (n * (k + 1) - 1) + 1 by have := Nat.mul_le_mul_left n (Nat.le_add_left 1 k); omega]; rfl
    rw [chunks, h]
    simp only [Bool.false_eq_true, if_false, List.take_replicate, List.drop_replicate]
    rw [show min n (n * (k + 1)) = n by rw [Nat.mul_succ]; omega, show n * (k + 1) - n = n * k by rw [Nat.mul_succ]; omega,
      chunks_replicate x n hn k, List.replicate_succ]

theorem view_filled (s : State) (e id : Nat) (b : Byte) (h : s.accs = []) : ∀ n l, (∀ a, l ≤ a → a < l + n → mget s.mem a = b) →
    s.view e false id l n = List.replicate n b
  | 0, _, _ => rfl
  | n + 1, l, hm => by
    rw [State.view, view_filled s e id b h n (l + 1) (fun a h1 h2 => hm a (by omega) (by omega)), List.replicate_succ]
    simp only [State.viewByte, State.seenBy, newest, h, List.foldl_nil, hm l (Nat.le_refl l) (by omega)]

/-- Masks of zero bits, and masks of 64 set bits each. -/
def masked : State := { core with mem := mputs [] (locSp 0 65536) (List.replicate 16384 0x55) }

theorem witness_sparse_masks : badMask 64 0 ((chunks 16 (256 * 4) (core.tileBytes (locSp 0 65536) 16384)).map leNat) = some 0 ∧
    badMask 64 0 ((chunks 16 (256 * 4) (masked.tileBytes (locSp 0 65536) 16384)).map leNat) = none := by
  refine ⟨by decide +kernel, ?_⟩
  have h : masked.tileBytes (locSp 0 65536) 16384 = List.replicate (16 * (256 * 4)) 0x55 := by
    refine view_filled masked _ _ 0x55 rfl 16384 _ fun a h1 h2 => ?_
    show mget (mputs [] (locSp 0 65536) (List.replicate 16384 0x55)) a = 0x55
    rw [mget_mputs, List.length_replicate, if_pos ⟨h1, h2⟩, List.getD_eq_getElem?_getD, List.getElem?_replicate, if_pos (by omega)]; rfl
  rw [h, chunks_replicate _ _ (by decide), List.map_replicate]
  exact badMask_replicate 64 _ (by decide +kernel) _ 0

def drainW : MMdrainW := ⟨.f32, .f32, .rne, false, 2, 1, .reg 0, .always⟩

/-- Rows of an accumulator in scratchpad, and rows of a long drain into the fast tier. -/
theorem witness_MatrixMoves : core.enabled .always = true ∧ core.g? .n64 (.reg 0) = some 0 ∧ core.fe.chanFree ≤ core.clk.toNat ∧
    Tile core (core.h 1) rR ((core.h 1).cur + sfld 0 0 32) 128 1024 1024 (locSp 0 0) ∧
    Tile core (core.h 1) rW ((core.h 1).cur + sfld 0 0 32) 128 1024 1024 (locSp 0 0) ∧ core.rowsClear (locSp 0 0) 128 1024 1024 = true ∧
    core.drainMode drainW ≠ .sr ∧ core.objEnt core.fctx (core.h 3).oid = some (obj 2 0) ∧ (obj 2 0).space.val ≠ 0 ∧ (obj 2 0).space.val ≠ 4 ∧
    (core.h 3).has rS = false ∧ Permits (core.h 3) rW 0x20000 1024 ∧ Permits (core.h 3) rW (0x20000 + 127 * 1024) 1024 ∧
    tget 0 core.fe.accFree 7 ≤ core.clk.toNat ∧ core.fe.row < 256 ∧
    ({ core with base := 13, nextId := 13, accs := [{ sent core .store 0 .plain .stream .n64 (hnd 1) (obj 0 0) [⟨0, locSp 0 8, 8, 1⟩] none .none none with id := 12 }] } : State).rowsClear
      (locSp 0 0) 128 1024 1024 = false :=
  ⟨by decide, by decide, by decide, tile_core rR rfl 0 128 1024 1024 (by decide), tile_core rW rfl 0 128 1024 1024 (by decide),
    by decide, by decide, by decide, by decide, by decide, by decide, by unfold Permits; decide, by unfold Permits; decide, by decide, by decide, by decide⟩

/-- A held mask fault, a plane set due, and a long drain at row 0 and at its last row. -/
def draining (r : Nat) : State :=
  withCore fun x => { x with
    sparse := some ⟨3, 255, 1000, 64⟩, ps0 := some ⟨true, [], 1000, false⟩, drn := true, row := r
    drain := some ⟨{ drainW with h := 3 }, 0, 1024, hnd 3, 64, false⟩ }

theorem witness_MatrixEvents : ∀ r ∈ [0, 127],
    ((draining r).eng 0).sparse = some ⟨3, 255, 1000, 64⟩ ∧ ((draining r).eng 0).gang = some 1 ∧
    (((draining r).closeDue 0).eng 0).planeSet false = some ⟨true, [], 1000, false⟩ ∧ 1000 ≤ (draining r).clk.toNat ∧
    ((draining r).eng 0).drain = some ⟨{ drainW with h := 3 }, 0, 1024, hnd 3, 64, false⟩ ∧ (draining r).objEnt ((draining r).ctxOf 0) 3 = some (obj 2 0) ∧
    granPieces (0 + r * 1024) 1024 = [(0 + r * 1024, 1024)] ∧ (0 + r * 1024) + 1024 ≤ (obj 2 0).size ∧
    (draining r).place ((draining r).ctxOf 0) 3 (obj 2 0) (0 + r * 1024) = .at_ (locFast 0 (0x100000 + r * 1024)) ∧
    (draining r).clearFor 0 (locFast 0 (0x100000 + r * 1024)) 1024 = true ∧ (draining r).loadsDone 0 (locFast 0 (0x100000 + r * 1024)) 1024 = true ∧ (draining r).migBlocked (locFast 0 (0x100000 + r * 1024)) 1024 = false ∧
    (draining r).guarded (locFast 0 (0x100000 + r * 1024)) 1024 = false ∧ ((draining r).clu (cluOf 0)).hscfg.getLsbD 0 = false := by
  decide +kernel

/-! ### Witnesses: the X slot -/

theorem scratchpad_core (a n : Nat) (h : a + n ≤ 0x40000) : InScratchpad core (core.h 1) a n (locSp 0 a) :=
  ⟨obj 0 0, rfl, rfl, rfl, h, by simp [obj]⟩

/-- A permute whose destination begins where its source ends, and a job at the head of its queue. -/
theorem witness_Permutes :
    let c : Word := 0x1F0001003F
    let b : Word := 0x2000000000
    let n : Nat × Nat × Nat := (fld c 0 12 + 1, fld c 16 12 + 1, fld c 32 12 + 1)
    let j : PermJob := ⟨5, false, 4, locSp 0 0, locSp 0 0x4000, n, 5, 0, 0, [1, 1]⟩
    let s := withCore fun x => { x with perms := [j] }
    n = (64, 2, 32) ∧ Permits (core.h 1) rR ((core.h 1).cur + sfld b 0 32) 16384 ∧ Permits (core.h 1) rW 0x4000 16384 ∧
    InScratchpad core (core.h 1) 0 16384 (locSp 0 0) ∧ InScratchpad core (core.h 1) 0x4000 16384 (locSp 0 0x4000) ∧
    locSp 0 0 + 16384 ≤ locSp 0 0x4000 ∧ core.fe.perms.length < 4 ∧ (core.fs.tok 0).toNat + 16384 < 2 ^ 32 ∧ core.enabled .always = true ∧
    core.g? .n64 (.reg 1) = some 5 ∧
    (s.eng 0).perms = [j] ∧ s.ordered 0 j.sec j.id j.cls = true ∧ s.clearFor 0 j.dst 16384 = true ∧ j.order < 6 ∧ 0 < j.wd ∧ s.pends = [] := by
  refine ⟨by decide, by unfold Permits; decide, by unfold Permits; decide, scratchpad_core 0 16384 (by decide), scratchpad_core 0x4000 16384 (by decide),
    by decide, by decide, by decide, by decide, by decide, by decide, by decide, by decide, by decide, by decide, by decide⟩

/-- Row 255 and the last word of the fast-tier object, payloads and mailboxes in scratchpad, and the last free buffer place. -/
theorem witness_BankCommandsAreBuffered : core.enabled .always = true ∧ core.g? .n64 (.reg 0) = some 0 ∧ core.bankCount < 16 ∧
    Permits (core.h 3) rB 0x3FC00 1024 ∧ (0x3FC00 : Int) % 1024 = 0 ∧ Permits (core.h 3) rR (core.h 3).cur 1024 ∧ (core.h 3).cur % 1024 = 0 ∧
    Permits (core.h 3) rB 0x3FF00 256 ∧ Permits (core.h 1) rR (core.h 1).cur 256 ∧ InScratchpad core (core.h 1) (core.h 1).cur 256 (locSp 0 0) ∧
    core.before.mayStep .value (core.payloadLoad 0 (locSp 0 0) 256) = true ∧ Permits (core.h 3) rB 0x3FFF8 8 ∧
    Permits (core.h 1) rW (core.h 1).cur 8 ∧ InScratchpad core (core.h 1) (core.h 1).cur 8 (locSp 0 0) ∧ (core.fs.tok 7).toNat + 1 < 2 ^ 32 :=
  ⟨by decide, by decide, by decide, by unfold Permits; decide, by decide, by unfold Permits; decide, by decide, by unfold Permits; decide,
    by unfold Permits; decide, scratchpad_core 0 256 (by decide), by decide, by unfold Permits; decide, by unfold Permits; decide,
    scratchpad_core 0 8 (by decide), by decide⟩

def bankCmd (op : BankOp) (src : Nat × Nat) : BankCmd :=
  { id := 5, eng := 0, sec := false, op := op, bt := .f32, ctx := 0, oid := 3, addr := 0, src := src, operand := 1, payload := List.replicate 256 0,
    mailbox := locSp 0 0, mailOid := some 1, tok := none, pc := 0, retry := 0, retryAt := none }

/-- A command of each kind at the head of its buffer: a row copied within its bank, and one transferred within its stack. -/
theorem witness_BankCommandsPerform : ∀ q ∈ [(BankOp.rowz, (0, 0), 0x100000), (.rowcp, (3, 0), 0x100000), (.rowxf, (3, 0x400), 0x100400), (.badd, (0, 0), 0),
      (.bmax, (0, 0), 0), (.bmin, (0, 0), 0), (.baxpy, (0, 0), 0), (.bcnt, (0, 0), 0)],
    let c := bankCmd q.1 q.2.1
    let s : State := { core with banks := [c] }
    let l := locFast 0 0x100000
    let ls := locFast 0 q.2.2
    let n := c.op.len
    s.banks.find? (·.id == 5) = some c ∧ s.bankBehind c = false ∧ s.pends = [] ∧ c.retryAt = none ∧
    s.bankPlace c.ctx c.oid c.addr n (!decide (n = 1024)) = (.at_ l, 0x20) ∧
    (c.op = .rowcp ∨ c.op = .rowxf → s.bankPlace c.ctx c.src.1 c.src.2 1024 false = (.at_ ls, 0x20)) ∧
    (c.op = .rowcp → s.bankOf l = s.bankOf ls) ∧ (c.op = .rowxf → (s.bankOf l).1 = (s.bankOf ls).1) ∧ s.allQuiet l n = true ∧
    (c.op = .rowcp ∨ c.op = .rowxf → s.allQuiet ls 1024 = true) ∧ (c.op = .rowz → ls = l) ∧ (c.op = .bcnt → s.clearFor c.eng c.mailbox 8 = true) ∧
    s.migBlocked l n = false ∧ s.guarded l n = false := by
  decide +kernel

/-- A fence over all, a barrier that the members may join, one that a member has named otherwise, and one that is complete. -/
def twoMembers (b : Option (Nat × Word)) : Gang := { gang1 with members := [memb, { memb with st := .running 1, barrier := b }] }

theorem witness_FencesAndBarriers :
    let p (range : Option (Nat × Nat × Nat × Nat)) : PendOp := ⟨7, 0, false, some 2, .xbfen (.reg 4) range⟩
    let c : BankCmd := { bankCmd .badd (0, 0) with addr := 0x1000 }
    let s (range : Option (Nat × Nat × Nat × Nat)) : State := { core with
      pends := [p range], banks := [c]
      accs := [{ sent core .store 0 .plain .stream .n64 (hnd 3) (obj 2 0) [⟨0, locFast 0 0x102000, 8, 1⟩] none .none none with id := 6 }] }
    let near := some (0, 3, 0, 0x1000)
    let over_ := some (0, 3, 0x1000, 0x2000)
    let g (b : Option (Nat × Word)) : Gang := twoMembers b
    let full : Gang := { gang1 with members := [{ memb with barrier := some (3, 64) }, { memb with st := .running 1, barrier := some (3, 0) }] }
    (core.enabled .always = true ∧ (core.h 1).tag = true ∧ (core.fs.tok 2).toNat + 1 < 2 ^ 32) ∧
    ((s near).pends.find? (·.id == 7) = some (p near) ∧ (s near).bankPlace 0 3 0x1000 256 true = (.at_ (locFast 0 0x101000), 0x20) ∧
      rangeMeets (near.bind (s near).rangeRuns) (locFast 0 0x101000) 256 = false ∧ rangeMeets (near.bind (s near).rangeRuns) (locFast 0 0x102000) 8 = false) ∧
    (rangeMeets (over_.bind (s over_).rangeRuns) (locFast 0 0x101000) 256 = true ∧ rangeMeets none (locFast 0 0x101000) 256 = true) ∧
    (core.windowOpen = false ∧ core.fe.gang = some 1 ∧ ({ core with gangs := [g (some (3, 64))] } : State).gangOf 1 = some (g (some (3, 64))) ∧
      core.fe.member < (g none).members.length ∧ (core.ctx (g none).ctx).st.live = true) ∧
    (({ core with gangs := [full] } : State).gangOf 1 = some full ∧ full.arrived = some (0, 3, 64) ∧
      ∀ m ∈ full.members, (m.barrier.map (·.1)) = some 3 ∧ ({ core with gangs := [full] } : State).memberReached full.clu m = true) := by
  decide +kernel

/-- An event queue with room, a full one with a gang-retired record, and records that XEVP may and may not take. -/
def queueOf (l : List (Nat × BitVec 128)) : State := { core with clusters := [(0, { Cluster.reset with events := l })] }
def evs : List (Nat × BitVec 128) := [(0, evRecord 7 9 2 1 0 0 false), (0, evRecord 7 9 1 3 0 0 false)]
def unseen : Access := { sent core .store 0 .plain .stream .n64 (hnd 1) (obj 0 0) [⟨0, locSp 0 0, 8, 1⟩] none .none none with id := 12 }
def storing : State := { core with base := 12, nextId := 13, accs := [unseen] }

theorem witness_ClusterEvents : core.enabled .always = true ∧ core.g? .n64 (.reg 1) = some 5 ∧ core.windowOpen = false ∧ (core.clu 0).evHeld = [] ∧
    releaseOk core.accs core.focus.eng core.focus.sec core.base .dev 0xFFFF = true ∧ core.pends = [] ∧ (core.clu 0).events.length < 256 ∧
    (∃ e ∈ (queueOf (List.replicate 256 (0, evRecord 0 0 1 2 0 0 false))).clu 0 |>.events, evKind e.2 = 2) ∧
    releaseOk core.accs core.focus.eng core.focus.sec core.nextId .dev 0xFFFF = true ∧
    releaseOk storing.accs storing.focus.eng storing.focus.sec storing.base .dev 0xFFFF = true ∧
    releaseOk storing.accs storing.focus.eng storing.focus.sec storing.nextId .dev 0xFFFF = false ∧
    NamesCluster core (.reg 0) 0 ∧ ((queueOf evs).clu 0).events[1]? = some (0, evRecord 7 9 1 3 0 0 false) ∧
    evMatches 7 0 (some 1) (0, evRecord 7 9 1 3 0 0 false) = true ∧ evMatches 7 0 (some 1) (0, evRecord 7 9 2 1 0 0 false) = false ∧
    evMatches 3 0 (some 1) (0, evRecord 7 9 1 3 0 0 false) = false := by
  refine ⟨by decide, by decide, by decide, by decide, by decide, by decide, by decide, ⟨_, List.mem_cons_self, by decide⟩, by decide, by decide,
    by decide, .inl ⟨by decide, by decide⟩, by decide, by decide, by decide, by decide⟩

theorem witness_TokensWaysAndCaches :
    let full := withPrim fun y => { y with toks := [(3, 0xFFFFFFFF)] }
    let p : PendOp := ⟨5, 0, false, some 2, .wayLend 0 8⟩
    let q (st : Option (List Nat)) : PendOp := ⟨20, 0, false, some 2, .cache 1 0 3 0 64 st⟩
    let u (st : Option (List Nat)) (l : List Access) : State := { core with nextId := 30, pends := [q st], accs := l }
    let stored : Access := { sent core .store 0 .plain .stream .n64 (hnd 3) (obj 2 0) [⟨0, locFast 0 0x100078, 8, 1⟩] none .none none with id := 12 }
    let dirty : Access := { stored with vis := 5 }
    core.enabled .always = true ∧ core.g? .n64 (.reg 1) = some 5 ∧ 2 ^ 32 ≤ (full.fs.tok 3).toNat + (5 : Word).toNat % 2 ^ 32 ∧
    (core.fs.tok 3).toNat + (5 : Word).toNat % 2 ^ 32 < 2 ^ 32 ∧ NamesCluster core (.reg 0) 0 ∧
    (∃ g, ({ core with gangs := [{ gang1 with wlp := true }] } : State).fe.gang.bind ({ core with gangs := [{ gang1 with wlp := true }] } : State).gangOf = some g ∧ g.wlp = true) ∧
    (∀ r ∈ ({ core with clusters := [(0, { Cluster.reset with regions := [⟨1500, 36, 0, 1, false⟩] })] } : State).clu 0 |>.regions, r.first + r.n ≤ 1536 + 16 * (0 : Fin 9).val) ∧
    (({ core with pends := [p] } : State).pends.find? (·.id == p.id) = some p) ∧
    ((u none []).pends.find? (·.id == 20) = some (q none) ∧ (u none []).ordered 0 false 20 1 = true ∧ (u none [dirty]).ordered 0 false 20 1 = true ∧
      (u none [dirty]).dirtyIn 0 3 0 64 = [12] ∧ (u none [dirty]).dirtyIn 0 3 128 64 = [] ∧ (u none [stored]).dirtyIn 0 3 0 64 = [] ∧
      (u (some [12]) [dirty]).pends.find? (·.id == 20) = some (q (some [12]))) ∧
    (core.h 1).tag = true ∧ (core.h 1).has rR = true ∧ core.g? .n64 (.reg 0) = some 0 ∧ core.g? .i64 (.reg 0) = some 0 ∧
    Permits (core.h 1) rR ((core.h 1).cur + (0 : Word).toInt) 0x40000 := by
  refine ⟨by decide, by decide, by decide, by decide, .inl ⟨by decide, by decide⟩, ⟨{ gang1 with wlp := true }, rfl, rfl⟩, by decide, by decide, by decide, by decide, by decide,
    by decide, by decide, by unfold Permits; decide⟩

/-! ### A sequencer and its image

The image of context 0 lies at byte 0x10000 of the fast tier: code at 0x100, nine descriptors at 0x200, 32 attributes at 0x800, one layer's entry at 0x900. Descriptor 0 is an n64 word
of shared bank memory, 1 and 6 are unbound, 2 is an i32 vector, 3, 4 and 5 are f32 vectors of object 3, 7 has no element. -/

def dwords (ws : List Word) : List Byte := ws.flatMap fun w => leBytes 8 w.toNat
def dsc (rank fmt valid : Nat) (h : Handle) (exts : List Word) (size : Word) : List Word :=
  [.ofNat 64 (rank + fmt * 256 + 0xFFFF * 65536 + valid * 2 ^ 32), 0, .ofNat 64 (h.bits.toNat % 2 ^ 64), .ofNat 64 (h.bits.toNat / 2 ^ 64)] ++
    exts ++ List.replicate (8 - exts.length) 0 ++ [size, 0, 0xFFFF, 0]
def bound (oid cur : Nat) : Handle := (hnd oid).setCur cur
def e16 : Word := 0x100000010
def image : List Host.Cell :=
  let l := locFast 0 0x10000
  let m := mputs [] (l + 0x10) (dwords [0x10000000100, 0x48000000200, 0x8000000800])
  let m := mputs m (l + 0x30) (dwords [0x1000000900])
  let m := mputs m (l + 0x200) (dwords (dsc 0 7 1 (bound 2 0x100) [] 8 ++ dsc 1 12 0 .null [e16] 0 ++ dsc 1 2 1 (bound 3 0) [e16] 64 ++
    dsc 1 12 1 (bound 3 0x100) [e16] 64 ++ dsc 1 12 1 (bound 3 0x200) [e16] 64 ++ dsc 1 12 1 (bound 4 0x300) [e16] 64 ++
    dsc 0 12 0 .null [] 0 ++ dsc 1 12 1 (bound 3 0x400) [0x100000000] 0 ++ dsc 1 12 1 (bound 1 0) [e16] 64))
  mputs m (l + 0x800) (dwords ([0xC01, 0, 0, 0, e16]))
/-- The tag of the handle of each descriptor. -/
def imageTags : List Nat := (rangeFrom 0 9).map fun d => (locFast 0 0x10200 + 128 * d) / 16 + 1
def seqr : State :=
  { State.reset with
    clk := 1000, nextId := 10, mem := image, tags := imageTags
    ctxs := [(0, { ctx0 with img := 0x10000, seq := some 0, fastq := 100, pinlim := 100, rwbase := 0x1000080000 })]
    seqs := [(0, { Seq.reset with ctx := some 0, words := [0x01000000, 5] })]
    engines := [(48, { Engine.reset with prim := { prim0 with g := [(1, 5), (2, 64), (8, 9)] }, h := [(1, hnd 2)] })] }
def withCtx (f : Context → Context) : State := { seqr with ctxs := [(0, f (seqr.ctx 0))] }
def withSeq (f : Stream → Stream) : State := { seqr with engines := [(48, { (seqr.eng 48) with prim := f (seqr.eng 48).prim })] }

/-! ### Witnesses: the sequencers -/

theorem witness_SequencerData : seqr.enabled .always = true ∧ seqr.g? .n64 (.reg 8) = some 9 ∧ seqr.g? .n64 (.reg 1) = some 5 ∧
    seqr.g? .n64 (.reg 0) = some 0 ∧ seqr.ndesc seqr.fctx = 9 ∧ (5 : Word).toNat < seqr.ndesc seqr.fctx ∧ seqr.ndesc seqr.fctx ≤ (9 : Word).toNat ∧
    (15 : BitVec 6).toNat < 16 ∧ (14 : BitVec 6).toNat % 2 = 0 ∧ (seqr.fs.tok 7).toNat + 1 < 2 ^ 32 := by
  decide +kernel

/-- A run that fits between two regions, one that fits nowhere, granules that another context has freed, and regions named and not named. -/
def pool (rs : List Region) (freed : Tbl Nat) : State := { seqr with clusters := [(0, { Cluster.reset with regions := rs, freed := freed })] }
def runFree (s : State) (n g : Nat) : Prop := g + n ≤ s.granules 0 ∧ ∀ r ∈ (s.clu 0).regions, r.first + r.n ≤ g ∨ g + n ≤ r.first

theorem witness_Regions :
    let s := pool [⟨0, 3, 0, 7, false⟩, ⟨8, 1528, 0, 8, false⟩] []
    let t := pool [⟨0, 1536, 0, 7, false⟩] []
    let u := pool [⟨0, 3, 0, 7, false⟩] [(4, 2)]
    let v := pool [⟨2, 3, 0, 7, false⟩] [(2, 2)]
    (seqr.g? .n64 (.reg 1) = some 5 ∧ s.g? .n64 (.reg 8) = some 9 ∧ (cluList (s.ctx s.fctx).clset)[0]? = some 0 ∧ ralcBad s 0 0 5 9 = false ∧
      (s.clu 0).heldBy 0 + 5 ≤ s.quotaOf 0 ∧ runFree s 5 3 ∧ (s.clu 0).dirtyFor 0 3 = false) ∧
    (ralcBad t 0 0 5 9 = false ∧ (t.clu 0).heldBy 0 + 5 ≤ t.quotaOf 0 ∧ t.granules 0 = 1536) ∧
    (runFree u 5 3 ∧ (u.clu 0).dirtyFor 0 4 = true) ∧
    (((v.clu 0).regions.find? (fun r => r.first ≤ 2 && 2 < r.first + r.n)) = some ⟨2, 3, 0, 7, false⟩ ∧ (v.clu 0).dirtyFor 0 2 = true) ∧
    (u.regionNamed 0 0 7 = false ∧ ({ u with gangs := [{ gang1 with oids := [7] }] } : State).regionNamed 0 0 7 = true ∧ u.pends = []) ∧
    (let x := pool [⟨0, 4, 0, 7, true⟩] []
     x.regionNamed 0 0 7 = false ∧ (∀ q ∈ (x.clu 0).regions, q.ctx = 0 → q.oid = 7 → q = ⟨0, 4, 0, 7, true⟩)) ∧
    (let p : PendOp := ⟨9, 48, false, some 2, .scrub 0 2 3 (.reg 4) 2⟩
     ({ v with pends := [p] } : State).pends = [p] ∧ (∀ j ∈ [3, 4], (v.clu 0).dirtyFor 0 j = false) ∧
     ((pool [⟨2, 3, 0, 7, false⟩] [(2, 2), (3, 2)]).clu 0).dirtyFor 0 3 = true) := by
  unfold runFree; decide +kernel

theorem witness_no_run_free (g : Nat) : ¬ runFree (pool [⟨0, 1536, 0, 7, false⟩] []) 5 g := by
  rintro ⟨h, r⟩
  have h0 := r ⟨0, 1536, 0, 7, false⟩ (by decide)
  have h1 : State.granules (pool [⟨0, 1536, 0, 7, false⟩] []) 0 = 1536 := by decide
  rw [h1] at h
  simp only at h0; omega

/-- A record of one task in shared bank memory, and tags of the two that form a cohort. -/
def gangRec (csize cidx : Nat) : List Word :=
  [.ofNat 64 (1 * 16 + csize * 2 ^ 19 + cidx * 2 ^ 26), 0, .ofNat 64 ((hnd 3).bits.toNat % 2 ^ 64), .ofNat 64 ((hnd 3).bits.toNat / 2 ^ 64)] ++ List.replicate 28 0
def issuing (n : Nat) : State :=
  { seqr with
    tags := imageTags ++ (rangeFrom 0 n).map fun i => (locSbm (256 * i)) / 16 + 1
    mem := mputs image (locSbm 0) (dwords ((rangeFrom 0 n).flatMap fun i => gangRec (if n = 1 then 0 else n) i)) }
def recAt (n i : Nat) : GRec × List (List Word) × Nat := ((issuing n).readGRec (locSbm (256 * i)), [], locSbm (256 * i))

theorem witness_GangIssue : isSeq seqr.focus.eng = true ∧ seqr.g? .i64 (.reg 0) = some 0 ∧ (seqr.fs.tok 0).toNat + 1 < 2 ^ 32 ∧
    ∀ n ∈ [1, 2], let s := issuing n
      let r i := (recAt n i).1
      releaseOk s.accs s.focus.eng s.focus.sec s.base .dev 0xFFFF = true ∧ (r 0).csize = (if n = 1 then 0 else n) ∧ (r 0).cidx = 0 ∧
      cohortMisfit ((rangeFrom 0 n).map fun i => r i) = none ∧ (s.objEnt s.fctx (s.h 1).oid = some (obj 1 0)) ∧
      ∀ i ∈ rangeFrom 0 n, Permits (s.h 1) rR (((s.h 1).cur : Int) + 256 * i) 256 ∧ s.place s.fctx (s.h 1).oid (obj 1 0) (256 * i) = .at_ (locSbm (256 * i)) ∧
        s.before.mayStep .value (s.payloadLoad 0 (locSbm (256 * i)) 256) = true ∧ gangCodes s s.fctx (r 0) (r i) i [] = [] ∧ (r i).nj = 0 ∧ (r i).nt = 1 := by
  unfold Permits; decide +kernel

theorem witness_gang_listed :
    let p : PendOp := ⟨5, 48, false, some 2, .list 0 [1] (.reg 4)⟩
    let s : State := { seqr with pends := [p], gangs := [{ gang1 with st := .issued }] }
    s.pends.find? (·.id == p.id) = some p ∧ releaseOk s.accs p.eng p.sec p.id .dev 0xFFFF = true ∧
    ∀ g ∈ s.gangs.filter (fun g => [1].contains g.gk), s.listedAt g.clu + 1 ≤ 64 := by
  decide +kernel

/-- A context whose object table lies in memory. -/
def leafed : State := { withCtx (fun x => { x with otdir := 0x40001 }) with mem := mputs image (locFast 0 0x40000) (leBytes 8 0x48001) }

/-- A gang that has retired and one that has not; handles that may and may not be minted; accesses done and not done. -/
theorem witness_ScoreboardAndHandles :
    let s : State := { seqr with gangs := [{ gang1 with gk := 5 }] }
    let p : PendOp := ⟨5, 48, false, some 2, .hwait true 0 5⟩
    let mint (h : Handle) : State := withSeq fun y => { y with g := [(1, .ofNat 64 (h.bits.toNat % 2 ^ 64)), (2, .ofNat 64 (h.bits.toNat / 2 ^ 64))] }
    let two (s : State) : Handle := ⟨(tget 0 s.fs.g 2).append (tget 0 s.fs.g 1), true⟩
    seqr.enabled .always = true ∧ s.g? .n64 (.reg 1) = some 5 ∧ seqr.gangOf 5 = none ∧ s.gangOf 5 ≠ none ∧ (s.ctx s.fctx).scb.length < 512 ∧
    (({ seqr with pends := [p] } : State).pends.find? (·.id == p.id) = some p ∧ (seqr.ctx 0).scb = []) ∧
    ((mint (hnd 2)).mintOk 0 (two (mint (hnd 2))) = true ∧ (mint (hnd 5)).mintOk 0 (two (mint (hnd 5))) = false) ∧
    (seqr.objEnt seqr.fctx 2 = some (obj 1 0) ∧ (obj 1 0).space.val ≤ 2 ∧ (hnd 2).lowB ≤ (obj 1 0).size ∧ (hnd 2).highB ≤ (obj 1 0).size ∧
      (hnd 2).has rS = false ∧ (hnd 2).has 0 = false) ∧
    (seqr.pends = [] ∧ seqr.accs = [] ∧ seqr.banks = [] ∧ (∀ e ∈ seqr.engines, e.2.perms = []) ∧ seqr.leafLoc 0 5 = none ∧ unseen.obj = (0, 1) ∧
      unseen.parked = false ∧ unseen.kind.isLoad = false ∧ ({ bankCmd .rowz (0, 0) with mailOid := some 5 } : BankCmd).mailOid = some 5) ∧
    leafed.leafLoc 0 5 = some (locFast 0 0x480A0) := by
  refine ⟨by decide, by decide, by decide, by decide, by decide, by decide, by decide +kernel, by decide +kernel, by decide +kernel, by decide +kernel⟩

theorem witness_RoutineEnds :
    seqr.enabled .always = true ∧ seqr.focus = ⟨48 + (0 : Fin 4).val, false⟩ ∧ (seqr.seq 0).ctx = some 0 ∧ (∀ k, k < 8 → seqr.tokBefore k = 0) ∧
    seqr.fs.nloops = [] ∧ (seqr.ctx 0).st = .running ∧ (seqr.ctx seqr.fctx).keep = false ∧
    (withSeq fun y => { y with nloops := [⟨0, 64, 0, 1, false, 0⟩] }).fs.nloops ≠ [] ∧
    (∃ k, k < 8 ∧ (withSeq fun y => { y with toks := [(7, 1)] }).tokBefore k ≠ 0) :=
  ⟨by decide, by decide, by decide, by decide, by decide, by decide, by decide, by decide, 7, by decide, by decide⟩

/-! ### Witnesses: graph code -/

theorem on_seqr : OnSequencer seqr 0 0 := ⟨by decide, rfl, rfl, by decide⟩
theorem on_ctx (f : Context → Context) : OnSequencer (withCtx f) 0 0 := ⟨by decide, rfl, rfl, by decide⟩

/-- Empty, open and full stacks; a word below, at and above its bound. -/
theorem witness_GraphControlAndWords :
    OnSequencer seqr 0 0 ∧ 0 ≤ ((seqr.ctx 0).bpc : Int) + (-100 : BitVec 16).toInt ∧ (seqr.ctx 0).gcalls.length < 16 ∧
    16 ≤ ((withCtx fun x => { x with gcalls := List.replicate 16 3 }).ctx 0).gcalls.length ∧ (seqr.ctx 0).gloops.length < 8 ∧
    8 ≤ ((withCtx fun x => { x with gloops := List.replicate 8 ⟨0, 1, none⟩ }).ctx 0).gloops.length ∧ seqr.val 0 (.imm 0) ≤ 0 ∧ 0 < seqr.val 0 (.imm 1) ∧
    ((withCtx fun x => { x with gloops := [⟨0, 1, none⟩, ⟨0, 2, none⟩] }).ctx 0).gloops = ⟨0, 1, none⟩ :: [⟨0, 2, none⟩] ∧
    (seqr.ctx 0).st = .running ∧ (seqr.ctx 0).st.live = true ∧ (∀ g ∈ seqr.gangs, g.ctx ≠ 0) ∧ WordAt seqr 0 0 (locSbm 0x100) ∧
    releaseOk seqr.accs 48 false seqr.nextId .dev 0xFFFF = true ∧ seqr.allQuiet (locSbm 0x100) 8 = true ∧
    seqr.val 0 (.imm 0) ≤ (seqr.rd64 (locSbm 0x100)).toNat ∧ ((seqr.rd64 (locSbm 0x100)).toNat : Int) < seqr.val 0 (.imm 1) := by
  refine ⟨on_seqr, by decide, by decide, by decide, by decide, by decide, by decide, by decide, by decide, by decide, by decide, by decide,
    ⟨seqr.desc 0 0, obj 1 0, ⟨by decide +kernel, rfl, by decide +kernel⟩, ?_⟩, by decide, by decide, by decide +kernel, by decide +kernel⟩
  unfold Permits; decide +kernel

/-- Operands in range and out of range, an extent, and the first and last element of a vector. -/
theorem witness_GraphShapes :
    OnSequencer seqr 0 0 ∧ seqr.val 0 (.imm 63) = 63 ∧ seqr.val 0 (.imm 64) = 64 ∧ seqr.val 0 (.imm 0) = 0 ∧ seqr.val 0 (.imm (-1)) = -1 ∧
    (withCtx fun x => { x with z := [(1, 0x7FFFFFFFFFFFFFFF)] }).val 0 (.z 1) = 2 ^ 63 - 1 ∧
    Descriptor seqr 0 2 (seqr.desc 0 2) ∧ (seqr.desc 0 2).valid = true ∧ (seqr.desc 0 2).fmt = .i32 ∧ (seqr.desc 0 2).layout = 0 ∧ (seqr.desc 0 2).rank = 1 ∧
    (seqr.desc 0 2).count = 16 ∧ (seqr.ctx 0).scb = [] ∧ seqr.objEnt 0 (seqr.desc 0 2).handle.oid = some (obj 2 0) ∧
    (∀ i ∈ [0, 15], Permits (seqr.desc 0 2).handle rR ((seqr.desc 0 2).handle.cur + 4 * i : Nat) 4 ∧
      seqr.place 0 (seqr.desc 0 2).handle.oid (obj 2 0) ((seqr.desc 0 2).handle.cur + 4 * i) = .at_ (locFast 0 (0x100000 + 4 * i))) := by
  refine ⟨on_seqr, by decide, by decide, by decide, by decide, by decide, ⟨by decide +kernel, rfl, by decide +kernel⟩, ?_⟩
  unfold Permits; decide +kernel

/-- An unbound descriptor with attributes of a good and of a bad one, extents at both ends of their range, and a view from the first and past the last element. -/
def defined : DescVal :=
  ⟨(dsc 1 12 0 .null [e16] 0).zipIdx.map fun (w, k) => if k = 0 then 0xC01 else if k = 14 then 0xFFFF else if k = 4 then 0 else if k = 2 then 0 else if k = 3 then 0 else w, false⟩

theorem witness_GraphDescriptors :
    OnSequencer seqr 0 0 ∧ (1 : Desc).toNat < seqr.ndesc 0 ∧ (0 : Attr).toNat + 32 ≤ seqr.nattr 0 ∧ (seqr.desc 0 1).valid = false ∧
    Descriptor seqr 0 3 (seqr.desc 0 3) ∧ (seqr.desc 0 3).valid = true ∧ (seqr.desc 0 3).rank = 1 ∧ (seqr.desc 0 3).layout = 0 ∧
    seqr.val 0 (.imm 0) = 0 ∧ seqr.val 0 (.imm 16) = 16 ∧ (seqr.desc 0 3).ext 0 = 16 ∧ (seqr.desc 0 3).size = 64 ∧ 16 * 4 ≤ (seqr.desc 0 3).size ∧
    ((seqr.desc 0 3).setExts [0] [1]).footprint ≤ 64 ∧ ((seqr.desc 0 3).setExts [16] [1]).footprint ≤ 64 ∧
    (seqr.desc 0 3).fmt.isDx = false := by
  refine ⟨on_seqr, by decide +kernel, by decide +kernel, by decide +kernel, ⟨by decide +kernel, rfl, by decide +kernel⟩, ?_⟩
  decide +kernel

/-- The descriptor that TDEF builds from the attributes of the image. -/
theorem witness_tdef :
    let v : DescVal := ⟨[0xC01, 0, 0, 0, e16, 0, 0, 0, 0, 0, 0, 0, 0, 0, 0xFFFF, 0], false⟩
    let s : State := { seqr with mem := mputs image (locFast 0 0x10800) (dwords [0xC01, 0, 0, 0, e16]) }
    v.w.length = 16 ∧ v.bad = false ∧ (∀ k, k < 16 → k ∉ [0, 2, 3, 12, 14] → v.word k = .ofNat 64 (s.attr 0 (2 * k) + 2 ^ 32 * s.attr 0 (2 * k + 1))) ∧
    v.word 14 = .ofNat 64 (s.attr 0 28 / 65536 * 65536 + 0xFFFF + 2 ^ 32 * s.attr 0 29) ∧ v.word 0 = .ofNat 64 (s.attr 0 0 + 2 ^ 32 * (s.attr 0 1 / 4 * 4)) ∧
    (⟨v.w.map fun w => if w = 0xC01 then 0xC11 else w, false⟩ : DescVal).bad = true := by
  decide +kernel

theorem witness_GraphAllocation :
    let v := seqr.desc 0 1
    let w := seqr.desc 0 5
    OnSequencer seqr 0 0 ∧ Descriptor seqr 0 1 v ∧ v.valid = false ∧ ceilDiv v.footprint 65536 = 1 ∧ ceilDiv v.footprint 256 = 1 ∧
    ((9 : Nat) < 0xFFF00 ∧ seqr.objEnt 0 9 = none) ∧ (seqr.freeFast 0).Pairwise (fun r r' => r.1 + r.2 ≤ r'.1 ∨ r'.1 + r'.2 ≤ r.1) ∧
    (seqr.freeCap 0).Pairwise (fun r r' => r.1 + r.2 ≤ r'.1 ∨ r'.1 + r'.2 ≤ r.1) ∧
    seqr.fastUsed 0 + 1 ≤ (seqr.ctx 0).fastq.toNat ∧ 1 ≤ runTotal (seqr.freeFast 0) ∧ 1 ≤ runTotal (seqr.freeCap 0) ∧ (∃ r ∈ seqr.freeCap 0, 1 ≤ r.2) ∧
    Descriptor seqr 0 5 w ∧ w.valid = true ∧ w.parent = 0xFFFF ∧ w.layer = 0xFFFF ∧ (seqr.ctx 0).scb = [] ∧ seqr.admittedDone 0 [w.handle.oid] = true ∧
    seqr.objStill 0 w.handle.oid = true := by
  refine ⟨on_seqr, ⟨by decide +kernel, rfl, by decide +kernel⟩, by decide +kernel, by decide +kernel, by decide +kernel, by decide +kernel, by decide +kernel,
    by decide +kernel, by decide +kernel, by decide +kernel, by decide +kernel, ⟨(seqr.freeCap 0).headD (0, 0), by decide +kernel, by decide +kernel⟩, ⟨by decide +kernel, rfl, by decide +kernel⟩, ?_⟩
  decide +kernel

/-- No room: capacity memory all held by one object; and room in shared bank memory, wherever the collective table lies in it. -/
theorem witness_no_room :
    let s := withCtx fun x => { x with objs := [(1, some { obj 3 0 with size := 2 ^ 40 })] }
    (∀ r ∈ s.freeCap 0, ¬ 1 ≤ r.2) ∧ ¬ (1 ≤ runTotal (s.freeFast 0) ∧ 1 ≤ runTotal (s.freeCap 0)) := by
  decide +kernel

theorem run_left (g k : Nat) (h : k ≤ 1025) : ∃ r ∈ runTake [(0, 262144)] g k, 1 ≤ r.2 := by
  simp only [runTake, List.flatMap_cons, List.flatMap_nil, List.append_nil]
  by_cases h3 : g + k ≤ 0 ∨ 0 + 262144 ≤ g
  · exact ⟨(0, 262144), by rw [if_pos h3]; exact List.mem_cons_self, by simp only; omega⟩
  · rw [if_neg h3]
    by_cases h4 : 0 < g
    · exact ⟨(0, g - 0), by rw [if_pos h4]; simp, by simp only; omega⟩
    · exact ⟨(g + k, 0 + 262144 - (g + k)), by rw [if_pos (by omega : g + k < 0 + 262144)]; simp, by simp only; omega⟩

def noBank : State := withCtx fun x => { x with objs := [], rwbase := 0 }

theorem noBank_free : noBank.freeSbm 0 =
      [toUnits 256 (collLoc - locSbm 0, 262144), (0, 0)].foldl (fun l q => if q.2 = 0 then l else runTake l q.1 q.2) [(0, 262144)] := rfl

theorem units_of_table (x : Nat) : (toUnits 256 (x, 262144)).2 ≠ 0 ∧ (toUnits 256 (x, 262144)).2 ≤ 1025 := by
  simp only [Sys2Proof.Machine.toUnits]; omega

theorem one_take (l : List (Nat × Nat)) (q : Nat × Nat) :
    [q, (0, 0)].foldl (fun l q => if q.2 = 0 then l else runTake l q.1 q.2) l = if q.2 = 0 then l else runTake l q.1 q.2 := rfl

theorem witness_bank_room : ∃ r ∈ noBank.freeSbm 0, 1 ≤ r.2 := by
  have h := units_of_table (collLoc - locSbm 0)
  rw [noBank_free, one_take, if_neg h.1]
  exact run_left _ _ h.2

/-- Descriptor 3 as the one descriptor of layer 0. -/
def layered : State :=
  { seqr with mem := mputs (mputs image (locFast 0 0x10900) (dwords [0x10003])) (locFast 0 (0x10200 + 3 * 128)) (dwords [0x100000C01]) }

theorem witness_GraphResidency :
    let v := seqr.desc 0 3
    let here : State := { seqr with mem := mputs image (locSbm 0x80000) (leBytes 8 (2 ^ 63)) }
    let tight := withCtx fun x => { x with pinlim := 0 }
    OnSequencer seqr 0 0 ∧ Descriptor seqr 0 3 v ∧ v.valid = true ∧ seqr.val 0 (.imm 31) = 31 ∧ seqr.val 0 (.imm 0) = 0 ∧ v.layer = 0xFFFF ∧
    seqr.pinned 0 [v.handle.oid] ≤ (seqr.ctx 0).pinlim.toNat ∧ (tight.ctx 0).pinlim.toNat < tight.pinned 0 [v.handle.oid] ∧
    (seqr.ctx 0).otdir.getLsbD 0 = false ∧ seqr.objEnt 0 v.handle.oid = some (obj 2 0) ∧
    seqr.val 0 (.imm 0) < seqr.layers 0 ∧ here.resSet 0 0 = true ∧ seqr.resSet 0 0 = false ∧ (seqr.ctx 0).refetch = true ∧
    OnSequencer layered 0 0 ∧ Descriptor layered 0 3 (layered.desc 0 3) ∧ (layered.desc 0 3).valid = true ∧ (layered.desc 0 3).layer = 0 ∧ 0 < layered.layers 0 ∧
    layered.layerOids 0 0 = [3] ∧ layered.pinned 0 [3] ≤ (layered.ctx 0).pinlim.toNat := by
  refine ⟨on_seqr, ⟨by decide +kernel, rfl, by decide +kernel⟩, by decide +kernel, by decide +kernel, by decide +kernel, by decide +kernel, by decide +kernel,
    by decide +kernel, by decide +kernel, by decide +kernel, by decide +kernel, by decide +kernel, by decide +kernel, by decide +kernel,
    ⟨by decide, rfl, rfl, by decide⟩, ⟨by decide +kernel, rfl, by decide +kernel⟩, ?_⟩
  decide +kernel

/-! ### Witnesses: operators -/

/-- COPY of one vector onto another, whose staging region is as large as the implementation asks; of a tensor without elements; and of a descriptor that the image lacks. -/
theorem witness_Operators :
    let i : Instr := .copy 4 3
    let e : Instr := .copy 7 7
    let need := stageSize (seqr.opEnv 0) [i] seqr.opcNow 1 1 0
    let s : State := { seqr with clusters := [(0, { Cluster.reset with regions := [⟨0, need, 0, 0xFFF00, false⟩] })] }
    let v := s.opEnv 0
    OnSequencer s 0 0 ∧ OperatorOf s 0 i [⟨i, [], 100⟩] [i] 103 ∧ OperatorOf s 0 e [⟨e, [], 100⟩] [e] 103 ∧ (s.seq 0).tile = 0 ∧
    opBad v (s.ndesc 0) (s.nattr 0) i = none ∧ opBad v (s.ndesc 0) (s.nattr 0) e = none ∧ (s.ctx 0).scb = [] ∧ indexOperand i = none ∧
    (libMembers [i]).2 = [i] ∧ (∀ p ∈ libOperands v (libMembers [i]).1 [i], p.1 = 3 ∨ p.1 = 4) ∧ (∀ d ∈ (opnds e).outs, (v.d d).footprint = 0) ∧
    (∃ d ∈ (opnds i).outs, (v.d d).footprint ≠ 0) ∧ (v.d 3).tag = true ∧ (v.d 4).tag = true ∧ tileCount v i = 1 ∧ cohortOp v i = false ∧
    s.listedAt 0 < 64 ∧ (s.clu 0).regions.find? (fun r => r.ctx == 0 && r.oid == 0xFFF00) = some ⟨0, need, 0, 0xFFF00, false⟩ ∧
    (opBad v (s.ndesc 0) (s.nattr 0) (.copy 4 9)).isSome = true ∧ (s.ctx 0).st.live = true ∧ (s.seq 0).coll = [] ∧
    (v.ranks i = [v.dev] ∨ (v.ranks i).length ≤ (v.ranks i).idxOf v.dev) ∧ s.stageBusy 0 v [i] = false ∧ v.stageBad [i] [0] = false := by
  refine ⟨⟨by decide, rfl, rfl, by decide⟩, .inl ⟨2, rfl, rfl, rfl, rfl⟩, .inl ⟨2, rfl, rfl, rfl, rfl⟩, rfl, ?_, ?_, rfl, rfl, rfl, ?_, ?_, ⟨4, ?_, ?_⟩, ?_, ?_, ?_, ?_, ?_, rfl, ?_, rfl, rfl, ?_, ?_, ?_⟩
  all_goals decide +kernel

/-! ### Witnesses: what is in flight -/

def loading (kind : AccKind) (sp : Nat → Nat) (id : Nat) : Access :=
  { sent core kind 0 .plain .stream .n64 (hnd 2) (obj 1 0) [⟨0, sp 0, 8, 7⟩] none (.g (.reg 4)) (some 2) with id := id }

/-- A result due at its very cycle; a load, an atomic, a landed value, and a store at each of its stages. -/
theorem witness_ResultsAndVisibility :
    let due (l : List Commit) : State := withPrim fun y => { y with pend := l, cycle := 9 }
    let c : Commit := ⟨9, .g 4 7, 0⟩
    let d : Commit := ⟨8, .g 4 6, 0⟩
    let ld := loading .load locSbm 5
    let at_ := loading (.atom 0 .n64 1 0) locSbm 5
    let st := { loading .store locSbm 5 with dst := .none, tok := none }
    let sp := { loading .store (locSp 0) 5 with dst := .none, tok := none }
    let fast := { loading .store (fun a => locFast 0 (0x100000 + a)) 5 with dst := .none, tok := none, vis := 3 }
    let s (a : Access) : State := { core with accs := [a] }
    (((due [c]).eng 0).str false).pend = [c] ∧ c.due ≤ (((due [c]).eng 0).str false).cycle ∧ (((due [c, d]).eng 0).str false).pend = [c, d] ∧ d.due < c.due ∧
    (s ld).accs.find? (·.id == 5) = some ld ∧ ld.taken = none ∧ (∀ p ∈ ld.parts, isExt p.loc = false) ∧ (s ld).mayStep .value ld = true ∧
    (s at_).mayStep .dev at_ = true ∧ (s at_).guarded (locSbm 0) 8 = false ∧
    (s { ld with taken := some 7 }).accs.find? (·.id == 5) = some { ld with taken := some 7 } ∧
    st.kind.isStore = true ∧ st.vis = 0 ∧ isSeq st.eng = false ∧ st.sobj = false ∧ st.window = false ∧ (s st).mayStep .clu st = true ∧
    (s { sp with vis := 3 }).mayStep .dev { sp with vis := 3 } = true ∧ (∀ p ∈ sp.parts, isFast p.loc = false) ∧ (s fast).mayStep .dev fast = true ∧
    (∀ p ∈ fast.parts, p.loc + p.n ≤ 2 ^ 44 ∧ (s fast).guarded p.loc p.n = false) := by
  decide +kernel

/-- An h result and a CSR write of this clk and of the one before; the h value is new for the stream that wrote it alone. -/
theorem witness_FreshResults :
    let hs (c : Nat) : Engine := { eng0 with hnew := [⟨c, false, 2, hnd 3⟩] }
    let cs (c : Nat) : Engine := { eng0 with ncsr := [⟨c, false, 4, 7⟩] }
    (eng0.hnew = [] ∧ eng0.ncsr = [] ∧ eng0.chan = none ∧ (core.eng 0).prim.pend = []) ∧
    ((hs 999).hAt false 2 = hnd 3 ∧ (hs 999).hAt true 2 ≠ hnd 3 ∧ 999 < core.clk.toNat ∧ core.clk.toNat ≤ 1000) ∧ (cs 999).ncsr = [⟨999, false, 4, 7⟩] := by
  decide +kernel

/-- A stream six elements ahead, at its last element, behind an access of its class and free of it; a flush that a rebinding waits for. -/
theorem witness_StreamsAndFlushes :
    let b : Binding := ⟨6, false, hnd 1, [6, 0, 0, 0], 0, 0, [1, 2, 3, 4, 5, 6]⟩
    let d : Binding := { b with id := 7, write := true, window := [] }
    let f : Sflush := ⟨[(1, 2)], [1], some 2, 0, none⟩
    let g : Sflush := ⟨[(1, 2)], [], none, 0, some (1, d)⟩
    let el : Access := { loading (.strm 1 1 none) (locSp 0) 5 with tok := none, dst := .none, vis := 4 }
    let s := withCore fun x => { x with binds := [(0, some b)], flushes := [f, g] }
    let t : State := { s with accs := [loading .load (locSp 0) 5] }
    (tget none (s.eng 0).binds 0 = some b ∧ b.window.length < 8 ∧ b.next + b.window.length < b.total ∧ b.next + b.window.length + 1 = b.total ∧
      s.unitMay 0 false b.id b.cls (s.strmAt 0 b 6) = true) ∧
    (∃ a ∈ t.accs, a.eng = 0 ∧ a.sec = false ∧ a.id < b.id ∧ a.cls = b.cls ∧ a.settled = false) ∧
    ((s.eng 0).flushes[0]? = some f ∧ (s.eng 0).flushes[1]? = some g ∧ (s.eng 0).prim.pend = [] ∧ f.awaits 0 el = true ∧ el.vis ≠ 0) := by
  refine ⟨by decide +kernel, ⟨loading .load (locSp 0) 5, by decide +kernel⟩, by decide +kernel⟩

theorem units_of_four (s : State) : (s.drawUnits 4).1 = 4 := by
  simp only [State.drawUnits, Nat.reduceAdd, Nat.reduceDiv, Nat.mod_one]; rfl

/-- A fill whose last four bytes its handle admits, of a block that it cuts; and one whose block lies below its bounds, whatever number of bytes lands. -/
theorem witness_Fills :
    let h (low : Nat) : Handle := .make 3 0xFA 0 low 3 0
    let j (low landed : Nat) : FillJob :=
      { id := 5, eng := 0, sec := false, task := none, tok := 2, cls := 0, pc := 0, ctx := 0, h := h low, blk := 0, set_ := 0, way := 1, landed := landed, retry := 0, retryAt := none }
    let t (low landed : Nat) : State := { core with clusters := [(0, { cache with fills := [j low landed], regions := [⟨100, 8, 0, 9, true⟩] })] }
    let dst := locSp 0 (((t 1 0).clu 0).cacheBase + 16 * 128)
    (∀ low ∈ [1, 2], ((t low 0).clu 0).fills[0]? = some (j low 0) ∧ (j low 0).landed < 128 ∧ (t low 0).quiet 0 dst 128 = true) ∧
    ((t 1 124).drawUnits (128 - 124)).1 = 4 ∧ (h 1).lowB = 64 ∧ (h 1).highB = 192 ∧
    (match (t 1 124).fillReach (j 1 124) 0 128, (t 1 124).fillReach (j 1 124) 124 4 with
      | .runs all, .runs l => all == [(locFast 0 (0x100000 + 64), 64, 64)] && l == [(locFast 0 (0x100000 + 124), 124, 4)] &&
          (t 1 124).unitMay 0 false 5 0 (all.map fun r => (r.1, r.2.2)) && l.all fun r => !isExt r.1
      | _, _ => false) = true ∧
    ∀ m, m ≤ 128 → (t 2 0).fillReach (j 2 0) 0 m = .runs [] := by
  refine ⟨by decide +kernel, units_of_four _, by decide +kernel, by decide +kernel, by decide +kernel, fun m hm => ?_⟩
  have h : (Handle.make 3 0xFA 0 2 3 0).lowB = 128 := by decide +kernel
  simp only [State.fillReach, h]
  exact if_pos (by omega)

def copyGang : Gang := { gang1 with dem := 1, engs := [0] }
def reg0 (v : Word) : CqReg := ⟨v, v, 0, true, 0⟩
def copyShp : Word := 0x10000400040
def copyJob (row : Nat) (id : Nat) : CopyJob :=
  { id := id, clk := 990, core := 0, gk := 1, member := 0, sec := false, list := false, src := hnd 3, dst := hnd 1, shp := copyShp, flg := 2, tag := 0, ent := 0, phys := 0, started := false,
    row := row, skip := 0, resent := 0, buf := [], bufTags := [], retry := 0, retryAt := none, pc := 0 }

/-- A job of the copy queue in each of its stages, at its first and its last row, and a served port. -/
theorem witness_CopiesAndServices :
    let s : State := { (withPrim fun y => { y with cq := ⟨reg0 (3 * 2 ^ 60), reg0 (2 ^ 60), reg0 copyShp, reg0 2⟩ }) with gangs := [copyGang] }
    let q : State := { s with copies := [copyJob 0 5, copyJob 0 6] }
    let th : State := { core with dev := { Device.reset with threads := [(1, ⟨true, 0, 3, 4, true, 0⟩)] } }
    let n := shpBytes copyShp
    s.fe.gang.bind s.gangOf = some copyGang ∧ (∀ r ∈ [s.fs.cq.src, s.fs.cq.dst, s.fs.cq.shp, s.fs.cq.flg], r.settled = true) ∧
    (∀ k, k < shpRows copyShp → k * shpS copyShp + n ≤ 0x40000 ∧ k * shpD copyShp + n ≤ 0x40000) ∧
    cqFieldCheck (3 * 2 ^ 60) (2 ^ 60) copyShp 2 0 1 false = none ∧ s.pickEngine copyGang 0 = some 0 ∧ (s.fs.tok 2).toNat + shpRows copyShp * n < 2 ^ 32 ∧
    q.copies.find? (·.id == 5) = some (copyJob 0 5) ∧ q.jobOrdered (copyJob 0 5) = true ∧ q.jobCore (copyJob 0 5) = some 0 ∧
    (copyJob 0 5).clk < q.clk.toNat ∧ (∀ k ∈ q.copies, k.started = false ∧ k.goBefore (copyJob 0 5) = false) ∧
    (let u : State := { q with copies := [copyJob 0 5, { copyJob 0 6 with phys := 1 }] }
     (copyJob 0 5).goBefore { copyJob 0 6 with phys := 1 } = true ∧ u.jobsMeet { copyJob 0 6 with phys := 1 } (copyJob 0 5) = true) ∧
    (∀ row ∈ [0, shpRows copyShp - 1],
      let j := { copyJob row 5 with started := true }
      let t : State := { s with copies := [j] }
      (match t.reach (t.jobHome j).1 j.src.oid (j.src.cur + j.row * shpS j.shp) n with
        | .runs l => l == [(locFast 0 (0x100000 + row * shpS copyShp), row * shpS copyShp, n)] | _ => false) = true ∧
      (match t.reach (t.jobHome j).1 j.dst.oid (j.dst.cur + j.row * shpD j.shp) n with
        | .runs l => l == [(locSp 0 (row * shpD copyShp), row * shpD copyShp, n)] | _ => false) = true ∧
      t.runsClear (t.jobHome j).2 [(locSp 0 (row * shpD copyShp), row * shpD copyShp, n)] = true ∧ t.guarded (locSp 0 (row * shpD copyShp)) n = false ∧
      (t.clu (t.jobHome j).2).hscfg.getLsbD 0 = false ∧ t.exportBars (t.jobHome j).1 j.dst.oid true = false ∧ j.flg.getLsbD 8 = false ∧ j.flg.getLsbD 11 = false) ∧
    th.portServed 0 4 = some 1 ∧ core.gangOf 1 = some gang1 ∧ gang1.members[0]? = some memb ∧ memb.st = .running 0 ∧ replyOk 7 = true ∧
    tget [] (core.ctx 0).ports 4 = [] := by
  decide +kernel

/-! ### Witnesses: tasks, gangs and contexts -/

def waiting1 : Member := { memb with st := .waiting }
def gangSt (st : GangSt) (m : Member) : Gang := { gang1 with st := st, members := [m] }
def idle (g : Gang) : State := { core with gangs := [g], engines := [] }

theorem witness_TasksAndGangs :
    let ended := withPrim fun y => { y with ended := true }
    let pend : Gang := { gangSt .pending waiting1 with cohort := some (7, 2) }
    let both : State := { core with gangs := [pend, { pend with gk := 2, clu := 1 }], engines := [] }
    let done : State := { core with gangs := [gangSt .resident { memb with st := .ended }], engines := [(0, { Engine.reset with holder := some 1 })] }
    ((ended.eng 0).gang = some 1 ∧ ended.gangOf 1 = some gang1 ∧ (ended.eng 0).taskOver = true ∧ (∀ m ∈ gang1.members, m.barrier = none) ∧ gang1.lib = []) ∧
    ((idle (gangSt .listed waiting1)).gangOf 1 = some (gangSt .listed waiting1) ∧ (idle (gangSt .listed waiting1)).mayEnter (gangSt .listed waiting1) = true) ∧
    (both.gangOf 1 = some pend ∧ both.cohortReady pend = true ∧ (both.mates pend).length = 2) ∧
    (done.gangOf 1 = some (gangSt .resident { memb with st := .ended }) ∧ (∀ m ∈ (gangSt .resident { memb with st := .ended }).members, m.st = .ended) ∧
      done.copies = [] ∧ done.pends = [] ∧ (∀ e ∈ coresOf 0, (done.eng e).holder = some 1 → (done.eng e).gang = none) ∧
      done.accs = [] ∧ (done.clu 0).evHeld = [] ∧ (done.clu 0).events.length < 256) := by
  decide +kernel

/-- A task of the operator library, a COPY whose one tile it writes as it ends. -/
theorem witness_library_task :
    let i : Instr := .copy 4 3
    let g : Gang := { gang1 with lib := [i], members := [{ memb with tiles := [0] }] }
    let s : State := { seqr with gangs := [g], engines := [(0, { eng0 with prim := { prim0 with ended := true } })] }
    let v := s.gangEnv g
    (s.eng 0).gang = some 1 ∧ s.gangOf 1 = some g ∧ (s.eng 0).taskOver = true ∧ (s.eng 0).member = 0 ∧ g.coll = [] ∧ (libMembers g.lib).2 = [i] ∧
    v.staged [i] = [] ∧ (v.ownOperands (libMembers g.lib).1 [i]).all (fun p => s.operandFault g.ctx (some g.clu) (v.d p.1) (if p.2 then rW else rR) == none &&
      s.operandAbsent g.ctx (v.d p.1) == none && (!p.2 || s.operandQuiet g.ctx (v.d p.1))) = true := by
  decide +kernel

/-- ELTW of 16 f32 elements in place: both inputs are staged; the task whose jobs have landed issues the job of its output, and then ends. -/
theorem witness_StagedElementwise :
    let i : Instr := .eltw false .mul 4 4 (.desc 3)
    let g (n : Nat) : Gang := { gang1 with lib := [i], dem := 1, engs := [0], oids := [0xFFF00], members := [{ memb with tiles := [0], phase := n }] }
    let s (n : Nat) : State := { seqr with gangs := [g n], engines := [(0, { eng0 with prim := { prim0 with ended := true } })] }
    let v := seqr.opEnv 0
    let toH := (v.d 4).handle
    v.staged [i] = [(4, 1), (3, 2), (4, 3)] ∧ v.chunk 4 4 0 = (0, 64) ∧ v.slotAt 4 3 0 (v.staged [i]) = 32768 ∧
    stageSize v [i] 0 1 1 0 = 3 ∧ ((s 0).gangEnv (g 0)).staged [i] = [(4, 1), (3, 2), (4, 3)] ∧
    ((s 0).eng 0).gang = some 1 ∧ (s 0).gangOf 1 = some (g 0) ∧ (s 1).gangOf 1 = some (g 1) ∧ ((s 0).eng 0).taskOver = true ∧ ((s 1).eng 0).taskOver = true ∧
    v.ownOperands false [i] = [] ∧ (s 0).pickEngine (g 0) 7 = some 0 ∧ toH.check rW (toH.cur + 0) 64 = none := by
  decide +kernel

/-- R449: the output job of ELTW moves the 64 bytes of 16 f32 elements on w3, and ends in the task's end. -/
theorem test_staged_output :
    let i : Instr := .eltw false .mul 4 4 (.desc 3)
    let g (n : Nat) : Gang := { gang1 with lib := [i], dem := 1, engs := [0], oids := [0xFFF00], members := [{ memb with tiles := [0], phase := n }] }
    let s (n : Nat) : State := { seqr with gangs := [g n], engines := [(0, { eng0 with prim := { prim0 with ended := true } })] }
    (match exec (.taskEnd 0) (s 0) with
      | .next t => (t.copies.map fun j => (fld j.flg 0 3, shpBytes j.shp)) == [(3, 64)] && ((t.eng 0).prim.tok 3).toNat == 64
      | _ => false) = true ∧
    (match exec (.taskEnd 0) (s 1) with | .next t => (t.eng 0).gang == none | _ => false) = true := by
  decide +kernel

/-- The head words of a frame that can be read, in frame f of cluster 0's pool at 0x1000000. -/
def pooled (s : State) : State := { s with clusters := [(0, { Cluster.reset with frbase := 0x1000000, frcnt := 32, frfree := 0xFFFFFFFE })] }
def framed (s : State) (f : Nat) : State :=
  { pooled s with mem := mputs [] (locFast 0 (0x1000000 + f * 0x110000 + 0x103000)) (dwords [0x4B46010000000004]) }

theorem witness_saves :
    let waiter : Gang := { gangSt .listed waiting1 with gk := 2, ctx := 1, members := [waiting1, waiting1, waiting1, waiting1] }
    let s : State := { core with ctxs := [(0, ctx0), (1, { ctx0 with prio := 9 })], gangs := [gang1, waiter] }
    let asked := pooled (withCore fun x => { x with saveReq := true, stat := .saving })
    let park := pooled (withCore fun x => { x with parkReq := true })
    let late : Gang := { gangSt .saving memb with deadline := some 1000 }
    (s.gangOf 2 = some waiter ∧ waiter.cohort = none ∧ waiter.waits = true ∧ s.gangLive waiter = true ∧ s.firstWaiting waiter = true ∧ s.fitsAll [waiter] = false ∧
      s.regionsOk waiter = true ∧ s.victims 0 (s.ctx 1).prio [waiter] [] 9 = some [1]) ∧
    ((asked.eng 0).gang = some 1 ∧ asked.gangOf 1 = some gang1 ∧ (asked.eng 0).stopped = false ∧ (asked.eng 0).saveReq = true ∧ (asked.eng 0).parkReq = false ∧
      gang1.waiter = none ∧ (let u := (asked.showSave 0).settleCore 0
        u.quiesced 0 1 false = true ∧ u.freeFrame? (cluOf 0) = some 1 ∧ (u.eng 0).gang = some 1)) ∧
    ((park.eng 0).parkReq = true ∧ (let u := ((park.showSave 0).modEng 0 fun y => { y with ps0 := none, ps1 := none }).settleCore 0
        u.quiesced 0 1 true = true ∧ u.freeFrame? (cluOf 0) = some 1 ∧ (u.eng 0).gang = some 1)) ∧
    ((idle late).gangOf 1 = some late ∧ late.deadline = some 1000 ∧ late.ackd = false ∧ 1000 ≤ (idle late).clk.toNat) := by
  decide +kernel

theorem witness_restores :
    let saved := gangSt .saved { memb with st := .saved 31 }
    let s := framed (idle saved) 31
    let parked := gangSt .resident { memb with st := .parked 31, lent := 0 }
    let t := framed { idle parked with engines := [(0, { Engine.reset with holder := some 1 })] } 31
    let held : Access := { loading .load (fun a => a) 5 with eng := frameKey 0 31, parked := true }
    let u : State := { t with accs := [held] }
    let back : Access := { held with parts := [⟨0, locSbm 0, 8, 7⟩], parked := false, window := false }
    (s.gangOf 1 = some saved ∧ s.mayEnter saved = true ∧ (∀ h ∈ s.mates saved, s.badFrame h = none ∧ ∀ f ∈ h.frames, s.noneHeld h.clu f = true)) ∧
    (t.gangOf 1 = some parked ∧ parked.members[0]? = some { memb with st := .parked 31, lent := 0 } ∧ t.noneHeld 0 31 = true ∧ t.lentCore 1 0 0 = some 0 ∧
      (t.readFrame parked 0 { memb with st := .parked 31, lent := 0 } 31 0).isSome = true) ∧
    (u.accs.find? (·.id == 5) = some held ∧ u.frameOwner 0 31 = some (parked, 0, { memb with st := .parked 31, lent := 0 }) ∧
      u.objEnt held.obj.1 held.obj.2 = some (obj 1 0) ∧ u.placeParts held.obj.1 held.obj.2 (obj 1 0) held.parts = [(⟨0, 0, 8, 7⟩, .at_ (locSbm 0))] ∧
      isExt (locSbm 0) = false ∧ u.quiet 0 (locSbm 0) 8 = true ∧ u.mayStep .value back = true ∧ memb.held = []) := by
  decide +kernel

theorem witness_ContextStates :
    let ready (p n : Nat) : Context := { ctx0 with st := .ready, prio := p, readyAt := n }
    let s : State := { State.reset with ctxs := [(0, ready 3 5), (1, ready 3 4), (2, ready 2 1)] }
    let due : State := { State.reset with ctxs := [(0, { ready 3 5 with st := .running, seq := some 0, keep := true }), (1, ready 3 4)], seqs := [(0, { Seq.reset with ctx := some 0 })] }
    let wake (a : Await) : State := { State.reset with ctxs := [(0, { ready 3 5 with st := .waiting, awaits := a })], mem := mputs [] (locSbm 0) (leBytes 8 (2 ^ 63)) }
    let stop : State := { State.reset with ctxs := [(0, { ready 3 5 with st := .stopping, ending := some ⟨1, 7⟩ })] }
    ((s.seq 3).ctx = none ∧ (s.seq 3).stop = false ∧ s.nextReady 0 = some 1) ∧ ((due.seq 0).ctx = some 0 ∧ due.switchDue 0 = true ∧ (due.ctx 0).keep = true) ∧
    (((wake .none).ctx 0).st = .waiting ∧ ((wake (.layer 0)).ctx 0).awaits = .layer 0 ∧ (wake (.layer 0)).resSet 0 0 = true) ∧
    ((stop.ctx 0).st = .stopping ∧ (stop.ctx 0).seq = none ∧ (stop.ctx 0).trapQueued = false ∧ stop.gangs = [] ∧ (stop.ctx 0).ending = some ⟨1, 7⟩) := by
  decide +kernel

/-! ### Witnesses: comets and collectives -/

/-- A header of one hop, that of a comet without data for entry 0 of generation 1. -/
def route1 (port : Nat) (mc : Bool) : Nat := port * 2 ^ 27 + if mc then 32 else 0
def hdr1 (r o : Nat) : List Word :=
  [.ofNat 64 (2 ^ 60 + 2 ^ 56), .ofNat 64 (0x1000 * 2 ^ 32), .ofNat 64 r, 0, 0, 0, .ofNat 64 o, 0]
def comet1 (port : Nat) : Comet := ⟨hdr1 (route1 port false) 0xB000, []⟩
def sentComet (c : Comet) (d : Device) : State :=
  { core with dev := d, mem := mputs [] (locSp 0 0) (dwords c.hdr ++ c.payload), pends := [⟨5, 0, false, some 0, .comet (locSp 0 0) (locSp 0 64) 0 128 [1]⟩] }
def portsUp : Device := { Device.reset with
  sup := [(17, { SupPort.reset with en := true, st := .up8 })], eth := [(7, { EthPort.reset with en := true, up := true })] }

theorem witness_XcometAndPosts :
    (core.enabled .always = true ∧ core.g? .i64 (.reg 2) = some 64 ∧ Permits (core.h 1) rR (core.h 1).cur 64 ∧ (core.h 1).cur % 64 = 0 ∧
      Permits (core.h 1) rR (((core.h 1).cur : Int) + (64 : Word).toInt) 8192 ∧
      256 * min (leNat (core.view core.focus.eng core.focus.sec core.nextId (locSp 0 0 + 4) 1) % 64) 32 ≤ 8192 ∧
      core.pends.length < 16 ∧ (core.fs.tok 0).toNat + 1 < 2 ^ 32) ∧
    (∀ c ∈ [comet1 31, comet1 17, comet1 25], ∀ bad ∈ [c, { c with hdr := hdr1 (route1 31 false) 0xB001 }],
      let s := sentComet bad portsUp
      let rd (a n : Nat) : List Byte := s.view 0 false 5 a n
      let c0 : Comet := ⟨(rangeFrom 0 8).map fun k => .ofNat 64 (leNat (rd (locSp 0 0 + 8 * k) 8)), []⟩
      let c1 : Comet := { c0 with payload := rd (locSp 0 64) (256 * min c0.plen 32) }
      s.pends.find? (·.id == 5) = some ⟨5, 0, false, some 0, .comet (locSp 0 0) (locSp 0 64) 0 128 [1]⟩ ∧ s.ordered 0 false 5 0 = true ∧ c1 = bad ∧
      s.cometCodes c1 = (if bad = c then [] else [5])) ∧
    (rPort ((comet1 31).route 0) = 31 ∧ rPort ((comet1 17).route 0) = 17 ∧ rPort ((comet1 25).route 0) = 25 ∧ rMc ((comet1 17).route 0) = false ∧
      (tget SupPort.reset portsUp.sup 17).en = true ∧ (tget SupPort.reset portsUp.sup 17).st ≠ .down ∧ (tget EthPort.reset portsUp.eth 7).en = true ∧
      (tget EthPort.reset portsUp.eth 7).up = true) := by
  refine ⟨⟨by decide, by decide, by unfold Permits; decide, by decide, by unfold Permits; decide, by decide, by decide, by decide⟩, by decide +kernel, by decide +kernel⟩

/-- A comet to slot 1023 of plane 17 on its way. -/
theorem witness_Multicast :
    let o : OutComet := ⟨17, ⟨hdr1 (route1 17 true + 1023 * 64) 0x1000, []⟩, false⟩
    ([o] : List OutComet)[0]? = some o ∧ o.port < 18 ∧ rMc (o.c.route o.c.hop) = true ∧ rDev (o.c.route o.c.hop) = 1023 ∧ (17 : Nat) < 18 ∧ 1023 < 1024 := by
  decide +kernel

/-! The collective table lies at a location that the model leaves open, so its witnesses read it by lemma. -/

theorem mgets_mputs (m : List Host.Cell) (a : Nat) (bs : List Byte) : ∀ n k, k + n ≤ bs.length → mgets (mputs m a bs) (a + k) n = (bs.drop k).take n
  | 0, k, _ => by simp [mgets]
  | n + 1, k, h => by
    have hk : k < bs.length := by omega
    have e : bs.drop k = bs[k] :: bs.drop (k + 1) := List.drop_eq_getElem_cons hk
    have g : bs.getD k 0 = bs[k] := by simp [List.getD, hk]
    rw [mgets, Nat.add_assoc, mgets_mputs m a bs n (k + 1) (by omega), mget_mputs, if_pos (by omega), e, List.take_succ_cons,
      Nat.add_sub_cancel_left, g]

theorem mgets_apart (m : List Host.Cell) (a : Nat) (bs : List Byte) : ∀ n l, l + n ≤ a ∨ a + bs.length ≤ l → mgets (mputs m a bs) l n = mgets m l n
  | 0, l, _ => by simp [mgets]
  | n + 1, l, h => by rw [mgets, mgets, mgets_apart m a bs n (l + 1) (by omega), mget_mputs, if_neg (by omega)]

/-- Where the table lies in the shared banks. -/
def tab : Nat := Config.collTable.toNat % (2 ^ 20 - 4095) * 64
theorem tab_lt : tab < 2 ^ 26 := by unfold tab; omega
def inTab : ObjEnt := { obj 1 0 with base := tab + 0x1000 }
def tabHandles : List Word := ([hnd 3, bound 5 0x3000, bound 5 0].map fun h => [.ofNat 64 (h.bits.toNat % 2 ^ 64), .ofNat 64 (h.bits.toNat / 2 ^ 64)]).flatten
/-- Context 0 holds entry 0, with the words given, and the duplicate map's first byte is b. -/
def tabled (w0 w1 : Word) (b : Byte) (gs : List Gang) : State :=
  { core with
    mem := mputs (mputs [] (locSbm (tab + 0x1000)) [b]) collLoc (dwords ([w0, w1] ++ tabHandles))
    tags := [collLoc / 16 + 1, collLoc / 16 + 2, collLoc / 16 + 3]
    gangs := gs
    ctxs := [(0, { ctx0 with objs := ctx0.objs ++ [(5, some inTab), (0xFFFFF, some { obj 1 0 with base := tab, size := 64 })] })]
    dev := { Device.reset with timers := [(0, 2000000001, none)] } }

theorem tabled_word (w0 w1 : Word) (b : Byte) (gs : List Gang) (j : Nat) (h : j < 8) : (tabled w0 w1 b gs).entWord 0 j =
    .ofNat 64 (leNat (((dwords ([w0, w1] ++ tabHandles)).drop (8 * j)).take 8)) := by
  have hl : (dwords ([w0, w1] ++ tabHandles)).length = 64 := by simp [dwords, tabHandles, leBytes]
  show BitVec.ofNat 64 (leNat (mgets (mputs _ collLoc _) (collLoc + 64 * 0 + 8 * j) 8)) = _
  rw [show collLoc + 64 * 0 + 8 * j = collLoc + 8 * j by omega, mgets_mputs _ _ _ _ _ (by omega)]

theorem tabled_handle (w0 w1 : Word) (b : Byte) (gs : List Gang) (j : Fin 3) : (tabled w0 w1 b gs).entHandle 0 (2 + 2 * j) =
    ⟨.ofNat 128 (leNat (((dwords tabHandles).drop (16 * j)).take 16)), true⟩ := by
  have hl : (dwords ([w0, w1] ++ tabHandles)).length = 64 := by simp [dwords, tabHandles, leBytes]
  have hd : (dwords ([w0, w1] ++ tabHandles)).drop (16 + 16 * j) = (dwords tabHandles).drop (16 * j) := by
    rw [← List.drop_drop]; exact congrArg _ (by simp [dwords, leBytes])
  have ht := tab_lt
  have hc : collLoc = 2 ^ 48 + tab := rfl
  have h16 : tab % 16 = 0 := by unfold tab; omega
  have q : ∀ k, k < 4 → (collLoc + 16 * k) / 16 = collLoc / 16 + k := by omega
  show (⟨BitVec.ofNat 128 (leNat (mgets (mputs _ collLoc _) (collLoc + 64 * 0 + 8 * (2 + 2 * j)) 16)), hasTag _ && tagGet _ _⟩ : Handle) = _
  have e : collLoc + 64 * 0 + 8 * (2 + 2 * (j : Nat)) = collLoc + 16 * (1 + j) := by omega
  rw [e, show collLoc + 16 * (1 + (j : Nat)) = collLoc + (16 + 16 * j) by omega, mgets_mputs _ _ _ _ _ (by omega), hd,
    show collLoc + (16 + 16 * (j : Nat)) = collLoc + 16 * (1 + j) by omega, q _ (by omega)]
  congr 1
  rw [Bool.and_eq_true]
  constructor
  · simp only [hasTag, decide_eq_true_eq]; omega
  · match j with
    | ⟨0, _⟩ | ⟨1, _⟩ | ⟨2, _⟩ => simp [tabled, tagGet]

theorem tabled_leaf (w0 w1 : Word) (b : Byte) (gs : List Gang) (o : Nat) : (tabled w0 w1 b gs).leafLoc 0 o = none := by
  simp only [State.leafLoc]
  rw [show ((tabled w0 w1 b gs).ctx 0).otdir = 0 from rfl]
  simp
theorem tabled_obj (w0 w1 : Word) (b : Byte) (gs : List Gang) (o : Nat) :
    (tabled w0 w1 b gs).objEnt 0 o = (tfind ((tabled w0 w1 b gs).ctx 0).objs o).getD none := by
  rw [State.objEnt, tabled_leaf]

theorem tabled_ctx (w0 w1 : Word) (b : Byte) (gs : List Gang) : (tabled w0 w1 b gs).entCtx 0 = some 0 := by
  have ho : (tabled w0 w1 b gs).objEnt 0 collOid = some { obj 1 0 with base := tab, size := 64 } := by rw [tabled_obj]; rfl
  have hm : (0 : Nat) ∈ (tabled w0 w1 b gs).entsOf 0 := by
    unfold State.entsOf
    rw [ho, show ((tabled w0 w1 b gs).ctx 0).part.val = 0 from rfl, show (tabled w0 w1 b gs).dev.mode = 0 from rfl]
    simp only [obj, show ((1 : Fin 5).val = 1) from rfl, if_pos]
    rw [List.mem_filter]
    exact ⟨List.mem_cons_self .., by simp [partOfUnit, show collLoc = locSbm tab from rfl, locSbm]; omega⟩
  show List.find? _ [0] = _
  simp only [List.find?_cons, List.contains_iff_mem.2 hm]

theorem tabled_placed (w0 w1 : Word) (b : Byte) (gs : List Gang) (a : Nat) (h : a < 2 ^ 26) :
    (tabled w0 w1 b gs).placed 0 (locSbm a) = .at_ (locSbm a) := by
  have f : isFast (locSbm a) = false := decide_eq_false (by simp only [locSbm]; omega)
  have c : isCap (locSbm a) = false := by
    rw [isCap, show decide (locSbm a < 2 ^ 48) = false from decide_eq_false (by simp only [locSbm]; omega), Bool.and_false]
  have q : isSbm (locSbm a) = true := by
    rw [isSbm, show decide (2 ^ 48 ≤ locSbm a) = true from decide_eq_true (by simp only [locSbm]; omega),
      show decide (locSbm a < 2 ^ 50) = true from decide_eq_true (by simp only [locSbm]; omega), Bool.and_true]
  have p : (tabled w0 w1 b gs).sbmPart (locSbm a) = 0 := rfl
  have l : locSbm a - locSbm 0 < 2 ^ 26 := by simp only [locSbm]; omega
  simp only [State.placed, State.owns, f, c, q, p, l]
  rfl

/-- The entry's record and map lie where their handles say, and its buffer in the fast tier. -/
theorem tabled_places (w0 w1 : Word) (b : Byte) (gs : List Gang) :
    let s := tabled w0 w1 b gs
    s.collPlace 0 (s.entHandle 0 4) rW (s.entHandle 0 4).cur 16 false = .runs [(locSbm (tab + 0x1000 + 0x3000), 0x3000, 16)] ∧
    s.collPlace 0 (s.entHandle 0 6) rW (s.entHandle 0 6).cur 8192 false = .runs [(locSbm (tab + 0x1000 + 0), 0, 8192)] ∧
    s.collPlace 0 (s.entHandle 0 2) rB (s.entHandle 0 2).cur 256 true = .runs [(locFast 0 0x100000, 0, 256)] ∧ s.entHandlesOk 0 = true ∧
    (s.entHandle 0 4).cur = 0x3000 ∧ (s.entHandle 0 6).cur = 0 ∧ (s.entHandle 0 2).cur = 0 := by
  intro s
  have h2 : s.entHandle 0 2 = hnd 3 := (tabled_handle w0 w1 b gs 0).trans (by decide)
  have h4 : s.entHandle 0 4 = bound 5 0x3000 := (tabled_handle w0 w1 b gs 1).trans (by decide)
  have h6 : s.entHandle 0 6 = bound 5 0 := (tabled_handle w0 w1 b gs 2).trans (by decide)
  have c : s.entCtx 0 = some 0 := tabled_ctx w0 w1 b gs
  have o5 : s.objEnt 0 5 = some inTab := by rw [tabled_obj]; rfl
  have o3 : s.objEnt 0 3 = some (obj 2 0) := by rw [tabled_obj]; rfl
  have ht : tab + 0x40000 ≤ 2 ^ 26 := by unfold tab; omega
  have pl (o : Nat) (h : o < 0x40000 - 0x1000) : s.place 0 5 inTab o = .at_ (locSbm (tab + 0x1000 + o)) := by
    have e : s.place 0 5 inTab o = if 0x40000 ≤ o then Place.bounds else s.placed 0 (locSbm (tab + 0x1000 + o)) := rfl
    rw [e, if_neg (by omega)]
    exact tabled_placed w0 w1 b gs _ (by omega)
  have p4 : s.collPlace 0 (s.entHandle 0 4) rW (s.entHandle 0 4).cur 16 false = .runs [(locSbm (tab + 0x1000 + 0x3000), 0x3000, 16)] := by
    have r : s.runs 0 5 inTab 0x3000 16 2 = [(s.place 0 5 inTab 0x3000, 0x3000, 16)] := by simp [State.runs, show inTab.size = 0x40000 from rfl]
    unfold State.collPlace State.reach
    simp only [c, h4, show (bound 5 0x3000).oid = 5 by decide, o5, show (bound 5 0x3000).cur = 0x3000 by decide]
    simp only [show 16 / 65536 + 2 = 2 by decide, r, pl 0x3000 (by omega)]
    rfl
  have p6 : s.collPlace 0 (s.entHandle 0 6) rW (s.entHandle 0 6).cur 8192 false = .runs [(locSbm (tab + 0x1000 + 0), 0, 8192)] := by
    have r : s.runs 0 5 inTab 0 8192 2 = [(s.place 0 5 inTab 0, 0, 8192)] := by simp [State.runs, show inTab.size = 0x40000 from rfl]
    unfold State.collPlace State.reach
    simp only [c, h6, show (bound 5 0).oid = 5 by decide, o5, show (bound 5 0).cur = 0 by decide]
    simp only [show 8192 / 65536 + 2 = 2 by decide, r, pl 0 (by omega)]
    rfl
  have p2 : s.collPlace 0 (s.entHandle 0 2) rB (s.entHandle 0 2).cur 256 true = .runs [(locFast 0 0x100000, 0, 256)] := by
    have r : s.runs 0 3 (obj 2 0) 0 256 2 = [(s.place 0 3 (obj 2 0) 0, 0, 256)] := by simp [State.runs, show (obj 2 0).size = 0x40000 from rfl]
    have q : s.place 0 3 (obj 2 0) 0 = .at_ (locFast 0 0x100000) := by
      have u : tfind (s.ctx 0).exts 3 = some [⟨1, false, 4, 0, 0, 16⟩] := rfl
      have v : extsCover 0 (obj 2 0).granules [⟨1, false, 4, 0, 0, 16⟩] = true := by decide
      have e : s.extsOf 0 3 (obj 2 0) = some [⟨1, false, 4, 0, 0, 16⟩] := by
        simp only [State.extsOf, show (obj 2 0).base = 0 from rfl, u, v, if_true]
      have o : s.placed 0 (locFast 0 0x100000) = .at_ (locFast 0 0x100000) := by
        have f : isFast (locFast 0 0x100000) = true := by decide
        have w : locFast 0 0x100000 % 2 ^ 40 < 8 * 0xC00000000 := by decide
        simp only [State.placed, State.owns, show s.stacks = 8 from rfl, f, w, decide_true, if_true]
      have a : extAt [⟨1, false, 4, 0, 0, 16⟩] (0 / 65536) = some ⟨1, false, 4, 0, 0, 16⟩ := by decide
      simp only [State.place, State.placeIn, e, a, show (s.ctx 0).part.val = 0 from rfl, show (obj 2 0).space.val = 2 from rfl,
        show (obj 2 0).layer = 0xFFFF from rfl, show (obj 2 0).size = 0x40000 from rfl]
      simpa using o
    unfold State.collPlace State.reach
    simp only [c, h2, show (hnd 3).oid = 3 by decide, o3, show (hnd 3).cur = 0 by decide]
    simp only [show 256 / 65536 + 2 = 2 by decide, r, q]
    rfl
  refine ⟨p4, p6, p2, ?_, by rw [h4]; decide, by rw [h6]; decide, by rw [h2]; decide⟩
  unfold State.entHandlesOk
  simp only [c, p4, p6]
  rw [h2, show (hnd 3).oid = 3 by decide, o3]
  decide

/-- An arrival at an armed entry, at its only hop and with a next hop on this device; one of another generation; one already seen. -/
theorem witness_CometArrival : ∀ hops, hops = 1 ∨ hops = 2 →
    let w0 : Word := .ofNat 64 (2 ^ 63 + 0x1000)
    let c : Comet := ⟨[.ofNat 64 (2 ^ 60 + hops * 2 ^ 56 + 2 ^ 32), .ofNat 64 (0x1000 * 2 ^ 32), .ofNat 64 (31 * 2 ^ 27 * (1 + 2 ^ 32)), 0, 0, 0, 0x1000, 0],
      List.replicate 256 1⟩
    let s (b : Byte) := tabled w0 (.ofNat 64 (2 ^ 32)) b []
    c.cid % 4096 = 0 ∧ (∀ b, (s b).cometQuiet c = true ∧ (s b).entCid 0 = c.cid ∧ (s b).entArmed 0 = true ∧ (s b).entHandlesOk 0 = true ∧
      (s b).entCid 0 ≠ 0x2000 ∧
      (s b).collPlace 0 ((s b).entHandle 0 6) rW ((s b).entHandle 0 6).cur 8192 false = .runs [(locSbm (tab + 0x1000 + 0), 0, 8192)] ∧
      (s b).rdNat (runAt [(locSbm (tab + 0x1000 + 0), 0, 8192)] ((s b).entHandle 0 6).cur (c.seq / 8)) 1 = b.toNat ∧
      (s b).cometBuf c 0 = .runs [(locFast 0 0x100000, 0, 256)] ∧ (s b).guarded (locFast 0 0x100000) 256 = false) ∧
    collTouched (locFast 0 0x100000) 256 = [] ∧ isExt (locFast 0 0x100000) = false ∧ 256 = 256 * c.plen ∧
    c.cid / 4096 ≠ 0 ∧ c.seq % 8 = 0 ∧ c.hop < c.hops ∧ c.hdr.length = 8 ∧ c.payload.length = 256 * c.plen ∧ opCode (c.op c.hop) = 0 ∧
    efmtOk 0 (opFop (c.op c.hop)) c.efmt = true ∧ opFop (c.op c.hop) < 3 ∧
    (c.hop + 1 < c.hops ↔ hops = 2) ∧ (let c' : Comet := { c.setHop (c.hop + 1) with payload := c.payload }
      (hops = 2 → (s 0).routeOk (c'.route c'.hop) (c'.localAfter c'.hop) = true ∧ rPort (c'.route c'.hop) = 31)) := by
  intro hops hh w0 c s
  have w (b : Byte) : (s b).entWord 0 0 = w0 := (tabled_word w0 _ b [] 0 (by omega)).trans (by decide +kernel)
  have cd : c.boff = 0 ∧ c.plen = 1 ∧ c.cid = 0x1000 ∧ c.seq = 0 := by rcases hh with rfl | rfl <;> decide +kernel
  have g (b : Byte) : (s b).guarded (locFast 0 0x100000) 256 = false := by
    simp [State.guarded, show tkeys (s b).ctxs = [0] from rfl, show ((s b).ctx 0).img = 0 from rfl]
  have bp (b : Byte) : (s b).cometBuf c 0 = .runs [(locFast 0 0x100000, 0, 256)] := by
    simp only [State.cometBuf, cd.1, cd.2.1, Nat.add_zero, Nat.mul_one]
    exact (tabled_places _ _ _ _).2.2.1
  have tc : collTouched (locFast 0 0x100000) 256 = [] := by
    unfold collTouched
    rw [List.filter_eq_nil_iff]
    intro k _
    have : collLoc = locSbm tab := rfl
    simp [this, locSbm, locFast]; omega
  have cid (b : Byte) : (s b).entCid 0 = 0x1000 := by unfold State.entCid; rw [w]; decide +kernel
  have hl : (dwords ([w0, .ofNat 64 (2 ^ 32)] ++ tabHandles)).length = 64 := by simp [dwords, tabHandles, leBytes]
  refine ⟨by rw [cd.2.2.1], fun b => ⟨?_, ?_, ?_, (tabled_places _ _ _ _).2.2.2.1, ?_, (tabled_places _ _ _ _).2.1, ?_, bp b, g b⟩, tc, by decide, by rw [cd.2.1], ?_⟩
  · simp only [State.cometQuiet]
    rw [cd.2.2.1, show (0x1000 % 4096 : Nat) = 0 from rfl, bp b]
    have q : (s b).allQuiet (locFast 0 0x100000) 256 = true := rfl
    have m : (s b).migBlocked (locFast 0 0x100000) 256 = false := by
      rw [State.migBlocked, show locFast 0 0x100000 / 2 ^ 40 = 0 by decide, show ((s b).part 0).migr = none from rfl, Bool.and_false]
    simp [q, m]
  · rw [cid, cd.2.2.1]
  · unfold State.entArmed; rw [w]; decide +kernel
  · rw [cid]; decide
  · rw [cd.2.2.2, show ((s b).entHandle 0 6).cur = 0 from (tabled_places _ _ _ _).2.2.2.2.2.1,
      show runAt [(locSbm (tab + 0x1000 + 0), 0, 8192)] 0 (0 / 8) = locSbm (tab + 0x1000) by simp [runAt, locSbm]]
    show leNat (mgets (mputs _ collLoc _) _ 1) = _
    have : collLoc = locSbm tab := rfl
    rw [mgets_apart _ _ _ _ _ (by right; rw [hl, this]; simp only [locSbm]; omega), show locSbm (tab + 0x1000) = locSbm (tab + 0x1000) + 0 from (Nat.add_zero _).symm,
      mgets_mputs _ _ _ 1 0 (by simp)]
    simp [leNat]
  · rcases hh with rfl | rfl <;> decide +kernel

/-- An entry that counts one arrival and has it or has none, whose timeout of 2000 ms has run out, without and with a gang of its collective. -/
theorem witness_CollectiveEnds : ∀ arr, arr = 0 ∨ arr = 1 → ∀ gs, gs = [] ∨ gs = [{ gang1 with coll := [0x1000] }] →
    let w0 : Word := .ofNat 64 (2 ^ 63 + 0x1000)
    let s := tabled w0 (.ofNat 64 (arr * 2 ^ 32 + 1)) 0 gs
    s.entArmed 0 = true ∧ fld (s.entWord 0 1) 0 32 = 1 ∧ fld (s.entWord 0 1) 32 32 = arr ∧
    s.collPlace 0 (s.entHandle 0 4) rW (s.entHandle 0 4).cur 16 false = .runs [(locSbm (tab + 0x1000 + 0x3000), 0x3000, 16)] ∧
    (if fld (s.entWord 0 0) 32 16 = 0 then 2000 else fld (s.entWord 0 0) 32 16) * 1000000 < s.runTime 0 ∧ s.entCtx 0 = some 0 ∧
    (s.gangs.find? fun y => y.coll.contains (s.entCid 0)) = gs.head? ∧ (∀ g ∈ gs, s.gangOf g.gk = some g) ∧ (s.ctx 0).st.live = true := by
  intro arr ha gs hg w0 s
  have w : s.entWord 0 0 = w0 := (tabled_word w0 _ 0 gs 0 (by omega)).trans (by rcases ha with rfl | rfl <;> decide +kernel)
  have v : s.entWord 0 1 = .ofNat 64 (arr * 2 ^ 32 + 1) := (tabled_word w0 _ 0 gs 1 (by omega)).trans (by rcases ha with rfl | rfl <;> decide +kernel)
  refine ⟨?_, ?_, ?_, (tabled_places _ _ _ _).1, ?_, tabled_ctx _ _ _ _, ?_, ?_, rfl⟩
  · unfold State.entArmed; rw [w]; decide +kernel
  · rw [v]; rcases ha with rfl | rfl <;> decide +kernel
  · rw [v]; rcases ha with rfl | rfl <;> decide +kernel
  · have r : s.runTime 0 = 2000000001 := by rcases ha with rfl | rfl <;> rcases hg with rfl | rfl <;> decide +kernel
    rw [w, r]; decide +kernel
  · have e : s.entCid 0 = 0x1000 := by unfold State.entCid; rw [w]; decide +kernel
    rw [e]
    rcases hg with rfl | rfl <;> rfl
  · rcases hg with rfl | rfl
    · simp
    · intro g hg'; cases List.mem_singleton.1 hg'; rfl

/-! ### Witnesses: memory and Orrery -/

def ringed (ws : List Word) (f : Partition → Partition) (c : Context → Context) : State :=
  { withCtx c with
    mem := mputs image (locFast 0 0x2000000) (dwords ws)
    parts := [(0, f { Partition.reset with orcbase := 0x2000000, orcWidx := 1, orebase := 0x2001000 })] }
def away (c : Context) : Context := { c with exts := [(3, [⟨0, false, 4, 0, 32, 0⟩])] }

/-- The decay; an OTSYNC of a context with nothing in flight; a bad command; refused ones; a FETCH of a layer not resident and of one that is; of an object with granules away; an EVICT of a
pinned object, and forced; a MOVE beyond the object, and into the free pool. -/
theorem witness_OrreryCommands :
    let q := (ringed [] (fun x => { x with otsQ := [(0, 0)] }) id).part 0
    let cmd (ws : List Word) : State := ringed ws id id
    (q.otsQ = [((0 : BitVec 10).toNat, 0)] ∧ seqr.accs = [] ∧ seqr.banks = [] ∧ seqr.pends = [] ∧ ∀ e ∈ seqr.engines, e.2.perms = []) ∧
    (∀ ws ∈ ([[4, 0, 0, 0], [1, 9, 0, 0], [2, 2, 0, 0], [1, 2 ^ 63, 0, 0], [1, 3, 0, 0], [2, 3, 0, 0], [2 + 2 ^ 18, 3, 0, 0], [3, 3, 0x400000001, 100], [3, 3, 0x300000001, 100]] : List (List Word)),
      let s := cmd ws
      (s.part 0).evicts = [] ∧ (s.part 0).orEvents = [] ∧ (s.part 0).cmds = [] ∧ s.headCmd 0 = some ws ∧ cmdBad ws = (ws.headD 0 == 4)) ∧
    (match (cmd [1, 9, 0, 0]).cmdAlloc 0 [1, 9, 0, 0] with | .error n => n == 2 | _ => false) = true ∧
    (match (cmd [2, 2, 0, 0]).cmdAlloc 0 [2, 2, 0, 0] with | .error n => n == 5 | _ => false) = true ∧
    (match (cmd [1, 2 ^ 63, 0, 0]).cmdAlloc 0 [1, 2 ^ 63, 0, 0] with | .ok a => a.layer == some 0 && a.ctx == 0 | _ => false) = true ∧
    (match (cmd [1, 3, 0, 0]).cmdAlloc 0 [1, 3, 0, 0] with | .ok a => a.layer == none && a.oid == 3 | _ => false) = true ∧
    seqr.resSet 0 0 = false ∧ ({ seqr with mem := mputs image (locSbm 0x80000) (leBytes 8 (2 ^ 63)) } : State).resSet 0 0 = true ∧
    (let s := ringed [1, 3, 0, 0] id away
     s.objEnt 0 3 = some (obj 2 0) ∧ s.extsOf 0 3 (obj 2 0) = some [⟨0, false, 4, 0, 32, 0⟩]) ∧
    (seqr.allocInfo ⟨0, none, 3⟩).2.1 = true ∧ fld (2 : Word) 18 1 = 0 ∧ fld (2 + 2 ^ 18 : Word) 18 1 = 1 ∧ (obj 2 0).layer = 0xFFFF ∧
    (match (seqr.ctx 0).awaits with | .none => true | _ => false) = true ∧
    (cmd [3, 3, 0x400000001, 100]).moveBad 0 [3, 3, 0x400000001, 100] = some 2 ∧ (cmd [3, 3, 0x300000001, 100]).moveBad 0 [3, 3, 0x300000001, 100] = none := by
  decide +kernel

/-- A fetch of a layer at its end, at a resident granule and at one away, a move at its end and at granules of both kinds, and a demand fetch of an object and of a layer. -/
theorem witness_OrreryJobs :
    let job (j : OrJob) (c : Context → Context) : State := ringed [1, 2 ^ 63, 0, 0] (fun x => { x with job := j }) c
    let away0 := job (.fetchLayer 0 0 [(3, 3)] 0) away
    let move := job (.moveObj 0 3 1 3 100 3) id
    (∀ s ∈ [job (.fetchLayer 0 0 [] 0) id, job (.fetchLayer 0 0 [(3, 0)] 0) id, away0, job (.evict 0 none [3]) id, move],
      (s.part 0).evicts = [] ∧ (s.part 0).orEvents = [] ∧ (s.part 0).cmds = [] ∧ (s.part 0).migr = none) ∧
    (let s := job (.fetchLayer 0 0 [] 0) id
     (s.fetchList ⟨0, some 0, 0⟩).all (fun q => s.granHere 0 q.1 q.2) = true) ∧
    (let s := ringed [3, 3, 0, 0] (fun x => { x with job := .moveObj 0 3 1 3 100 0, gone := [100] }) id
     100 + 0 ∈ (s.part 0).gone ∧ 100 + 0 ∉ (move.part 0).gone ∧ (s.part 0).migr = none ∧ (s.part 0).evicts = [] ∧ (s.part 0).orEvents = []) ∧
    extAt [⟨1, false, 4, 0, 0, 16⟩] 0 = some ⟨1, false, 4, 0, 0, 16⟩ ∧ extAt [⟨0, false, 4, 0, 32, 0⟩] 3 = some ⟨0, false, 4, 0, 32, 0⟩ ∧
    away0.objEnt 0 3 = some (obj 2 0) ∧ away0.extsOf 0 3 (obj 2 0) = some [⟨0, false, 4, 0, 32, 0⟩] ∧ (away0.ctx 0).part = 0 ∧ runTotal (away0.freeFast 0) ≠ 0 ∧
    (away0.ctx 0).otdir.getLsbD 0 = false ∧
    (let d : DFetch := ⟨0, none, 3, 1, 0⟩
     let e : DFetch := ⟨0, some 0, 3, 1, 0⟩
     let s (d : DFetch) := ringed [] (fun x => { x with demands := [d] }) away
     (∀ x ∈ [d, e], ((s x).part 0).evicts = [] ∧ ((s x).part 0).djob = .idle ∧ ((s x).part 0).demands = [x]) ∧ (s e).resSet 0 0 = false ∧ ((s e).part 0).job = .idle) ∧
    (∀ line ∈ [0, 510],
      let m : Migr := ⟨0, 3, 1, 100, line⟩
      let s := ringed [] (fun x => { x with migr := some m }) id
      (s.part 0).migr = some m ∧ s.objEnt m.ctx m.oid = some (obj 2 0) ∧ s.extsOf m.ctx m.oid (obj 2 0) = some [⟨1, false, 4, 0, 0, 16⟩] ∧
      extAt [⟨1, false, 4, 0, 0, 16⟩] m.og = some ⟨1, false, 4, 0, 0, 16⟩ ∧ m.line < 511 ∧ 100 = m.fg ∧ 100 ∉ (s.part 0).gone ∧ (s.ctx m.ctx).part = 0 ∧ s.allQuiet (locFast 0 ((16 + 1 - 0) * 65536 + 128 * line)) 128 = true) ∧
    (let m : Migr := ⟨0, 3, 1, 100, 1⟩
     let a : Access := { loading .store (fun _ => locFast 0 (17 * 65536)) 12 with parked := false }
     let s : State := { ringed [] (fun x => { x with migr := some m }) id with accs := [a] }
     (∀ p ∈ a.parts, s.migBlocked p.loc p.n = true) ∧ a.parked = false) ∧
    (let b (r : Nat) : BankCmd := { bankCmd .rowz (0, 0) with retry := r, retryAt := some 1000 }
     let s (c : Context → Context) (r : Nat) : State := { ringed [] id c with banks := [b r], gangs := [gang1], engines := [(0, eng0)] }
     (s id 0).banks.find? (·.id == (b 0).id) = some (b 0) ∧ 1000 ≤ (s id 0).clk.toNat ∧ (s id 0).stillAbsent 0 3 0 1024 = none ∧
     ((s away 16).stillAbsent 0 3 0 1024).isSome = true ∧ ((s away 16).eng (b 16).eng).gang = some 1 ∧ (s away 16).gangOf 1 = some gang1) := by
  decide +kernel

/-! ### Witnesses: reliability and submission -/

def err1 (sev : BitVec 8) : ErrorW := ⟨1, 0, sev, 64, none, some 0, none, 0, some 31⟩

theorem witness_Reliability :
    let x (cons : BitVec 16) : Partition := { Partition.reset with tqbase := 0x2000000, tqWidx := 15, tqCons := cons, traps := [⟨1, 0, [1]⟩, ⟨2, 0, [2]⟩] }
    let s (cons : BitVec 16) : State := { core with parts := [(0, x cons)], dev := { Device.reset with threads := [(5, ⟨true, 0, 2, 0, true, 0⟩)] } }
    let noEngine : State := { core with engines := [(0, { eng0 with gang := none })] }
    let life (v : Bool) (n : Word) : State := { core with clk := n, dev := { Device.reset with eolValid := v, eolMonths := 12 } }
    ((s 0).thread? 2 0 0 = some 5 ∧ (s 65535).thread? 2 0 0 = some 5 ∧ ringRoom (15 : BitVec 16) 0 (2 ^ (fld (x 0).tqbase 0 4 + 4)) = true ∧
      ringRoom (15 : BitVec 16) 65535 (2 ^ (fld (x 0).tqbase 0 4 + 4)) = false) ∧
    ((err1 2).eng = some 0 ∧ (core.eng 0).gang = some 1 ∧ core.gangOf 1 = some gang1 ∧ (core.ctx gang1.ctx).st.live = true ∧ (31 : Fin 32) ≠ 30) ∧
    ((noEngine.ctx 0).seq = none ∧ (noEngine.ctx 0).part = (noEngine.clu (err1 4).place.toNat).part ∧ gang1.ctx = 0) ∧
    (core.dev.patEn = true ∧ ({ core with dev := { core.dev with patEn := false } } : State).dev.patEn = false) ∧
    ({ err1 2 with eng := none, hart := some 7 } : ErrorW).hart = some 7 ∧ (core.part 0).migr = none ∧
    (15 ∉ (core.part 0).gone ∧ core.holderOf 0 15 = none ∧ (core.holderOf 0 16).isSome = true ∧ ∀ a, core.holderOf 0 16 = some a → a.ctx = 0) ∧
    ((life true 0).dev.eolValid = true ∧ 12 ≤ (life true 0).dev.eolMonths.toNat ∧ 86400000000000 ≤ (life false 86400000000000).clk.toNat ∧
      ¬ 86400000000000 ≤ (life false 86399999999999).clk.toNat) := by
  refine ⟨by decide +kernel, by decide +kernel, by decide +kernel, by decide +kernel, rfl, by decide +kernel, ⟨by decide +kernel, ?_, by decide +kernel, ?_⟩, by decide +kernel⟩
  · exact Option.isNone_iff_eq_none.1 (by decide +kernel)
  · intro a h
    have : ((core.holderOf 0 16).all fun a => a.ctx == 0) = true := by decide +kernel
    rw [h] at this
    simpa using this

/-- No context of `core` is on a sequencer. -/
theorem witness_MachineCheck : ∀ c q, (core.ctx c).seq = some q → (core.seq q.val).ctx = some c := by
  intro c q h
  have : (core.ctx c).seq = none := by
    by_cases hc : c = 0
    · subst hc; rfl
    · have : core.ctx c = Context.reset := by
        show tget _ [(0, ctx0)] c = _
        simp [tget, Ne.symm hc]
      rw [this]; rfl
  rw [this] at h; cases h

/-- Queue 0 with room for one record more, full, and in ERROR; a thread serves it. -/
def queue0 (widx ridx : BitVec 16) (err : Bool) : SubQ :=
  { SubQ.reset with en := true, ldep := 4, lnent := 0, maxprio := 31, ring := 0x3000000, nbase := 0x3010000, widx := widx, ridx := ridx, err := err,
                    feeddev := 1 * 2 ^ 16 + 1 }
def subm (f : SubQ → SubQ) (rec : List Word) (c : Context → Context) : State :=
  { withCtx c with
    mem := mputs image (locFast 0 0x3000000) (dwords rec)
    queues := [(0, f (queue0 1 0 false))]
    dev := { Device.reset with stage := 4, threads := [(0, ⟨true, 0, 1, 0, true, 0⟩)] } }
def pad16 (ws : List Word) : List Word := ws ++ List.replicate (16 - ws.length) 0

theorem witness_Rings :
    let full := queue0 16 0 false
    let room := queue0 15 0 false
    let bad := queue0 15 0 true
    let note : Note := ⟨7, 9⟩
    let hold : SubQ := { room with held := [note], nwidx := 15, ncons := 65535 }
    room.en = true ∧ room.err = false ∧ (room.widx - room.ridx).toNat < 2 ^ room.ldep ∧ 2 ^ full.ldep ≤ (full.widx - full.ridx).toNat ∧ bad.err = true ∧
    (pad16 [1]).length = 16 ∧ (tget SpThread.reset (subm id [] id).dev.threads 0).en = true ∧ (tget SpThread.reset (subm id [] id).dev.threads 0).kind ≠ 0 ∧
    (tget SpThread.reset (subm id [] id).dev.threads 1).en = false ∧ (subm id [] id).dev.stage = 4 ∧ hold.held = [note] ∧
    (hold.nwidx - (0 : Word).setWidth 16).toNat < 2 ^ (hold.lnent + 4) ∧ room.held = [] := by
  decide +kernel

/-- A record of an unknown type; a LAUNCH of a context that cannot start, and of one that can; a FEED of the last bytes of object 2 from capacity memory; a SIGNAL to its last word; a CANCEL of a
live and of a loaded context. -/
theorem witness_Records :
    let ready (c : Context) : Context := { c with st := .loaded, imgok := true, ownq := 0, seq := none }
    let recs : List (List Word) := [[5], [1], [2, 0, 2, 0x3FFF8, 8, 0x10000], [3, 0, 2, 0x3FFF8, 5], [4]].map pad16
    (∀ w ∈ recs, (subm id w ready).headRec 0 = some (0, w) ∧ (subm id w ready).recBad 0 w = (if w = pad16 [5] then some 1 else none)) ∧
    (let s := subm id (pad16 [1]) ready
     s.launchBad 0 = none ∧ (subm id (pad16 [1]) fun c => { ready c with imgok := false }).launchBad 0 = some 2) ∧
    (let s := subm id (pad16 [2, 0, 2, 0x3FFF8, 8, 0x10000]) ready
     s.objEnt 0 2 = some (obj 1 0) ∧ (obj 1 0).space.val = 1 ∧ 0x3FFF8 + 8 ≤ (obj 1 0).size ∧ s.hartRuns 0x10000 8 = some [(locCap 0x10000, 0x10000, 8)] ∧
      isExt (locSbm 0x3FFF8) = false ∧ (match s.reach 0 2 0x3FFF8 8 with | .runs l => l == [(locSbm 0x3FFF8, 0x3FFF8, 8)] | _ => false) = true ∧
      s.allQuiet (locSbm 0x3FFF8) 8 = true ∧ s.migBlocked (locSbm 0x3FFF8) 8 = false ∧ s.allQuiet (locCap 0x10000) 8 = true ∧ s.guarded (locSbm 0x3FFF8) 8 = false ∧
      0x3FFF8 % 8 = 0 ∧ s.owns 0 (locSbm (0 + 0x3FFF8)) = true) ∧
    ((subm id [] id).ctx 0).st.live = true ∧ ((subm id [] ready).ctx 0).st = .loaded := by
  decide +kernel

/-- A FEED of 8 bytes from the host that asks for a notification, with its read to be sent or failed, over a link that is up or down. -/
def hostFeed (feed : Option (Nat × Bool)) (speed : BitVec 4) : State :=
  (subm (fun x => { x with feedhost := 1, feed := feed }) (pad16 [0x102, 0, 2, 0x3FFF8, 8, 2 ^ 63]) fun c => { c with st := .loaded, imgok := true, ownq := 0 }).modDev
    fun d => { d with pciSpeed := speed }

theorem witness_HostFeed :
    ∀ feed ∈ [none, some (3, true)], ∀ speed ∈ [(5 : BitVec 4), 0],
      let w := pad16 [0x102, 0, 2, 0x3FFF8, 8, 2 ^ 63]
      (hostFeed feed speed).headRec 0 = some (0, w) ∧ (hostFeed feed speed).recBad 0 w = none ∧ recType w = 2 ∧
      ((hostFeed feed speed).queue 0).feed = feed ∧ (hostFeed feed speed).dev.pciSpeed = speed ∧
      (hostFeed feed speed).objEnt 0 2 = some (obj 1 0) ∧ 0x3FFF8 + 8 ≤ (obj 1 0).size ∧ (w.getD 5 0).getLsbD 63 = true ∧ (w.getD 0 0).getLsbD 8 = true := by
  decide +kernel

/-! ### Witnesses: privileged registers and microcode -/

theorem witness_Privileged :
    let img : Word := 0x10000
    let idle (c : CtxSt) : State := withCtx fun x => { x with st := c }
    let quiet : State := { State.reset with seqs := (rangeFrom 0 4).map fun q => (q, { Seq.reset with stop := true }) }
    let hostOff : State := State.reset
    let hostOn : State := { State.reset with dev := { Device.reset with stage := 4, hostos := true } }
    let hostIn : State := { State.reset with dev := { Device.reset with stage := 4 } }
    ((idle .free).ctx 0).st = .free ∧ ((idle .loaded).ctx 0).st = .loaded ∧ ((idle .stopped).ctx 0).st = .stopped ∧ ((idle .ready).ctx 0).st = .ready ∧
    pack [(6, 42, fld img 6 42)] ≠ 0 ∧ seqr.rdNat (locFast (seqr.ctx 0).part.val (fld img 6 42 * 64)) 4 ≠ 0x3149474B ∧
    (fld (0x101 : Word) 0 2 = 1 ∧ fld (2 : Word) 0 2 < 3 ∧ fld (3 : Word) 0 2 = 3 ∧ fld (0 : Word) 0 2 = State.reset.dev.mode.val ∧
      ¬ (fld State.reset.dev.devid 32 16 = 0x9E40) ∧ State.reset.dev.lock = false ∧ quiet.quiescent = true ∧ State.reset.quiescent = false ∧
      (∀ q ∈ [0, 1, 2, 3], (quiet.seq q).patches = [])) ∧
    (hostOff.dev.stage < 4 ∧ hostIn.dev.stage = 4 ∧ hostOn.dev.hostos = true ∧ hostIn.dev.hostos = false ∧ (prsReg 0x7).isNone = true ∧
      ((prsReg 0).map (·.acc)) = some .ro ∧ ((prsReg 0x1000000).map (·.acc)) = some .os ∧
      ((prsReg 8).map (·.acc)) = some .fw ∧ fld (1000000 : Word) 0 20 = 1000000 ∧ fld (1 : Word) 0 20 = 1 ∧
      State.reset.ctxIdle 1023 = true) := by
  decide +kernel

/-- A patch waiting at a boundary; one whose entries the table cannot hold; and an operator of the image's range with its bundles. -/
theorem witness_Microcode :
    let b : List Word := List.replicate 8 0
    let x : Patch := ⟨[(32767, b), (0, b)], [(0, 5), (0xC0, 6)], []⟩
    let s : State := { State.reset with seqs := [(0, { Seq.reset with patches := [x] })] }
    (s.seq 0).patches = [x] ∧ s.atBoundary 0 = true ∧ (x.entries.map (·.1)).Nodup ∧ (x.bundles.map (·.1)).Nodup ∧
    (∀ y ∈ x.bundles, y.1 < 32768 ∧ y.2.length = 8) ∧ (x.entries.all fun (k, w) => k < 0xC0 && opEntryOk w) = false ∧ (State.reset.seq 0).patches = [] ∧
    (0xC0 ≤ (0xEF : BitVec 8).toNat ∧ (0xEF : BitVec 8).toNat < 0xF0 ∧ [b] ≠ [] ∧ (∀ ws ∈ [b], ws.length = 8)) ∧
    runTotal (runStarts ((State.reset.ucUsed 0 0xEF).foldl (fun l k => runTake l k 1) [(0, 32768)]) 1) ≠ 0 := by
  decide +kernel

/-! ### Witnesses: links and masters -/

/-- Entry 0 exports 64 KiB of object 2 from its byte 0 to peers and to the bus at granule 1. -/
def exporter : State :=
  { core with
    mem := mputs [] (locFast 0 0x2000000) (dwords [.ofNat 64 (2 ^ 63 + 2 ^ 62 + 2 ^ 61 + 2 ^ 60 + 2 ^ 59 + 2), 0, .ofNat 64 (2 ^ 32 + 1), 0])
    ctxs := [(0, { ctx0 with expbase := 0x2000000, expcnt := 1 })]
    dev := { Device.reset with stage := 4, patEn := false } }

theorem witness_Inbound :
    let at_ (r : InReach) : List (Nat × Nat × Nat) := match r with | .runs _ l => l | _ => []
    at_ (exporter.inReach (exporter.busEntry 0x10000 8) (.read 8)) = [(locSbm 0, 0, 8)] ∧
    at_ (exporter.inReach (exporter.busEntry 0x1FFF8 8) (.write (List.replicate 8 1))) = [(locSbm 0xFFF8, 0xFFF8, 8)] ∧
    (exporter.busEntry 0x1FFF9 8).isNone = true ∧ at_ (exporter.inReach (exporter.busEntry 0x1FFF9 8) (.read 8)) = [] ∧
    exporter.allQuiet (locSbm 0xFFF8) 8 = true ∧ exporter.migBlocked (locSbm 0xFFF8) 8 = false ∧ exporter.guarded (locSbm 0xFFF8) 8 = false ∧
    isExt (locSbm 0xFFF8) = false ∧ at_ (exporter.inReach (exporter.peerEntry 0 0 0xFFF8 8) (.read 8)) = [(locSbm 0xFFF8, 0xFFF8, 8)] ∧
    (∀ k ∈ [0, 1, 2, 3], (exporter.part k).rhEn = false) ∧ core.dev.stage < 4 ∧ exporter.dev.stage = 4 ∧ (prsReg (0x1000000 + 0)).isSome = true ∧
    (List.replicate 8 (1 : Byte)).length = 8 := by
  decide +kernel

theorem witness_Harts :
    let l := locFast 0 0xFFFFFFFF8
    let o := 0xF0FFFFFFF8 - 0xF000000000
    let mapped : State := { exporter with dev := { exporter.dev with uPages := [o / 4096, 0] } }
    exporter.hartRuns 0x1FFFFFFFF8 8 = some [(l, 0xFFFFFFFF8, 8)] ∧ exporter.inTransit l 8 = false ∧ exporter.migBlocked l 8 = false ∧
    exporter.allQuiet l 8 = true ∧ exporter.guarded l 8 = false ∧ (8 : Nat) = ElemType.i64.width / 8 ∧ exporter.hartRuns 0x2004000000 8 = none ∧
    ({ exporter with dev := { exporter.dev with carve := 0x10000 } } : State).hartRuns 0xFFF9 8 = none ∧ exporter.dev.carve ≤ 2 ^ 36 ∧
    ¬ (0xF000000000 ≤ 0x2004000000) ∧ (0xF000000000 : Nat) ≤ 0xF0FFFFFFF8 ∧ 0xF0FFFFFFF8 + 8 ≤ 0xF100000000 ∧ o / 4096 ∉ exporter.dev.uPages ∧
    o / 4096 ∈ mapped.dev.uPages ∧ (prsReg (0xF000000000 - 0xF000000000)).isSome = true ∧ (0xFFFFF : Nat) < 2 ^ 20 ∧ exporter.hasPart 0 = true ∧
    (0x5FFFFF + 1) * 65536 ≤ exporter.stacks * 0xC00000000 := by
  decide +kernel

theorem witness_Links :
    let r : ExtReq := ⟨5, 900, 0, 2 ^ 64 + 64, none, none, false, 0⟩
    let s : State := { core with ext := [r] }
    let train (x : SupPort) : State := { core with dev := { Device.reset with sup := [(0, x)] } }
    let y : SupPort := { SupPort.reset with en := true, st := .train }
    (s.ext.find? fun y => y.id == 5 && y.kind == 0 && y.wr.isNone) = some r ∧ (7 : BitVec 4).toNat ≤ 7 ∧ (7 : BitVec 4) ≠ 0 ∧
    (train y).portUp 0 = false ∧ (train { y with st := .up4 }).portUp 0 = true ∧ y.narrow = false ∧ y.fails < 2 ∧ 2 ≤ ({ y with fails := 2 } : SupPort).fails ∧
    (tget SupPort.reset (train y).dev.sup 0).st = .train ∧ (tget SupPort.reset (train { y with narrow := true }).dev.sup 0).narrow = true ∧
    (tget SupPort.reset (train { y with narrow := true, half := true, fails := 2 }).dev.sup 0).half = true ∧
    (tget SupPort.reset (train { y with st := .down }).dev.sup 0).st ≠ .train := by
  decide +kernel

/-- A gang parked in frame 31 whose context is on no sequencer, and on one. -/
theorem witness_DebugFrame :
    let parked := gangSt .resident { memb with st := .parked 31, lent := 0 }
    let s := framed (idle parked) 31
    s.frameOwner 0 31 = some (parked, 0, { memb with st := .parked 31, lent := 0 }) ∧ (s.ctx parked.ctx).seq = none ∧ 0x104000 - 8 + 8 ≤ 0x104000 ∧
    (({ s with ctxs := [(0, { ctx0 with seq := some 0 })] } : State).ctx parked.ctx).seq ≠ none := by
  decide +kernel

/-! ### Witnesses: bring-up

What a slot's header says is the model's free value, so the clauses on an accepted slot have no closed witness. -/

theorem witness_Boot :
    let stage (n : Nat) (a : Bool) : State := { State.reset with dev := { Device.reset with stage := n, accepted := a } }
    let upd (x : UpdSt) : State := { State.reset with dev := { Device.reset with upd := x } }
    (stage 1 true).dev.stage = 1 ∧ (stage 1 true).dev.accepted = true ∧ (stage 1 false).dev.accepted = false ∧ (stage 2 true).dev.stage = 2 ∧
    (stage 3 true).dev.stage = 3 ∧ (stage 4 true).dev.stage = 4 ∧ (∀ x ∈ [UpdSt.idle, .writing, .written, .verified], (upd x).dev.upd = x) ∧
    (List.replicate 1024 (1 : Byte)).length ≤ 1024 ∧ 0x17FFC00 + 1024 ≤ 0x1800000 ∧ ({ Device.reset with pendReset := true } : Device).pendReset = true ∧
    Device.reset.pendReset = false ∧ Device.reset.activated = false ∧ (2 : Nat) ≤ 7 ∧ 10 < 11 ∧ Sensor.life ≠ .boot := by
  decide +kernel

/-! ### Witnesses: predicates, traps, steps and invariants -/

theorem witness_PredicatedOff :
    let pr : Pred := .on false 1
    scalarPred (.mov ⟨.i64, .reg 4, .reg 1, pr⟩) = some pr ∧ core.enabled pr = false := by
  decide +kernel

theorem witness_TrapEntry :
    (isSeq core.focus.eng = false ∧ core.fe.gang = some 1 ∧ core.gangOf 1 = some gang1 ∧ (core.ctx gang1.ctx).st.live = true ∧
      (({ core with ctxs := [(0, { ctx0 with st := .stopping })] } : State).ctx gang1.ctx).st.live = false) ∧
    seqr.focus = ⟨48, false⟩ ∧ (seqr.seq 0).ctx = some 0 ∧ (seqr.ctx 0).st.live = true := by
  decide +kernel

/-- The bundle `ws` stands at the PC of `core`'s task. -/
def bundled (f : Engine → Engine) (ws : List Word) : State := { withCore f with mem := mputs [] (locFast 0 0x100080) (dwords ws) }
def turned (s : State) : State := { s with clk := s.clk + 1, slot := .ok }
def slot1 (h : Word) (i : Instr) : List Word := [h, (match encode i with | .slot _ w _ => .ofNat 64 w | _ => 0), 0, 0, 0, 0, 0, 0]
def bundle1 (ib : Bool) (i : Instr) : Bundle := ⟨false, ib, false, 0, [0, 0, 0, 0, 0, 0, 0], [0], [(0, i)]⟩
def mov1 (a : GSrc) : Instr := .mov ⟨.i64, .reg 4, a, .always⟩

/-- A bundle that runs; one at an iteration boundary, without and with a live plane set; one whose slot stalls; one whose slot traps; one whose token is not zero; a LEND outside any loop. -/
theorem witness_StepRunsABundle :
    let plane (x : Engine) : Engine := { x with ps0 := some ⟨true, [], 1000, false⟩ }
    let sending (x : Engine) : Engine := { x with sends := [⟨7, false, none⟩] }
    (∀ q ∈ [(id, slot1 0 (mov1 (.reg 1)), bundle1 false (mov1 (.reg 1))),
        (id, slot1 (2 ^ 29) (.ret (.reg 2) .always), bundle1 true (.ret (.reg 2) .always)),
        (plane, slot1 (2 ^ 29) (.ret (.reg 2) .always), bundle1 true (.ret (.reg 2) .always)),
        (sending, slot1 0 (.recv (.reg 4) 7), bundle1 false (.recv (.reg 4) 7)),
        (id, slot1 0 (.ret (.reg 1) .always), bundle1 false (.ret (.reg 1) .always)),
        (id, slot1 (2 ^ 20) (mov1 (.reg 1)), { bundle1 false (mov1 (.reg 1)) with waitm := 1 }),
        (id, slot1 (2 ^ 28) (mov1 (.reg 1)), { bundle1 false (mov1 (.reg 1)) with lend := true })],
      let s := bundled q.1 q.2.1
      let s' := turned s
      (s.engineOn 0 = true ∧ s.agenda = [] ∧ s.focus = ⟨0, false⟩) ∧
      (match s'.fetchBundle 0 s'.fs.pc.toNat with | .ok ws => (match decodeBundle s'.kind s'.fs.depth ws with | .ok b => b == q.2.2 | _ => false) | _ => false) = true ∧
      (s'.fs.ended = false ∧ s'.fs.lastClk ≠ some s'.clk.toNat ∧ s'.fe.gang.isSome = true ∧ s'.fe.stopped = false ∧ s'.fe.stat = .running ∧
        s'.fe.parkReq = false ∧ s'.fe.sparse = none ∧ s'.atBarrier = false ∧ s'.fe.drain = none) ∧
      s'.beginBundle.loopFault q.2.2 = q.2.2.lend) ∧
    (turned (bundled (fun x => { x with prim := { x.prim with toks := [(0, 1)] } }) [])).beginBundle.fs.mayIssue 1 = false ∧
    (turned (bundled id [])).beginBundle.fs.mayIssue 0 = true ∧
    (let t := (turned (bundled id [])).beginBundle
     t.fs.stageOn 0 = true ∧
     (match exec (.recv (.reg 4) 7) { (turned (bundled sending [])).beginBundle with pos := 0 } with | .next v => v.slot == .stall | _ => false) = true ∧
     (match exec (.ret (.reg 1) .always) { t with pos := 0 } with | .next v => (match v.slot with | .trap _ => true | _ => false) | _ => false) = true ∧
     (match exec (.ret (.reg 2) .always) { t with pos := 0 } with | .next v => v.slot == .ok | _ => false) = true ∧
     (match exec (.ret (.reg 2) .always) { (turned (bundled plane [])).beginBundle with pos := 0 } with | .next v => v.slot == .ok && v.fe.ps0.isSome | _ => false) = true) := by
  decide +kernel

theorem witness_SlotsRun (f : Engine → Engine) (h : f = id) : ∃ t, SlotsRun [0, 0, 0, 0, 0, 0, 0] [(0, mov1 (.reg 1))] (turned (bundled f [])).beginBundle t :=
  ⟨_, .run _ _ _ _ _ _ (by subst h; decide +kernel) rfl (by subst h; decide +kernel) (.done _)⟩

/-- The last graph word of the image at the PC of context 0, with no routine and with one; and a step of the device at the head of the agenda. -/
theorem witness_StepRunsGraphCode :
    let at100 (b : Bool) : State :=
      { (withCtx fun x => { x with bpc := 63 }) with
        focus := ⟨48, false⟩
        mem := mputs image (locFast 0 (0x10000 + 0x100 + 252)) (leBytes 4 0x01000000)
        seqs := [(0, { Seq.reset with ctx := some 0, opTable := if b then [(1, 2 ^ 32 + 5)] else [] })] }
    (∀ b : Bool, let s' := turned (at100 b)
      (at100 b).engineOn 48 = true ∧ (at100 b).agenda = [] ∧ (s'.seq 0).ctx = some 0 ∧ (s'.ctx 0).st = .running ∧ s'.fs.ended = false ∧
      s'.fs.lastClk ≠ some s'.clk.toNat ∧ s'.switchDue 0 = false ∧ (s'.seq 0).routine ≠ .micro ∧
      (match decodeGraph (s'.codeWords 0 (s'.ctx 0).bpc 16) with | .ok (.halt 0, _) => true | _ => false) = true ∧
      (tget 0 (s'.seq 0).opTable (GWord.ofNat ((s'.codeWords 0 (s'.ctx 0).bpc 16).getD 0 0)).opc).getLsbD 32 = b) ∧
    encode .bootStage3 = .none ∧ encode .lend = .none ∧ encode (.halt 0) ≠ .none := by
  decide +kernel

def graphWords (i : Instr) : List Nat := match encode i with | .graph ws => ws | _ => []
/-- The words at the end of the image's code, with a routine of TFREE and a bound XOP. -/
def routineAt (ws : List Nat) (ps : List Patch) : State :=
  { (withCtx fun x => { x with bpc := 64 - ws.length }) with
    focus := ⟨48, false⟩
    mem := mputs image (locFast 0 (0x10000 + 0x200 - 4 * ws.length)) (ws.flatMap (leBytes 4))
    seqs := [(0, { Seq.reset with ctx := some 0, patches := ps, opTable := [(0x1C, 2 ^ 32 + 5), (0xC0, 2 ^ 48 + 2 ^ 32 + 5)] })] }
def routineEntry (ws : List Nat) : Word := tget 0 ((turned (routineAt ws [])).seq 0).opTable (GWord.ofNat (ws.getD 0 0)).opc

/-- A TFREE whose routine is entered, one whose descriptor the image lacks, and a bound XOP; a patch that waits at the boundary. -/
theorem witness_StepEntersRoutines :
    let u (ws : List Nat) := turned (routineAt ws [])
    let nw (ws : List Nat) := (GWord.ofNat (ws.getD 0 0)).nw
    (∀ ws ∈ [graphWords (.tfree 1), graphWords (.tfree 99), [0xC0000000]], (u ws).codeWords 0 ((u ws).ctx 0).bpc 16 = ws ∧
      (routineEntry ws).getLsbD 32 = true ∧ 1 + nw ws ≤ ws.length ∧ (u ws).switchDue 0 = false ∧
      (u ws).operandsIn 0 ((ws.drop 1).take (nw ws)) = (ws.getD 1 0 != 99)) ∧
    (fld (routineEntry [0xC0000000]) 48 16).testBit (nw [0xC0000000]) = true := by
  decide +kernel

theorem witness_StepAdopts :
    let s := turned (routineAt [0xC0000000] [⟨[(0, List.replicate 8 0)], [(0, 5)], []⟩])
    s.atBoundary 0 = true ∧ (s.seq 0).patches ≠ [] ∧ ((s.adoptAll 0).seq 0).patches = [] := by
  decide +kernel

/-- No engine 52; and from the state at reset, whose memory has its canonical form, a step is taken. -/
theorem witness_Invariants : State.reset.engineOn 52 = false ∧ Memory.wf State.reset.mem = true ∧ State.reset.tags = [] ∧
    (match step State.reset with | .next _ => true | _ => false) = true ∧
    (mov1 (.reg 1)).wf .prim = true ∧ (encode (mov1 (.reg 1))).fits = true := by
  decide +kernel

/-! ### Single steps and values, from the spec's worked examples -/

/-- The fixed-latency result that an instruction leaves under way on `core`'s primary stream. -/
def leaves (i : Instr) (s : State) : Option (CDst × BitVec 4) :=
  match exec i s with
  | .next t => match t.slot with | .ok => t.fs.pend.getLast?.map fun c => (c.dst, c.flags) | _ => none
  | _ => none

/-- The worked values of R154; flags in the order of R56. -/
theorem test_division :
    leaves (.div ⟨.i32, false, .reg 4, .long (-7), .reg 1, .always⟩) (withPrim fun x => { x with g := [(1, 2)] }) = some (.g 4 (-3), 0) ∧
    leaves (.rem ⟨.i32, false, .reg 4, .long (-7), .reg 1, .always⟩) (withPrim fun x => { x with g := [(1, 2)] }) = some (.g 4 (-1), 0) ∧
    leaves (.div ⟨.n8, false, .reg 4, .long 200, .reg 0, .always⟩) core = some (.g 4 0xFF, 4) ∧
    leaves (.div ⟨.i8, false, .reg 4, .long (-128), .reg 3, .always⟩) core = some (.g 4 (-128), 0) ∧
    leaves (.div ⟨.i8, true, .reg 4, .long (-128), .reg 3, .always⟩) core = some (.g 4 127, 2) := by
  decide +kernel

/-- R155: a count of the width or more. -/
theorem test_shifts :
    leaves (.shl ⟨.i32, false, .reg 4, .reg 3, .reg 2, .always⟩) core = some (.g 4 0, 0) ∧
    leaves (.sar ⟨.i32, false, .reg 4, .reg 3, .reg 2, .always⟩) core = some (.g 4 (-1), 0) ∧
    leaves (.shr ⟨.n64, false, .reg 4, .reg 3, .reg 1, .always⟩) core = some (.g 4 0x07FFFFFFFFFFFFFF, 0) := by
  decide +kernel

/-- The LOOP of R164's example: at 0x40 with length 2 and count 3 it declares start 0x80 and end 0xC0. -/
theorem test_loop : (match exec (.loop (.reg 5) 2) (withPrim fun x => { x with pc := 0x40, npc := 0x80, g := [(5, 3)] }) with
    | .next t => t.fs.nloops.map (fun e => (e.start, e.stop, e.idx, e.rem)) | _ => []) = [(0x80, 0xC0, 0, 3)] := by
  decide +kernel

/-- R46's example: 464 and 470 into f8e4. R45's example: the three draws of a conversion to bf16. -/
theorem test_convert :
    convert .f8e4 .f32 .rne false 0 0x43E80000 = (0x7E, 1) ∧ convert .f8e4 .f32 .rne false 0 0x43EB0000 = (0x7F, 9) ∧
    convert .f8e4 .f32 .rne true 0 0x43EB0000 = (0x7E, 3) ∧ (convert .bf16 .f32 .sr false 0x00042021 0x3F80C000).1 = 0x3F80 ∧
    (convert .bf16 .f32 .sr false 0x04080601 0x3F80C000).1 = 0x3F80 ∧ (convert .bf16 .f32 .sr false 0x9DCCA8C5 0x3F80C000).1 = 0x3F81 := by
  decide +kernel

/-- R42's example: the block 3.0, −0.75, 0.01 in dx8. -/
theorem test_dx8 :
    let l := [0x40400000, 0xBF400000, 0x3C23D70A].map (dxSource .f32)
    dxScale false (l ++ List.replicate 29 (dxSource .f32 0)) = 0x807A ∧ l.map (fun x => (dxElem false .rne 0 0x807A x).1) = [0xB0, 0xCC, 0x0A] := by
  decide +kernel

/-- R54's example: the tree sums 2^24, 1, 1, −2^24, 1, 1, 1, 1 to 5. -/
theorem test_vred : (match leaves (.vred ⟨.add, .f32, .rne, false, .reg 4, .reg 1, .always⟩)
      (withCore fun x => { x with v := [(1, 0x3F8000003F8000003F8000003F800000CB8000003F8000003F8000004B800000)] }) with
    | some (.v 4 _ v, _) => lane .f32 v 0 | _ => 0) = 0x40A00000 := by
  decide +kernel

/-- R75's example: the handle's two words, its bounds and the outcome of each access. -/
theorem test_handle :
    let h : Handle := .make 0x12 0xC8 8 4 6 0x10000
    h.bits = 0x00012C8800000400#64 ++ 0x0006000000010000#64 ∧ h.lowB = 0x10000 ∧ h.highB = 0x18000 ∧ h.check rR 0x17F00 256 = none ∧
    h.check rR 0x17F80 256 = some 6 ∧ h.check rR 0xFFF0 8 = some 6 ∧ h.check rA 0x10000 8 = some 5 := by
  decide +kernel

/-- R69's example, and R425's with pc 6 of stack 5 retired. -/
theorem test_banks :
    let s : State := { State.reset with dev := { Device.reset with rpcLive := [(5, 64)] } }
    State.reset.bankOf (locFast 0 0x123450000) = (5, 110, 1) ∧ State.reset.bankOf (locFast 0 (0x123450000 + 5 * 1024)) = (5, 62, 1) ∧
    State.reset.bankOf (locFast 0 0x143450000) = (5, 110, 1) ∧ s.bankOf (locFast 0 0x123450000) = (5, 270, 94) ∧
    s.bankOf (locFast 0 (0x123450000 + 5 * 1024)) = (5, 62, 1) ∧ (s.bankOf (locFast 0 0x143450000)).2.1 = 286 := by
  decide +kernel

/-- Right after reset, a HALT placed by withFetchWord is the instruction that the first step runs. -/
theorem test_first_step :
    decodeTableWord 32 0x01000000 = some (.halt 0) ∧
    (match step (State.reset.withFetchWord 32 0x01000000) with | .next t => (t.ctx 0).st == .stopping && (t.ctx 0).ending.isSome | _ => false) = true := by
  decide +kernel

end Sys2Proof.Tests
end

/-!
PROOF. A step stops only for the turn of an engine that is absent or disabled (R1): every meaning answers a next state, so does
every bundle and every graph instruction, and what time ends before a turn leaves the enabled clusters.
-/
namespace Sys2Proof.Machine

/-! ### Every instruction, bundle and graph instruction answers a next state -/

/-- Every arm of `exec` is a next state, by itself or through the form that it shares with others (`slotP`, `vslot`, `graphRun`,
`onRecord` and the like, which are next states whatever they run). -/
theorem exec_next (i : Instr) (s : State) : ∃ t, exec i s = .next t := by
  cases i <;> exact ⟨_, rfl⟩

theorem runSlots_next (tags : List Nat) : ∀ (l : List (Nat × Instr)) (s : State), ∃ t, runSlots tags l s = .next t
  | [], s => ⟨s, rfl⟩
  | (p, i) :: l, s => by
    obtain ⟨t, ht⟩ := exec_next i { s with pos := p }
    obtain ⟨rest, hrest⟩ := runSlots_next tags l s
    rw [runSlots]
    split
    case isFalse => exact ⟨rest, hrest⟩
    case isTrue =>
      simp only [ht, hrest]
      cases t.slot with
      | ok => exact runSlots_next tags l t
      | trap x => cases rest.slot <;> exact ⟨_, rfl⟩
      | stall => exact ⟨t, rfl⟩
      | wait => exact ⟨t, rfl⟩

/-- The LEND of a bundle that has one, after slots that neither stall nor trap. -/
theorem lend_next (b : Bundle) (t : State) :
    ∃ u, (if b.lend && t.slot = .ok then exec .lend t else .next t : Host.Outcome State Fault Refusal) = .next u := by
  split
  · exact exec_next .lend t
  · exact ⟨t, rfl⟩

theorem State.issueWords_next (s : State) (ws : List Nat) : ∃ t, s.issueWords ws = .next t := by
  unfold State.issueWords
  cases decodeBundle s.kind s.fs.depth ws with
  | error n => exact ⟨_, rfl⟩
  | ok b =>
    obtain ⟨t, ht⟩ := runSlots_next b.tags b.slots s.beginBundle
    obtain ⟨u, hu⟩ := lend_next b t
    simp only [ht, hu]
    split
    · exact ⟨_, rfl⟩
    split
    · exact ⟨_, rfl⟩
    cases u.slot with
    | ok =>
      dsimp only
      split <;> exact ⟨_, rfl⟩
    | _ => exact ⟨_, rfl⟩

theorem State.issueCore_next (s : State) : ∃ t, s.issueCore = .next t := by
  unfold State.issueCore
  extract_lets r x y idle
  split
  · exact ⟨_, rfl⟩
  cases r.fetchBundle r.focus.eng y.pc.toNat with
  | fault => exact ⟨_, rfl⟩
  | wait => exact ⟨_, rfl⟩
  | ok ws =>
    dsimp only
    split
    · exact r.issueWords_next ws
    cases r.offered r.focus.eng with
    | none => exact ⟨_, rfl⟩
    | some m =>
      cases decodeBundle .sec y.depth ws with
      | error => exact r.issueWords_next ws
      | ok b =>
        dsimp only
        split
        · exact r.issueWords_next ws
        · exact ⟨_, rfl⟩

theorem State.issueGraph_next (s : State) (q c : Nat) : ∃ t, s.issueGraph q c = .next t := by
  unfold State.issueGraph
  cases s.codeWords c (s.ctx c).bpc 16 with
  | nil => exact ⟨_, rfl⟩
  | cons w l =>
    dsimp only
    split
    · split
      · exact ⟨_, rfl⟩
      split
      · exact ⟨_, rfl⟩
      split <;> exact ⟨_, rfl⟩
    cases decodeGraph (w :: l) with
    | error x => cases x <;> exact ⟨_, rfl⟩
    | ok p =>
      dsimp only
      split
      · exact exec_next p.1 _
      · split <;> exact ⟨_, rfl⟩

theorem State.issueSeq_next (s : State) (q : Nat) : ∃ t, s.issueSeq q = .next t := by
  unfold State.issueSeq
  cases (s.seq q).ctx with
  | none => exact ⟨_, rfl⟩
  | some c =>
    dsimp only
    split
    · exact ⟨_, rfl⟩
    cases (s.seq q).routine with
    | micro =>
      cases s.fetchBundle s.focus.eng s.fs.pc.toNat with
      | ok ws => exact s.issueWords_next ws
      | fault => exact ⟨_, rfl⟩
      | wait => exact ⟨_, rfl⟩
    | _ => exact State.issueGraph_next ..

/-! ### What time ends before a turn leaves DEVID -/

theorem foldl_devid {α : Type} {f : State → α → State} (h : ∀ s a, (f s a).dev.devid = s.dev.devid) (l : List α) (s : State) :
    (l.foldl f s).dev.devid = s.dev.devid := by
  induction l generalizing s with
  | nil => rfl
  | cons a l ih => rw [List.foldl_cons, ih, h]

theorem State.collArm_devid (s : State) (k : Nat) : (s.collArm k).dev.devid = s.dev.devid := by
  unfold State.collArm
  extract_lets w run
  split <;> rfl

theorem State.put_devid (s : State) (l : Nat) (bs : List Byte) : (s.put l bs).dev.devid = s.dev.devid := by
  unfold State.put
  extract_lets t
  split
  · exact foldl_devid State.collArm_devid _ t
  · rfl

theorem State.putWords_devid : ∀ (ws : List Word) (s : State) (l : Nat), (s.putWords l ws).dev.devid = s.dev.devid
  | [], _, _ => rfl
  | _ :: ws, s, l => (State.putWords_devid ws _ _).trans (s.put_devid l _)

theorem State.errRecord_devid (s : State) (unit place sev : Nat) (loc : Word) (obj : Option (Nat × Nat)) :
    (s.errRecord unit place sev loc obj).dev.devid = s.dev.devid := by
  unfold State.errRecord
  extract_lets d n w3 r u
  split
  · exact State.putWords_devid r u _
  · rfl

theorem State.failReq_devid (s : State) (r : ExtReq) : (s.failReq r).dev.devid = s.dev.devid := by
  unfold State.failReq
  cases r.wr with
  | some _ => rfl
  | none => exact State.errRecord_devid ..

theorem State.trainLate_devid (s : State) (k : Nat) : (s.trainLate k).dev.devid = s.dev.devid := by
  unfold State.trainLate
  extract_lets x
  split <;> rfl

theorem State.expire_devid (s : State) : s.expire.dev.devid = s.dev.devid :=
  (foldl_devid State.trainLate_devid _ _).trans (foldl_devid State.failReq_devid _ s)

theorem State.engineOn_congr {s t : State} (h : s.dev.devid = t.dev.devid) (e : Nat) : s.engineOn e = t.engineOn e := by
  simp only [State.engineOn, State.cluOn, h]

@[simp] theorem State.engineOn_expire (s : State) (e : Nat) : s.expire.engineOn e = s.engineOn e :=
  State.engineOn_congr s.expire_devid e

/-! ### Turns and steps -/

theorem State.issueAt_off {s : State} {e : Nat} (h : s.engineOn e = false) (sec : Bool) :
    s.issueAt e sec = .fault (.noSuchEngine e) := by simp [State.issueAt, h]

theorem State.issueAt_on {s : State} {e : Nat} (h : s.engineOn e = true) (sec : Bool) : ∃ t, s.issueAt e sec = .next t := by
  simp only [State.issueAt, h, Bool.not_true, Bool.false_eq_true, if_false]
  split
  · exact State.issueSeq_next ..
  · exact State.issueCore_next _

/-- The next move is a turn of engine e: the agenda names it, or the agenda is empty and e is in focus. -/
def State.TurnOf (s : State) (e : Nat) : Prop :=
  (s.agenda = [] ∧ s.focus.eng = e) ∨ ∃ dt rest sec, s.agenda = ⟨dt, .issue e sec⟩ :: rest

/-- The step of a turn issues a stream of the engine, in a state whose enabled engines are those of s. -/
theorem State.TurnOf.step_eq {s : State} {e : Nat} (h : s.TurnOf e) :
    ∃ (u : State) (sec : Bool), step s = u.issueAt e sec ∧ u.engineOn e = s.engineOn e := by
  rcases h with ⟨ha, rfl⟩ | ⟨dt, rest, sec, ha⟩
  · refine ⟨({ s with clk := s.clk + 1 } : State).expire, s.focus.sec, ?_, State.engineOn_expire ..⟩
    simp only [step, State.move, ha]
  · refine ⟨({ s with agenda := rest, clk := s.clk + .ofNat 64 dt } : State).expire, sec, ?_, State.engineOn_expire ..⟩
    simp only [step, State.move, ha]

theorem State.TurnOf.step_off {s : State} {e : Nat} (h : s.TurnOf e) (hoff : s.engineOn e = false) :
    step s = .fault (.noSuchEngine e) := by
  obtain ⟨u, sec, hstep, hon⟩ := h.step_eq
  rw [hstep, State.issueAt_off (hon.trans hoff)]

theorem State.TurnOf.step_on {s : State} {e : Nat} (h : s.TurnOf e) (hon : s.engineOn e = true) : ∃ t, step s = .next t := by
  obtain ⟨u, sec, hstep, hu⟩ := h.step_eq
  rw [hstep]
  exact State.issueAt_on (hu.trans hon) sec

theorem step_event_next {s : State} {dt : Nat} {i : Instr} {rest : List Move} (h : s.agenda = ⟨dt, .event i⟩ :: rest) :
    ∃ t, step s = .next t := by
  simp only [step, State.move, h]
  cases encode i with
  | none =>
    dsimp only
    split
    · exact ⟨_, rfl⟩
    · exact exec_next ..
  | _ => exact ⟨_, rfl⟩

/-- A step answers a next state, or it is the turn of an engine that is absent or disabled and stops by its name. -/
theorem step_cases (s : State) :
    (∃ t, step s = .next t) ∨ ∃ e, s.TurnOf e ∧ s.engineOn e = false ∧ step s = .fault (.noSuchEngine e) := by
  by_cases hstop : ∃ e, s.TurnOf e ∧ s.engineOn e = false
  · obtain ⟨e, hturn, hoff⟩ := hstop
    exact .inr ⟨e, hturn, hoff, hturn.step_off hoff⟩
  · have hon : ∀ e, s.TurnOf e → s.engineOn e = true := by simpa using hstop
    left
    match ha : s.agenda with
    | [] =>
      have hturn : s.TurnOf s.focus.eng := .inl ⟨ha, rfl⟩
      exact hturn.step_on (hon _ hturn)
    | ⟨dt, .issue e sec⟩ :: rest =>
      have hturn : s.TurnOf e := .inr ⟨dt, rest, sec, ha⟩
      exact hturn.step_on (hon _ hturn)
    | ⟨_, .event _⟩ :: _ => exact step_event_next ha

/-- A part with cluster 0 disabled stops at a turn of core 3, and at a turn of engine 52, which no part has. -/
example :
    let s : State := { State.reset with dev := { Device.reset with devid := 0xB3A79E4000000FBE } }
    step { s with focus := ⟨3, false⟩ } = .fault (.noSuchEngine 3) ∧
      step { s with agenda := [⟨5, .issue 52 true⟩] } = .fault (.noSuchEngine 52) :=
  ⟨State.TurnOf.step_off (.inl ⟨rfl, rfl⟩) (by decide), State.TurnOf.step_off (.inr ⟨5, [], true, rfl⟩) (by decide)⟩

/-- Settles O57: a step that stops is the turn of an engine that is off (`step_cases`), and every such turn stops. -/
theorem stepStopsOnlyWithoutAnEngine : Obligations.StepStopsOnlyWithoutAnEngine := by
  refine ⟨fun s r h => ?_, fun s e => ⟨fun h => ?_, fun ⟨hoff, hturn⟩ => State.TurnOf.step_off hturn hoff⟩⟩
  · obtain ⟨t, ht⟩ | ⟨e, -, -, he⟩ := step_cases s
    · cases ht.symm.trans h
    · cases he.symm.trans h
  · obtain ⟨t, ht⟩ | ⟨d, hturn, hoff, hd⟩ := step_cases s
    · cases ht.symm.trans h
    · cases hd.symm.trans h
      exact ⟨hoff, hturn⟩

end Sys2Proof.Machine

/-!
PROOF. Steps do not keep `MemInv`: it speaks of memory and tags alone, and a save copies an engine's accumulator cells into memory as
they are listed (R364, R368). Where these do not rise strictly, neither does memory after the save.
-/
namespace Sys2Proof.Machine

open Sys2Proof.Safety

/-! ### Writes keep the cells that lie below them -/

variable {cs : List Host.Cell}

theorem mputs_sublist {m : List Host.Cell} {a : Nat} (hlow : ∀ c ∈ cs, c.1 < a) (hs : cs.Sublist m) (bs : List Byte) :
    cs.Sublist (mputs m a bs) := by
  have hcs : cs.filter (fun c => decide (c.1 < a)) = cs := List.filter_eq_self.2 fun c hc => by simpa using hlow c hc
  have hkept : cs.Sublist (m.filter fun c => decide (c.1 < a)) := hcs ▸ hs.filter _
  rw [mputs, List.append_assoc]
  exact hkept.trans (List.sublist_append_left ..)

@[simp] theorem State.collArm_mem (s : State) (k : Nat) : (s.collArm k).mem = s.mem := by
  unfold State.collArm
  extract_lets w run
  split <;> rfl

theorem State.foldl_collArm_mem (ks : List Nat) (s : State) : (ks.foldl State.collArm s).mem = s.mem := by
  induction ks generalizing s with
  | nil => rfl
  | cons k ks ih => rw [List.foldl_cons, ih, State.collArm_mem]

@[simp] theorem State.put_mem (s : State) (l : Nat) (bs : List Byte) : (s.put l bs).mem = mputs s.mem l bs := by
  unfold State.put
  extract_lets t
  split
  · exact State.foldl_collArm_mem _ t
  · rfl

theorem State.put_sublist {s : State} {l : Nat} (hlow : ∀ c ∈ cs, c.1 < l) (hs : cs.Sublist s.mem) (bs : List Byte) :
    cs.Sublist (s.put l bs).mem := by
  rw [State.put_mem]
  exact mputs_sublist hlow hs bs

theorem State.putHandle_sublist {s : State} {l : Nat} (hlow : ∀ c ∈ cs, c.1 < l) (hs : cs.Sublist s.mem) (h : Handle) :
    cs.Sublist (s.putHandle l h).mem := State.put_sublist hlow hs _

theorem State.putWords_sublist : ∀ (ws : List Word) {s : State} {l : Nat}, (∀ c ∈ cs, c.1 < l) → cs.Sublist s.mem →
    cs.Sublist (s.putWords l ws).mem
  | [], _, _, _, hs => hs
  | _ :: ws, _, _, hlow, hs =>
    State.putWords_sublist ws (fun c hc => Nat.lt_add_right 8 (hlow c hc)) (State.put_sublist hlow hs _)

theorem State.putRecords_sublist {base : Nat} (hlow : ∀ c ∈ cs, c.1 < base + 0x100000) :
    ∀ (js : List CopyJob) {s : State} (i : Nat), cs.Sublist s.mem → cs.Sublist (s.putRecords base i js).mem
  | [], _, _, hs => hs
  | j :: js, s, i, hs => by
    have below (k : Nat) : ∀ c ∈ cs, c.1 < base + 0x103800 + 0x40 * i + k := fun c hc => by have := hlow c hc; omega
    exact State.putRecords_sublist hlow js (i + 1)
      (State.putWords_sublist _ (below 32) (State.putHandle_sublist (below 16) (State.putHandle_sublist (below 0) hs _) _))

/-! ### A save copies the accumulator cells as they are listed -/

/-- The accumulator cells of an engine at their places in a frame (R364). -/
def frameAcc (base : Nat) (x : Engine) : List Host.Cell :=
  (x.acc.filter fun c => c.1 < 0x100000 && c.2 != 0).map fun (a, b) => (base + a, b)

theorem frameAcc_lt (base : Nat) (x : Engine) : ∀ c ∈ frameAcc base x, c.1 < base + 0x100000 := by
  intro c hc
  obtain ⟨d, hd, rfl⟩ := List.mem_map.1 hc
  have hd := (List.mem_filter.1 hd).2
  simp only [Bool.and_eq_true, decide_eq_true_eq] at hd
  simpa using hd.1

theorem State.writeFrame_sublist (s : State) (base : Nat) (x : Engine) (jobs : List CopyJob) (gtag : Nat) :
    (frameAcc base x).Sublist (s.writeFrame base x jobs gtag).mem := by
  have hlow := frameAcc_lt base x
  refine State.putRecords_sublist hlow jobs 0 (State.put_sublist hlow ?_ _)
  exact (List.sublist_append_right ..).trans (List.sublist_append_left ..)

/-- A save changes memory as the writing of its frame does, for a task with the engine's accumulators. -/
theorem State.saveInto_mem {s : State} {e gk : Nat} (hg : (s.eng e).gang = some gk) (f : Nat) (st : MSt) :
    ∃ x jobs, x.acc = (s.eng e).acc ∧
      (s.saveInto e f st).mem = (s.writeFrame (s.frameLoc (cluOf e) f) x jobs (gk % 65536)).mem := by
  unfold State.saveInto
  simp only [hg]
  refine ⟨_, _, ?_, rfl⟩
  cases (s.eng e).drain <;> rfl

theorem State.saveInto_sublist {s : State} {e gk : Nat} (hg : (s.eng e).gang = some gk) (f : Nat) (st : MSt) :
    (frameAcc (s.frameLoc (cluOf e) f) (s.eng e)).Sublist (s.saveInto e f st).mem := by
  obtain ⟨x, jobs, hacc, hmem⟩ := State.saveInto_mem hg f st
  have hx : frameAcc (s.frameLoc (cluOf e) f) (s.eng e) = frameAcc (s.frameLoc (cluOf e) f) x := by simp only [frameAcc, hacc]
  rw [hmem, hx]
  exact s.writeFrame_sublist ..

/-- A save leaves memory in canonical form only where the accumulator cells that it copies rise strictly. -/
theorem State.frameAcc_rising_of_saveInto {s : State} {e gk f : Nat} {st : MSt} (hg : (s.eng e).gang = some gk)
    (hinv : MemInv (s.saveInto e f st)) : (frameAcc (s.frameLoc (cluOf e) f) (s.eng e)).Pairwise fun a b => a.1 < b.1 :=
  ((wf_iff _).1 hinv.1).1.sublist (State.saveInto_sublist hg f st)

/-! ### A task at its boundary is saved -/

/-- A save that its engine's task is ready for is made into the lowest free frame. -/
theorem State.trySave_of_quiesced {s : State} {e gk f : Nat} {park : Bool} (hg : ((s.settleCore e).eng e).gang = some gk)
    (hf : (s.settleCore e).freeFrame? (cluOf e) = some f) (hq : (s.settleCore e).quiesced e gk park = true) (mst : Nat → MSt) :
    s.trySave e park mst = (s.settleCore e).saveInto e f (mst f) := by
  simp only [State.trySave, hg, hf, hq, if_true]

/-- TASK_SAVE of a task at its boundary whose gang stays resident: the task is saved as a parked one. -/
theorem execTaskSave_of_resident {s t : State} {e : Nat} {g : Gang} (hg : (s.eng e).gang.bind s.gangOf = some g) (hst : g.st = .resident)
    (hask : (s.eng e).saveReq = true) (hrun : (s.eng e).stopped = false) (hpark : (s.eng e).parkReq = false)
    (hstat : (s.eng e).stat = .saving) (ht : (s.showSave e).trySave e false .parked = t) (hleft : (t.eng e).gang = none) :
    execTaskSave e s = .next ((t.modGang g.gk fun y => { y with deadline := none, ackd := false }).leaveIfSaved g.gk) := by
  simp [execTaskSave, hg, hst, hask, hrun, hpark, hstat, ht, hleft]

/-! ### The counterexample -/

/-- A gang of one task, on core 0. -/
def loneGang : Gang :=
  { gk := 1, ctx := 0, clu := 0, st := .resident, trapped := false, arrival := 0, admitted := 0, code := .null, dem := 0, engs := [],
    wlp := false, cohort := none, jobs := [], gargs := [], hargs := [], oids := [], tix := 0, bpc := 0, opc := 0, sq := 0, lib := [],
    descs := [], coll := [], deadline := none, waiter := none, ackd := false
    members := [{ pep := 0, sep := none, tiles := [], phase := 0, st := .running 0, sends := [], lent := 0, drain := none, barrier := none,
                  held := [], claim := none, retry := 0, retryAt := 0 }] }

/-- The device after reset but for a task on core 0 that has been asked to leave and a free frame for it: memory is empty, and the
accumulators list two values for one byte. -/
def doubledAccumulator : State :=
  { State.reset with
    engines := [(0, { Engine.reset with
      acc := [(0, 1), (0, 2)], gang := some 1, holder := some 1, stat := .saving, saveReq := true })]
    clusters := [(0, { Cluster.reset with frcnt := 1, frfree := 1 })]
    gangs := [loneGang] }

/-- The same device with the task in frame 0. -/
def doubledAccumulatorSaved : State := ((doubledAccumulator.showSave 0).settleCore 0).saveInto 0 0 (.parked 0)

theorem trySave_doubledAccumulator : (doubledAccumulator.showSave 0).trySave 0 false .parked = doubledAccumulatorSaved := by
  have hgang : (((doubledAccumulator.showSave 0).settleCore 0).eng 0).gang = some 1 := rfl
  have hframe : ((doubledAccumulator.showSave 0).settleCore 0).freeFrame? (cluOf 0) = some 0 := rfl
  have hquiet : ((doubledAccumulator.showSave 0).settleCore 0).quiesced 0 1 false = true := rfl
  exact State.trySave_of_quiesced hgang hframe hquiet .parked

/-- The task's gang stays resident, so that nothing but the save happens. -/
theorem execTaskSave_doubledAccumulator :
    execTaskSave 0 doubledAccumulator =
      .next (doubledAccumulatorSaved.modGang 1 fun y => { y with deadline := none, ackd := false }) := by
  have hstays : (doubledAccumulatorSaved.modGang 1 fun y => { y with deadline := none, ackd := false }).leaveIfSaved 1 =
      doubledAccumulatorSaved.modGang 1 fun y => { y with deadline := none, ackd := false } := rfl
  rw [execTaskSave_of_resident (g := loneGang) rfl rfl rfl rfl rfl rfl trySave_doubledAccumulator rfl]
  exact congrArg Host.Outcome.next hstays

theorem step_doubledAccumulator :
    step { doubledAccumulator with agenda := [⟨0, .event (.taskSave 0)⟩] } = execTaskSave 0 doubledAccumulator := rfl

theorem memInv_modGang (s : State) (gk : Nat) (f : Gang → Gang) : MemInv (s.modGang gk f) ↔ MemInv s := Iff.rfl

/-- Refutes O60: from `doubledAccumulator`, whose memory is empty, TASK_SAVE copies two cells for one byte into memory. `MemInv` does not
hold the accumulators of the engines to the canonical form, which a step needs to keep it. -/
theorem not_stepsKeepMemoryCanonical : ¬ Obligations.StepsKeepMemoryCanonical := by
  unfold Obligations.StepsKeepMemoryCanonical
  intro h
  have hstart : MemInv { doubledAccumulator with agenda := [⟨0, .event (.taskSave 0)⟩] } := ⟨rfl, .nil⟩
  have hend := h _ _ hstart (step_doubledAccumulator.trans execTaskSave_doubledAccumulator)
  have hrise := State.frameAcc_rising_of_saveInto (s := (doubledAccumulator.showSave 0).settleCore 0) (e := 0) (gk := 1) rfl
    ((memInv_modGang ..).1 hend)
  exact absurd hrise (by decide)

end Sys2Proof.Machine
